-- ==== Sys2Proof/Word.lean ====
section
/-! DEFINITION. The byte type of the model and the sparse keyed lists that its stores are made of. -/

namespace Sys2Proof

/-- One byte. Every multi-byte field of the spec is little-endian (R5). -/
abbrev Byte := BitVec 8

/-- A run of bytes, the one of the lowest address first (R5). -/
abbrev Bytes := List Byte

/-- A sparse store: pairs of a key and a value, keys strictly rising. -/
abbrev KMap (α : Type) := List (Nat × α)

end Sys2Proof
end

