-- ==== Sys2Proof/Machine/Types.lean ====
section
/-! DEFINITION. What the rows of the table carry: results of host reads, TMI commands, flits, packets, rim accesses, measured samples. Plain data, no meaning. -/

namespace Sys2Proof.Machine

/-- What a read of host memory over CXL.io returned (R201, R314, R319). -/
inductive HostRead where
  | ok (data : Bytes)
  | cxlError
  | poison
  deriving DecidableEq, Repr

/-- How a write to host memory ended as the device observes it (R201, R319). -/
inductive WriteEnd where
  | ok
  | cxlError
  deriving DecidableEq, Repr

/-- Who carried a TMI command to the device: a ring pair (R308) or the sideband endpoint (R416). -/
inductive CmdSrc where
  | pair (n : Nat)
  | sideband
  deriving DecidableEq, Repr

/-- A TMI command as firmware carries it out: its 64-byte descriptor (Table 11.2), what a read of its
buffer returned, and how a write of its buffer ended (R319). -/
structure Cmd where
  src  : CmdSrc
  desc : Bytes
  data : HostRead
  wr   : WriteEnd
  deriving DecidableEq, Repr

/-- What the code of a store said about the word or line read (Tables 3.10 and 6.9). -/
inductive Ecc where
  | clean
  | corrected
  /-- a whole x4 device of a cellar rank was corrected (R190) -/
  | device (rank dev : Nat)
  | uncorrectable (syn : Nat)
  deriving DecidableEq, Repr

/-- What the code of a tile's store found in one 64-bit word that a row reads (Table 3.10): its store (Table 3.11), its byte
address there, and the syndrome where the word cannot be corrected; none where one bit was corrected. -/
structure WordErr where
  store : Nat
  addr  : Nat
  syn   : Option Nat
  deriving DecidableEq, Repr

/-- What the code of a link found in one of the nine words of a flit (R76, Table 3.10): which word, and whether it could
not be corrected. -/
structure FlitErr where
  word : Nat
  bad  : Bool
  deriving DecidableEq, Repr

/-- An operand of the press as it stands in the working store (R34, R35, R63): its operand format word, the addresses of
its element codes and of its scale plane, its extents along the output axis and along K, and the output index at which the
block read begins. Codes stand in order of the output index, each index's codes in order of K (log 35). -/
structure OpRef where
  word   : Nat
  codes  : Nat
  scales : Nat
  outs   : Nat
  ks     : Nat
  out0   : Nat
  deriving DecidableEq, Repr

/-- One segment of a press operation on one lane: the codes of both operands along K, and their scale
words' multiplier and exponent (R32, R39), as the press reads them. Formats are the `FMT` codes of Table 2.5. -/
structure Segment where
  fmtA : Nat
  fmtB : Nat
  qa   : List Nat
  qb   : List Nat
  ma   : Nat
  mb   : Nat
  ea   : Int
  eb   : Int
  deriving DecidableEq, Repr

/-- The checked and unchecked stages of Table 2.10 at which a bit of a value can be disturbed. -/
inductive Stage where
  | decode | segmentSum | scaleProduct | scaledProduct | exponent | align
  | vatAdd | vatOverflow | conversion | shaperShift | shaperInterp | shaperTable
  | smxSum | smxMax | sfChoice | sfQuotient | sfRound
  deriving DecidableEq, Repr

/-- A disturbance of a datapath: bit `bit` of the value of stage `stage` on lane or element `lane` is flipped. -/
structure Upset where
  stage : Stage
  lane  : Nat
  bit   : Nat
  deriving DecidableEq, Repr

/-- Shaper functions of Table 2.8 but `SMX`, which is a row of its own. -/
inductive ShaperFn where
  | exp | rcp | rsq | sig | tnh | slu | glu
  deriving DecidableEq, Repr

/-- Where a drain takes its inputs: accumulators of the vat, named by micro-tile and index, or one block of `n` of the
results waiting at the shaper, or (conversion only) `n` codes of a QB block of the working store, from address `codes` on,
with their scale word (R44, R45, R72). -/
inductive DrainSrc where
  | vat (accs : List (Nat × Nat))
  | shaper (n : Nat)
  | codes (fmt codes n scale : Nat)
  deriving DecidableEq, Repr

/-- Where a shaper result goes (R50). -/
inductive ShaperDst where
  | finder
  | vat (accs : List (Nat × Nat))
  deriving DecidableEq, Repr

/-- A report to a partition's arbiter (Tables 2.9, 3.11 and 4.14). -/
inductive Report where
  | trap (tile cask src uop unit orow ocol work : Nat)
  | graph (tile cask fault qid seqC seqD src uop : Nat)
  /-- an uncorrectable error of a tile store (Table 3.11) -/
  | memory (tile cask store addr syn : Nat) (scrub : Bool)
  deriving DecidableEq, Repr

/-- A flit: header fields of Table 3.6 and the 64-byte payload (R76). -/
structure Flit where
  dst  : Nat
  exit : Nat
  vc   : Nat
  cls  : Nat
  cask : Nat
  age  : Nat
  kind : Nat
  src  : Nat
  qid  : Nat
  seq  : Nat
  last : Bool
  payload : Bytes
  deriving DecidableEq, Repr

/-- A grant of the tally unit (Table 5.10). -/
structure Grant where
  status : Nat
  epoch  : Nat
  first  : Nat
  got    : Nat
  deriving DecidableEq, Repr

/-- Who asks for an access to a line (Table 6.10, `REQ`). -/
inductive Requester where
  /-- a stream engine of a tile, by the request's `SEQ` and the exit side it left by (R77, R79) -/
  | tile (t cask engine seq exit : Nat)
  /-- the host over CXL.mem; whether its meta state puts the line into the host-tracking filter (R409) -/
  | host (track : Bool)
  | peer (node tag : Nat)
  | decant
  | scrubber
  | serving
  | firmware
  deriving DecidableEq, Repr

/-- The kinds of access to one 64-byte line: a read, a prefetch (R143), a write of `data` at byte `off`,
an atomic add of `width` bytes (R255). -/
inductive AccKind where
  | read
  | prefetch
  | write (off : Nat) (data : Bytes)
  | atomic (off width operand : Nat) (fetch : Bool)
  deriving DecidableEq, Repr

/-- One access to a line at the rim (R173). `addr` is the device address of the line. -/
structure Access where
  req  : Requester
  cls  : Nat
  addr : Nat
  kind : AccKind
  deriving DecidableEq, Repr

/-- A Dvoriq packet: the header fields of Tables 8.4 and 8.5 and its payload. -/
structure Packet where
  ptype  : Nat
  cls    : Nat
  len    : Nat
  last   : Bool
  pidx   : Nat
  dst    : Nat
  src    : Nat
  tag    : Nat
  gen    : Nat
  addr   : Nat
  status : Nat
  payload : Bytes
  deriving DecidableEq, Repr

/-- A link trailer or idle word of Dvoriq (R247, R261): the link sequence number of its packet, the next sequence it expects of the
other direction, the credits it returns (link virtual channel, and whether reserved), the sequence from which it asks for a replay,
whether its packet took a reserved credit, and the CRC-32. -/
structure Trailer where
  seq      : Nat
  ack      : Nat
  credits  : List (Nat × Bool)
  replay   : Option Nat
  reserved : Bool
  crc      : Nat
  deriving DecidableEq, Repr

/-- The requester of a fabric transaction on this chip (R259). -/
inductive FabUser where
  /-- a stream engine of a tile, by the request's `SEQ` and the exit side it left by (R77, R79) -/
  | stream (tile cask engine seq exit : Nat)
  | serving (ridx : Nat)
  /-- the serving engine's order to a shard of its group for the handoff of an entry (R233) -/
  | shard (ridx shard : Nat)
  | firmware
  | barrier (id : Nat)
  deriving DecidableEq, Repr

/-- A fabric request as it reaches the requester's rim (R244, R258). -/
structure FabReq where
  user  : FabUser
  ptype : Nat
  cls   : Nat
  node  : Nat
  addr  : Nat
  granules : Nat
  data  : Bytes
  deriving DecidableEq, Repr

/-- The contents of `HO_OPEN` (Table 7.15, step 1). -/
structure HoOpen where
  node   : Nat
  tag    : Nat
  gen    : Nat
  ridx   : Nat
  slot   : Nat
  cls    : Nat
  tkey   : Nat
  c      : Nat
  limit  : Nat
  tokbud : Nat
  htag   : Nat
  oring  : Nat
  pfxlen : Nat
  dlact  : Bool
  nodl   : Bool
  head   : Bytes
  npages : Nat
  kvgeo  : Nat
  deriving DecidableEq, Repr

/-- A serving-engine message or its reply (Table 7.15, R229): what it says, apart from how it lies in its granules. -/
inductive SeMsg where
  /-- `HO_OPEN`, to a model slot of the peer -/
  | opens (m : HoOpen)
  /-- `HO_ACCEPT`: the receiver's entry and the pages it allots -/
  | accept (ridx : Nat) (pages : List Nat)
  /-- a refusal with its code; busy has none -/
  | refuse (code : Option Nat)
  /-- `HO_COMMIT`: the peer's entry and the budget that remains, in µs -/
  | commit (ridx budget : Nat)
  /-- the commit is complete -/
  | committed
  /-- `HO_ABORT`: the sender's entry -/
  | abort (ridx : Nat)
  /-- the answer to `HO_ABORT` -/
  | aborted
  /-- the leader's order to a shard: ship these pages of an entry to a node (R233; log 23) -/
  | ship (ridx node : Nat) (pages : List Nat)
  deriving DecidableEq, Repr

/-- One 10 µs sample of the power controller (R352, R360): rail voltages in mV, rail currents in 0.1 A,
the 16 junction sensors of each die in die order and each stack's temperature in units of 0.125 °C. -/
structure Sample where
  railMv : List Nat
  railDa : List Nat
  tj     : List Int
  stk    : List Int
  deriving DecidableEq, Repr

/-- The straps of Table 17.4 as sampled. -/
structure Straps where
  slotId : Nat
  plan   : Nat
  cxlBif : Bool
  xcel   : Bool
  deriving DecidableEq, Repr

/-- What a tasting stage found (Tables 13.3 and 13.5). -/
inductive StageResult where
  | pass
  | fail (cause unit ukind detail : Nat)
  deriving DecidableEq, Repr

/-- A host access to memory that fails in the serving engine (R201). -/
inductive ServFail where
  | prompt (ridx : Nat)
  | output (ring : Nat)
  deriving DecidableEq, Repr

/-- A stream of a port that IDE protects (R411): its link stream, one of its four selective streams, and on port 0 the
stream of CXL.cache and CXL.mem. -/
inductive IdeKind where
  | link
  | selective (k : Nat)
  | cacheMem
  deriving DecidableEq, Repr

/-- IDE_KM messages (R411): a key for one of a stream's two key sets, with the stream ID and, for CXL IDE, skid mode; a switch
to a key set; the end of its use (log 38). -/
inductive IdeReq where
  | program (kind : IdeKind) (id keySet : Nat) (skid : Bool) (key : Bytes)
  | go (kind : IdeKind) (keySet : Nat)
  | stop (kind : IdeKind) (keySet : Nat)
  deriving DecidableEq, Repr

/-- Requests of the SPDM responder that the model tells apart (R424); `secured` tells that the request came inside a secured
session. -/
inductive SpdmReq where
  | negotiate (mldsa shake mlkem aes : Bool)
  | session
  | endSession
  | measurements (index : Nat)
  | challenge
  | certificate (slot : Nat)
  | ideKm (secured : Bool) (r : IdeReq)
  deriving DecidableEq, Repr

/-- PLDM and MCTP control requests (R416). -/
inductive PldmReq where
  | control
  | sensorTj
  | sensorStack (j : Nat)
  | sensorRailMv (r : Nat)
  | sensorRailA (r : Nat)
  | sensorPower
  | sensorState
  deriving DecidableEq, Repr

/-- Requests to a DOE mailbox (R413). -/
inductive DoeReq where
  | discovery
  | cdat (entry : Nat)
  deriving DecidableEq, Repr

end Sys2Proof.Machine
end

