-- ==== Sys2Proof/Config.lean ====
section
/-! DEFINITION. What the spec leaves open: the free values and the constants of one part. Each is opaque, so that nothing can be proved of its value. -/

namespace Sys2Proof.Config

open Sys2Proof.Machine

/-- A fresh value for a choice the spec leaves open; the argument is the State's counter `free` (log 5). -/
opaque freeNat : Nat → Nat

/-- A fresh byte, for contents the spec calls undefined (R327) (log 5). -/
opaque freeByte : Nat → Byte

/-- A fresh bit, for what may act or not (R453) (log 5). -/
opaque freeBit : Nat → Bool

/-- The shaper's result before it is held to the bound of Table 2.8: a function of the function, the input
and both scales, since a part returns one integer for them (R51) (log 7). -/
opaque shaper : ShaperFn → Int → Nat → Nat → Int

/-- The shaper's `SMX` result for element i of a row before it is held to its bound (R52) (log 7). -/
opaque smx : List Int → Nat → Nat → Nat → Int

/-- Severity of a record by type and subtype: Table 15.6 names the field, no rule gives its value (log 9). -/
opaque severity : Nat → Nat → Nat

/-- Fused base voltage in µV of a die, a domain and a performance state (R346) (log 10). -/
opaque baseUv : Nat → Nat → Nat → Nat

/-- Fused sensitivity in µV per 0.10 % of drift of a die and a performance state (R368) (log 10). -/
opaque driftUv : Nat → Nat → Nat

/-- The image with which a bank left the factory (R385) (log 10). -/
opaque factoryImage : Nat → Bytes

/-- SVN floor of the fuses at first power-on (R422) (log 10). -/
opaque factorySvnFloor : Nat

/-- The 256-bit unique device secret in the fuses (R417) (log 10). -/
opaque deviceSecret : Bytes

/-- The public key of the ML-DSA-65 pair that FIPS 204 generates from a seed (R418) (log 8). -/
opaque publicKeyOf : Bytes → Bytes

/-- The custom plan record in package flash when the part is new, if there is one (R238) (log 10). -/
opaque factoryPlan : Option Bytes

/-- ML-DSA-65 verification of FIPS 204: key, context, message, signature (R420, R426) (log 8). -/
opaque verify : Bytes → Bytes → Bytes → Bytes → Bool

/-- The Sceolanex firmware public key in the manager core's read-only memory (R420) (log 8). -/
opaque firmwareKey : Bytes

/-- The manager core's read-only memory, which measurement 1 covers (R423) (log 8). -/
opaque managerRom : Bytes

/-- The bytes an SPDM response carries beyond what the model holds: a signature, a certificate, a key share
(R424) (log 8). -/
opaque spdmBytes : Nat → SpdmReq → Bytes

/-- A draw of the manager core's random generator: byte i of draw n (R427) (log 5). -/
opaque randomByte : Nat → Nat → Byte

/-- The bytes in which measurement 4 covers the security state: Table 15.3 names its parts and no encoding. Running
bank, SVN floor, owned, `COSIGN`, straps (log 8). -/
opaque securityBytes : Nat → Nat → Bool → Bool → Straps → Bytes

/-- What measurement 5 covers when no link plan is in force (R423) (log 8). -/
opaque noPlan : Bytes

/-- A line of the map's directory at a place of a copy, for the slices of 4 GiB that have a leaf (R169 lays it out no further)
(log 11). -/
opaque mapDirectory : List Nat → Nat → Bytes

/-- A line of the page allocator's state at a place of its region, for the pages in use: key, count, retired (R165, R214: no
rule lays it out) (log 11). -/
opaque allocatorLine : List (Nat × Nat × Bool) → Nat → Bytes

/-- A line of the directory of the cellar cache at its place, for what the caches hold: set and partition, unit, frame, valid
and dirty sectors (R165, R186: no rule lays it out) (log 11). -/
opaque cacheDirectory : List (Nat × Nat × Nat × List Nat × List Nat) → Nat → Bytes

/-- What the link trailer carries beside its CRC, as it lies on the wire: sequence, acknowledged sequence, credits returned,
replay asked for, reserved credit taken (R247 lays it out no further) (log 13). -/
opaque trailerBytes : Nat → Nat → List (Nat × Bool) → Option Nat → Bool → Bytes

/-- The counter declaration that a parameter entry of a cask image names, if it names one (R147: no rule lays such an entry out)
(log 28). -/
opaque counterNamed : Bytes → Option Nat

/-- A parameter entry once the physical ID of its counter stands in it (R147) (log 28). -/
opaque withCounter : Bytes → Nat → Bytes

/-- The set of a line in the host-tracking filter of its die (R409 gives its ways and no index) (log 5). -/
opaque filterSet : Nat → Nat

/-- What the 64-byte line at a place of the serving structures' GiB holds (R165; no rule lays them out): k below 524,288
is the pair of prefix entries 2k and 2k + 1, 524,288 + p the page-allocator state of partition p, above it nothing (log 11). -/
opaque servingLine : Nat → Nat

/-- Capacity in GiB of each cellar module as found at stage 7 (R379) (log 10). -/
opaque moduleGib : Nat

end Sys2Proof.Config
end

