-- ==== Sys2Proof/Syntax.lean ====
section
/-! DEFINITION. The commands of the block: one constructor for each row of spec/opcode_table.json, with the row's rule and summary. -/

namespace Sys2Proof

open Sys2Proof.Machine

/-- The commands of the block. The operands carry what reaches the row from outside it. -/
inductive Instr where
  /-- DEV_INFO (R324): TMI command that returns the stepping, running bank, compatibility class, firmware version, node ID and device state. -/
  | devInfo (c : Cmd)
  /-- RING_CREATE (R325): TMI command on pair 0 that creates ring pair 1 to 15 with its class, size, vector and moderation settings. -/
  | ringCreate (c : Cmd)
  /-- RING_DESTROY (R325): TMI command on pair 0 that stops fetching from a pair, waits for the pair's commands to complete and then removes it. -/
  | ringDestroy (c : Cmd)
  /-- NOTICE_MASK (R324): TMI command that sets which notice codes are suppressed. -/
  | noticeMask (c : Cmd)
  /-- STATS_READ (R337): TMI command that writes a statistics group to the buffer and optionally clears each count after reading it. -/
  | statsRead (c : Cmd)
  /-- MEM_MAP (R327): TMI command that backs a range of units on the named tier or the next lower tier with a free frame. -/
  | memMap (c : Cmd)
  /-- MEM_UNMAP (R327): TMI command that releases a range of backed units unless one of them is pinned. -/
  | memUnmap (c : Cmd)
  /-- MEM_QUERY (R327): TMI command that writes the unit-map entries of a range to the buffer. -/
  | memQuery (c : Cmd)
  /-- MEM_PIN (R184): TMI command that pins a range of units in the near tier, promoting them there if needed. -/
  | memPin (c : Cmd)
  /-- MEM_UNPIN (R327): TMI command that releases the command interface's pin reference on a range of units. -/
  | memUnpin (c : Cmd)
  /-- HOST_TIER_ADD (R167): TMI command that registers an extent of host memory as part of the host tier. -/
  | hostTierAdd (c : Cmd)
  /-- HOST_TIER_REMOVE (R167): TMI command that decants every unit of a registered extent to the cellar and then releases the extent. -/
  | hostTierRemove (c : Cmd)
  /-- DMA_COPY (R327): TMI command that copies data between host memory and device memory in either direction. -/
  | dmaCopy (c : Cmd)
  /-- CUVEE_LOAD (R158): TMI command that checks a cuvée, then writes it into a new partition and arms it. -/
  | cuveeLoad (c : Cmd)
  /-- CUVEE_SWAP (R234): TMI command that drains a bound slot's partition, pauses its requests and loads a new cuvée in place of the old one. -/
  | cuveeSwap (c : Cmd)
  /-- CUVEE_UNLOAD (R329): TMI command that drains a partition, faults its remaining entries and releases it. -/
  | cuveeUnload (c : Cmd)
  /-- CASK_LOAD (R329): TMI command that writes one cask slot on every tile of a partition from a cask-image section. -/
  | caskLoad (c : Cmd)
  /-- CASK_EVICT (R329): TMI command that empties a drained READY cask slot. -/
  | caskEvict (c : Cmd)
  /-- PART_RESET (R321): TMI command that resets a partition, aborting its commands and releasing all of its resources. -/
  | partReset (c : Cmd)
  /-- PART_RESUME (R322): TMI command that restarts a STOPPED partition that TRAP_HOLD kept stopped. -/
  | partResume (c : Cmd)
  /-- PART_INSPECT (R330): TMI command that reads a stopped tile's working store, vat, cask store, stream pointers or last records. -/
  | partInspect (c : Cmd)
  /-- PART_QUERY (R328): TMI command that returns a partition's state, columns, slot, cask states, open transaction and fold-round count. -/
  | partQuery (c : Cmd)
  /-- SRING_CREATE (R197): TMI command that creates a submission or output serving ring. -/
  | sringCreate (c : Cmd)
  /-- SRING_DESTROY (R332): TMI command that destroys a serving ring unless a live entry names it. -/
  | sringDestroy (c : Cmd)
  /-- REQ_QUERY (R331): TMI command that writes one request-table entry to the buffer. -/
  | reqQuery (c : Cmd)
  /-- TENANT_KEY_SET (R217): TMI command that installs or removes a tenant key and removes the tenant's prefix entries. -/
  | tenantKeySet (c : Cmd)
  /-- FABRIC_SET (R243): TMI command that sets the board and rack coordinates of the node ID. -/
  | fabricSet (c : Cmd)
  /-- FABRIC_PART_SET (R275): TMI command that starts a change of fabric partition generation or block. -/
  | fabricPartSet (c : Cmd)
  /-- FABRIC_PART_SWITCH (R275): Once every outstanding transaction has ended, the rim replaces the generation and block in one cc, breaks pending arrivals and restarts charter exchanges. -/
  | fabricPartSwitch
  /-- BARRIER_SET (R268): TMI command that configures or unsets a barrier homed on the chip. -/
  | barrierSet (c : Cmd)
  /-- DVQ_PORT_QUERY (R333): TMI command that returns a port's state, quarantine cause, charters, counts and equalisation settings. -/
  | dvqPortQuery (c : Cmd)
  /-- DVQ_PORT_RESET (R277): TMI command that returns a FAILED port to DOWN. -/
  | dvqPortReset (c : Cmd)
  /-- PWR_QUERY (R373): TMI command that writes the power report. -/
  | pwrQuery (c : Cmd)
  /-- MTZ_PLAN (R368): TMI command that makes Metrizor plan a new vintage. -/
  | mtzPlan (c : Cmd)
  /-- MTZ_QUERY (R372): TMI command that writes the report of a vintage held in flash. -/
  | mtzQuery (c : Cmd)
  /-- FW_BANK_WRITE (R390): TMI command that writes a signed firmware image into the bank that is not running and checks it. -/
  | fwBankWrite (c : Cmd)
  /-- FW_BANK_SELECT (R388): TMI command that selects the bank for the next reset, on trial when it is not the running bank. -/
  | fwBankSelect (c : Cmd)
  /-- EVR_READ (R433): TMI command that returns held event records in SEQ order. -/
  | evrRead (c : Cmd)
  /-- EVR_FREEZE (R433): TMI command that sets or releases the TMI freeze on commits to flash. -/
  | evrFreeze (c : Cmd)
  /-- EVR_NONCE (R427): TMI command that issues a new live nonce. -/
  | evrNonce (c : Cmd)
  /-- EVR_CLEAR (R434): TMI command that, under a valid owner authorisation, erases the committed ring and writes a CLEAR record. -/
  | evrClear (c : Cmd)
  /-- CFG_BEGIN (R339): TMI command that opens a configuration transaction on a partition or on the device. -/
  | cfgBegin (c : Cmd)
  /-- CFG_SET (R339): TMI command that adds one setting to an open transaction. -/
  | cfgSet (c : Cmd)
  /-- CFG_COMMIT (R342): TMI command that checks a transaction's settings and then applies them at once or leaves the commit pending. -/
  | cfgCommit (c : Cmd)
  /-- CFG_COMMIT_DEADLINE (R342): The commit deadline expires, so the commit completes ABORTED_NOT_QUIESCENT, closed casks reopen and holds are released. -/
  | cfgCommitDeadline (target : Nat)
  /-- CFG_ABORT (R343): TMI command that ends a transaction and any commit pending on it. -/
  | cfgAbort (c : Cmd)
  /-- CFG_READ (R338): TMI command that returns the current value of a setting. -/
  | cfgRead (c : Cmd)
  /-- CFG_AUTO_ABORT (R339): A transaction idle for 60 s with no commit pending is aborted, and a record and a notice follow. -/
  | cfgAutoAbort (target : Nat)
  /-- COMMAND_DOORBELL (R309): Write of a pair's command doorbell, which sets the new command tail. -/
  | commandDoorbell (pair : Nat) (value : BitVec 32)
  /-- COMPLETION_DOORBELL (R309): Write of a pair's completion doorbell, which sets the completion head. -/
  | completionDoorbell (pair : Nat) (value : BitVec 32)
  /-- COMMAND_FETCH (R311): Firmware fetches a command once completion room and the in-progress limits allow, stopping the pair if the fetch fails. -/
  | commandFetch (pair : Nat) (r : HostRead)
  /-- COMMAND_START (R312): A free control core starts the highest-class fetchable command and makes the checks of R318. -/
  | commandStart
  /-- CLASS_PROMOTION (R298): A BULK or BACKGROUND command unstarted for 10 ms rises one class. -/
  | classPromotion (pair : Nat)
  /-- VECTOR_COALESCE_TIMER (R315): COAL_US expires after the first unsignalled completion, so the pair's MSI-X vector is raised. -/
  | vectorCoalesceTimer (pair : Nat)
  /-- NOTICE_HELD_DELIVER (R345): A held notice takes a completion entry once one becomes free, followed by a NOTICES_LOST notice when due. -/
  | noticeHeldDeliver
  /-- P0_ARM (R441): A write of ARM from 0 to 1 in MBX_P0_CTL checks LOG2N, captures the bases and arms pair 0. -/
  | p0Arm (value : BitVec 32)
  /-- P0_DISARM (R441): A write of ARM from 1 to 0 stops fetching from pair 0, and ARMED clears once no command is in progress. -/
  | p0Disarm (value : BitVec 32)
  /-- CTL_INT_STATUS_WRITE (R439): W1C write that clears device interrupt status bits. -/
  | ctlIntStatusWrite (value hwSet : BitVec 32)
  /-- CTL_INT_ENABLE_WRITE (R439): Write of the interrupt enables, which sends an MSI-X message when an enabled bit's status is already set. -/
  | ctlIntEnableWrite (value : BitVec 32)
  /-- SRING_DB (R445): Write of a serving-ring doorbell: the new tail of a submission ring or the new head of an output ring. -/
  | sringDb (port1 output : Bool) (ring : Nat) (value : BitVec 32)
  /-- EVR_WIN_SEQ_WRITE (R446): Write of EVR_WIN_SEQ, which starts a fetch of the first held record at or after the value written. -/
  | evrWinSeqWrite (value : BitVec 32)
  /-- EVR_WIN_NEXT (R446): Write of 1 to NEXT, which starts a fetch of the record after the one in the window. -/
  | evrWinNext (value : BitVec 32)
  /-- EVR_WIN_FETCH_DONE (R446): A window fetch completes, setting VALID or NONE and WINRDY. -/
  | evrWinFetchDone
  /-- CTL_TICK_LOW_READ (R447): Read of the low word of CTL_TICK, which latches the high word. -/
  | ctlTickLowRead
  /-- REGISTER_WRITE (R435): Write of a direct register that has no behaviour of its own, including a held low half of a 64-bit register. -/
  | registerWrite (offset width : Nat) (value : BitVec 64)
  /-- MANAGER_HEARTBEAT (R447): Every 1 ms the manager core adds 1 to MGRHB. -/
  | managerHeartbeat
  /-- FIRMWARE_HEARTBEAT (R447): Every 1 ms in OPEN the control-core firmware adds 1 to FWHB. -/
  | firmwareHeartbeat
  /-- UOP_ISSUE (R102): A cask issues its next micro-operation once its input tokens and edge credits are present. -/
  | uopIssue (tile : Nat) (pops sends : List Nat) (errs : List WordErr)
  /-- PRESS_OPERATION (R39): A press micro-operation reduces segments, aligns them and adds them into the vat, checking residues. -/
  | pressOperation (tile cask uop microTile orow ocol ac : Nat) (a b : OpRef) (k0 n : Nat) (upset : Option Upset) (errs : List WordErr)
  /-- PRESS_VAT_WRITE (R65): A press operation finishes its pipeline, checks its residue and writes the vat or fails. -/
  | pressVatWrite (tile ac : Nat) (errs : List WordErr)
  /-- VAT_CLEAR (R43): Micro-operation that clears an output tile and sets its accumulator exponent. -/
  | vatClear (tile cask : Nat) (microTiles : List Nat) (x : Int)
  /-- SCALE_FINDER_DRAIN (R45): Micro-operation that requantises an output block into codes and a scale word. -/
  | scaleFinderDrain (tile cask uop orow ocol : Nat) (src : DrainSrc) (fmt : Nat) (stochastic : Bool) (codeAddr scaleAddr ac : Nat) (upset : Option Upset) (errs : List WordErr)
  /-- CONVERSION_DRAIN (R44): Micro-operation that converts accumulators to shaper input. -/
  | conversionDrain (tile cask uop orow ocol : Nat) (src : DrainSrc) (f ac : Nat) (upset : Option Upset) (errs : List WordErr)
  /-- SHAPER_FUNCTION (R51): Micro-operation that evaluates a shaper function on its inputs. -/
  | shaperFunction (tile cask uop orow ocol : Nat) (fn : ShaperFn) (f g : Nat) (dst : ShaperDst) (ac : Nat) (upset : Option Upset)
  /-- SMX (R52): Micro-operation that normalises one row by softmax in three passes. -/
  | smx (tile cask uop orow ocol : Nat) (n f g : Nat) (dst : ShaperDst) (ac : Nat) (upset : Option Upset)
  /-- QUEUE_POP (R117): Micro-operation that pops a token from an inbound queue and counts its slot for credit return. -/
  | queuePop (tile cask queue : Nat) (errs : List WordErr)
  /-- TOKEN_SEND (R86): Micro-operation that sends a token on an edge, spending one end-to-end credit. -/
  | tokenSend (tile cask edge : Nat) (data : Bytes)
  /-- STREAM_RING_PUSH (R138): Micro-operation that pushes a slot into a write ring. -/
  | streamRingPush (tile cask engine : Nat) (data : Bytes)
  /-- STREAM_RING_POP (R137): Micro-operation that pops the complete slot at a read ring's HEAD. -/
  | streamRingPop (tile cask engine : Nat) (errs : List WordErr)
  /-- SHADOW_WRITE (R142): Stream-control micro-operation that writes a shadow descriptor and sets VALID. -/
  | shadowWrite (tile cask engine : Nat) (desc : Bytes) (sameFc : Bool)
  /-- ROTATE (R145): Micro-operation that sends HOLD to the successor's NEXT and swaps the buffers once NEXT has filled. -/
  | rotate (tile cask plan queue edge : Nat) (errs : List WordErr)
  /-- STEP_END (R113): Micro-operation that marks the cask's part of a serving step as done and reports it to the fold sequencer. -/
  | stepEnd (tile cask : Nat)
  /-- END (R101): Micro-operation that restarts the list at micro-operation 0. -/
  | endList (tile cask : Nat)
  /-- TALLY_REQUEST_ISSUE (R150): Micro-operation that sends a tally request numbered from the die's request sequence. -/
  | tallyRequestIssue (tile counter count : Nat)
  /-- TALLY_REQUEST (R151): A tally unit serves a request as a replay, a duplicate, stale, exhausted or a grant. -/
  | tallyRequest (tile seq counter epoch count : Nat)
  /-- TALLY_GRANT (R150): The tile's tally port accepts the matching grant and discards others. -/
  | tallyGrant (tile seq : Nat) (grant : Grant)
  /-- TALLY_RESEND_TIMER (R150): No grant has arrived 8,192 fc after the request, so the port sends the identical request again. -/
  | tallyResendTimer (tile : Nat)
  /-- TRAP_MESSAGE (R55): A trap or residue report reaches the trap arbiter, which captures the record or counts it in FURTHER and stops the fold clock. -/
  | trapMessage (part : Nat) (reports : List Report)
  /-- MEMORY_ERROR_REPORT (R91): A KIND 9 report of an uncorrectable tile store error reaches the arbiter, which writes a record and stops the fold clock. -/
  | memoryErrorReport (tile cask store addr syn : Nat) (scrub : Bool)
  /-- GRAPH_FAULT (R128): A graph fault reaches the fold sequencer, which writes a record, stops the fold clock and aborts the step. -/
  | graphFault (part : Nat) (reports : List Report)
  /-- TILE_IDLE_REPORT (R55): A stopping tile's idling report reaches the arbiter, and the last such report completes the stop and finalises the record. -/
  | tileIdleReport (part tile : Nat)
  /-- STEP_END_REPORT (R113): A tile's STEP_END report reaches the fold sequencer. -/
  | stepEndReport (part tile : Nat)
  /-- PARTITION_RESTART (R114): Firmware restarts a stopped partition at step 0 of a new fold round. -/
  | partitionRestart (part : Nat)
  /-- FLIT_RECEIVE (R85): A flit enters a router input buffer, which checks its code and requests a replay when a word is uncorrectable. -/
  | flitReceive (tile port : Nat) (rim : Bool) (fc : Nat) (err : Option FlitErr)
  /-- FLIT_FORWARD (R83): An output port sends the flit chosen by class, age and port order, or a replay flit. -/
  | flitForward (tile port : Nat) (rim : Bool) (fc : Nat)
  /-- HOP_CREDIT_RETURN (R85): A per-hop buffer credit returns to the sender. -/
  | hopCreditReturn (tile port vc : Nat) (rim reserved : Bool)
  /-- MESH_REPLAY_REQUEST (R93): A replay request reaches the sender, which resends from the failed flit. -/
  | meshReplayRequest (tile port vc : Nat) (rim : Bool)
  /-- TOKEN_ARRIVAL (R116): A token reaches its consumer tile, which checks it and writes it into its queue or raises a graph fault. -/
  | tokenArrival (tile : Nat) (flit : Flit)
  /-- E2E_CREDIT_RETURN (R87): A KIND 7 credit-return flit adds credits to the producer's edge. -/
  | e2eCreditReturn (tile : Nat) (flit : Flit)
  /-- CREDIT_RETURN_TIMER (R87): 16 fc after the oldest uncounted pop, the consumer sends its credit count. -/
  | creditReturnTimer (tile cask queue : Nat)
  /-- STEERING_PAIRING (R126): The steering unit pairs the head control and data tokens, checking SEQ and selector. -/
  | steeringPairing (tile cask : Nat) (errs : List WordErr)
  /-- STEERED_TOKEN_SEND (R127): A steered data token is sent on its selected edge once that edge holds a credit. -/
  | steeredTokenSend (tile cask pair : Nat)
  /-- SCHEDULE_CLOCK (R111): A schedule-clock flit reaches a tile, which schedules its switch and advances the counter epochs. -/
  | scheduleClock (tile : Nat)
  /-- CASK_SWITCH (R107): At its computed fc the tile switches to the next step's cask in 1 ac. -/
  | caskSwitch (tile : Nat)
  /-- FOLD_STEP_TIMER (R112): A step's DWELL expires, so the fold sequencer sends the next step's schedule-clock flits. -/
  | foldStepTimer (part : Nat)
  /-- FOLD_LEAD (R110): LEAD ac before the end of a step, the stream engines begin prefetch for the next step's cask. -/
  | foldLead (part : Nat)
  /-- TILER_DONE (R155): The tiler reports its choice written to the inactive bank, which becomes active at the next fold-round boundary. -/
  | tilerDone (part : Nat)
  /-- STREAM_ISSUE (R137): A stream engine issues the lines of the slot at ISSUE, re-arming from the shadow at a wrap. -/
  | streamIssue (tile cask engine : Nat) (errs : List WordErr)
  /-- READ_DATA_ARRIVAL (R137): A memory read data flit lands in its ring slot and may complete the slot. -/
  | readDataArrival (tile cask engine slot line : Nat) (data : Bytes)
  /-- WRITE_ACK_ARRIVAL (R138): A write acknowledgement returns, and the last one of a slot advances HEAD. -/
  | writeAckArrival (tile cask engine slot : Nat)
  /-- TILE_SCRUB (R92): Every 4,096 fc the scrubber reads one line of the working store or the vat. -/
  | tileScrub (tile : Nat) (errs : List WordErr)
  /-- CASK_IMAGE_LINE_WRITE (R98): An image line arrives at a tile and is written into the cask store with its code checked. -/
  | caskImageLineWrite (part slot tileIndex line : Nat) (data : Bytes) (found : Ecc)
  /-- RIM_ACCESS (R173): An access to a line is served at the rim of its die: from the cache, from the home tier, or waiting for a decant. -/
  | rimAccess (a : Access) (found mapA mapB : Ecc) (held : Bool)
  /-- DEMOTION_SELECT (R179): With free frames below the low mark, a decant engine selects the eligible unit of the oldest age bin and starts its decant. -/
  | demotionSelect (die tier : Nat)
  /-- DECANT_COMPLETE (R181): A decant's copy completes, updating the unit map, releasing waiting accesses and freeing the source frame. -/
  | decantComplete (unit line : Nat) (found : Ecc)
  /-- CELLAR_FULL_RECORD (R179): Every 60 s while the cellar cannot demote, one record is written. -/
  | cellarFullRecord
  /-- AGE_TICK (R176): The 1 ms age tick advances. -/
  | ageTick
  /-- MAP_SWEEP (R176): The map sweeper visits entries and holds untouched ages at their cap. -/
  | mapSweep (unit : Nat)
  /-- PATROL_SCRUB (R191): The patrol scrubber reads frames of the near tier and the cellar at BACKGROUND. -/
  | patrolScrub (tier frame line : Nat) (found : Ecc)
  /-- SUBMISSION_FETCH (R198): The serving-ring engine fetches a descriptor from a submission ring, or stops the ring if the fetch fails. -/
  | submissionFetch (ring : Nat) (r : HostRead)
  /-- SUBMIT (R202): A SUBMIT descriptor is checked and fills an ADMITTED entry with a probe of the prefix table, or is refused. -/
  | submit (ring : Nat) (desc : Bytes) (prompt : HostRead)
  /-- CANCEL (R203): A CANCEL descriptor sets a pending cancel on the named entry. -/
  | cancel (ring : Nat) (desc : Bytes)
  /-- PAUSE (R203): A PAUSE descriptor sets a pending pause on the named entry. -/
  | pause (ring : Nat) (desc : Bytes)
  /-- RESUME (R203): A RESUME descriptor sets a pending resume on the named entry. -/
  | resume (ring : Nat) (desc : Bytes)
  /-- SERVING_HOST_ACCESS_FAIL (R201): A prompt read or output-ring write to host memory fails, faulting the request or stopping the output ring. -/
  | servingHostAccessFail (what : ServFail)
  /-- HO_OPEN (R229): A receiver gets HO_OPEN, makes its checks and answers with HO_ACCEPT or a refusal. -/
  | hoOpen (m : HoOpen)
  /-- HO_ACCEPT (R228): The source gets the receiver's acceptance and page IDs, and begins shipping pages. -/
  | hoAccept (ridx peerRidx : Nat) (pages : List Nat)
  /-- HO_REFUSAL (R229): The source gets a refusal, then retries busy refusals, tries ANODE or faults the request. -/
  | hoRefusal (ridx status : Nat) (busy : Bool)
  /-- HO_BUSY_RETRY_TIMER (R229): 1 ms after a busy refusal, the source sends HO_OPEN again. -/
  | hoBusyRetryTimer (ridx : Nat)
  /-- KVSHIP (R265): A KVSHIP packet is written into its allotted page, and the last one of a page sends a KVACK. -/
  | kvship (p : Packet)
  /-- KVACK (R228): A page acknowledgement reaches the source, which sends HO_COMMIT after the last one. -/
  | kvack (port : Nat) (p : Packet)
  /-- HO_COMMIT (R228): The receiver gets the commit, sets the deadline, enters DECODE and writes ADMITTED. -/
  | hoCommit (node ridx tag gen budget : Nat)
  /-- HO_COMMIT_COMPLETE (R228): The source gets the commit's completion, writes HANDED and frees its entry, or faults PEER_LOST on failure. -/
  | hoCommitComplete (ridx : Nat) (ok : Bool)
  /-- HO_ABORT (R230): A receiver gets HO_ABORT and releases its pages and entry without a record. -/
  | hoAbort (node ridx tag gen : Nat)
  /-- HO_RECEIVER_SILENCE (R232): A receiver entry that hears nothing for four times T faults with PEER_LOST. -/
  | hoReceiverSilence (ridx : Nat)
  /-- FABRIC_REQUEST (R258): The rim takes a fabric request, assigns a tag and routes it, or completes it locally with NO_ROUTE. -/
  | fabricRequest (r : FabReq)
  /-- DVQ_PACKET_RECEIVE (R264): A port receives a packet, checks its CRC and sequence, and requests replay on a fault. -/
  | dvqPacketReceive (port : Nat) (t : Trailer) (p : Packet)
  /-- DVQ_REPLAY_REQUEST (R264): A Dvoriq replay request causes the sender to resend from the failed packet. -/
  | dvqReplayRequest (port seq : Nat)
  /-- RD (R254): The destination performs a read request and answers with RDDATA pieces or ERR. -/
  | rd (p : Packet)
  /-- WR (R253): The destination performs a write and answers with ACK once every line is done. -/
  | wr (p : Packet)
  /-- ADD32 (R255): The destination adds a 32-bit operand atomically and answers ACK. -/
  | add32 (p : Packet)
  /-- ADD64 (R255): The destination adds a 64-bit operand atomically and answers ACK. -/
  | add64 (p : Packet)
  /-- FADD32 (R255): The destination fetches and adds a 32-bit word and answers ATDATA. -/
  | fadd32 (p : Packet)
  /-- FADD64 (R255): The destination fetches and adds a 64-bit word and answers ATDATA. -/
  | fadd64 (p : Packet)
  /-- BAR_ARRIVE (R269): The home checks an arrive and lists it, releasing every node when N have arrived. -/
  | barArrive (p : Packet)
  /-- BAR_RELEASE (R269): A participant's rim completes its pending arrival and captures its tick. -/
  | barRelease (p : Packet)
  /-- RDDATA (R254): A read response piece reaches the requester's rim and is forwarded. -/
  | rddata (port : Nat) (p : Packet)
  /-- ACK (R260): An acknowledgement completes its transaction and frees its tag. -/
  | ack (port : Nat) (p : Packet)
  /-- ATDATA (R255): An atomic's old value completes the transaction. -/
  | atdata (port : Nat) (p : Packet)
  /-- SEREPLY (R250): A serving-engine reply completes its SEMSG transaction. -/
  | sereply (port : Nat) (p : Packet)
  /-- ERR (R254): An error response completes its transaction with the error. -/
  | err (port : Nat) (p : Packet)
  /-- FABRIC_TIMEOUT (R285): A transaction whose last response has not arrived by T completes with TIMEOUT. -/
  | fabricTimeout (tag : Nat)
  /-- TAG_WITHHOLD_EXPIRY (R260): 4 T after a timeout, the tag becomes reusable. -/
  | tagWithholdExpiry (tag : Nat)
  /-- BARRIER_KEEPALIVE (R286): Every T while an arrival is pending, the rim resends BAR_ARRIVE, and the answer decides the pending arrival. -/
  | barrierKeepalive (home id : Nat) (answer : Option Nat)
  /-- BARRIER_ROUND_LIMIT (R287): The oldest arrival passes RLIMIT, so the home breaks and unconfigures the barrier. -/
  | barrierRoundLimit (id : Nat)
  /-- PORT_HOLD_END (R281): Once transactions to a next hop end after a port-set change, held requests resume on the new set. -/
  | portHoldEnd (hop : Nat)
  /-- LOSS_OF_SIGNAL (R277): A port loses signal or lock and enters DOWN, starting a training attempt. -/
  | lossOfSignal (port : Nat)
  /-- TRAINING_RETRY_TIMER (R277): 1 s after a failed attempt, a DOWN port begins a new training attempt. -/
  | trainingRetryTimer (port : Nat)
  /-- TRAINING_NO_SIGNAL (R277): An attempt that detects no signal in 1 ms fails without counting. -/
  | trainingNoSignal (port : Nat)
  /-- TRAINING_TIMEOUT (R277): A training attempt with signal fails at 200 ms and counts toward FAILED. -/
  | trainingTimeout (port : Nat)
  /-- TRAINING_COMPLETE (R278): Training completes, so the port enters CHARTER and sends its charter. -/
  | trainingComplete (port : Nat) (lanes : Nat) (equal : Bytes) (adapted : Bool)
  /-- CHARTER_RECEIVE (R279): A port checks the charter it received and sends its verdict. -/
  | charterReceive (port : Nat) (charter : Bytes)
  /-- CHARTER_VERDICT (R279): The far verdict arrives, and the port enters OPEN or QUARANTINED. -/
  | charterVerdict (port : Nat) (accept : Bool)
  /-- CABLE_TEMPERATURE_POLL (R289): Every 1 s firmware reads module temperatures, warning or taking a port down. -/
  | cableTemperaturePoll (port : Nat) (warning alarm temp : Int)
  /-- CABLE_COOLDOWN_EXPIRY (R289): After 60 s below warning, a port taken down for temperature trains again. -/
  | cableCooldownExpiry (port : Nat)
  /-- RETIMER_LOCK_POLL (R289): Every 100 ms firmware checks retimer lock, putting an OPEN port that lost lock DOWN. -/
  | retimerLockPoll (port : Nat) (locked : Bool)
  /-- CABLE_HOT_JOIN_OR_LOSS (R289): A module joins or is lost, and its inventory is taken and recorded. -/
  | cableHotJoinOrLoss (port : Nat) (inventory : Option Bytes)
  /-- CABLE_BUS_SILENT (R289): A sideband bus silent for 5 s is reported once. -/
  | cableBusSilent (bus : Nat)
  /-- POWER_SAMPLE (R352): Every 10 µs the power controller samples rails and sensors and lowers or raises the power ceiling. -/
  | powerSample (m : Sample)
  /-- STATE_CHANGE_COMPLETE (R347): A voltage ramp or multiplier slew completes, finishing a change of performance state. -/
  | stateChangeComplete
  /-- SUPPLY_WARNING_CROSSING (R355): A rail falls below its warning level, so hardware halves the root. -/
  | supplyWarningCrossing (rail mv : Nat)
  /-- SUPPLY_RETURN_TIMER (R356): Every rail stays at its return level for 50 µs, so the root returns to full speed. -/
  | supplyReturnTimer
  /-- SUPPLY_DIP_REPORT_TIMER (R359): After the 1 s merge window, a SUPPLY_DIP record and notice are sent. -/
  | supplyDipReportTimer
  /-- RAIL_RESET_LEVEL (R357): A rail reaches its reset level, causing a warm-reach or cold reset. -/
  | railResetLevel (rail : Nat)
  /-- SUPPLY_RESET_RECOVERY (R357): Rails stable for 1 ms with PWROK and PERST_N high, so tasting restarts. -/
  | supplyResetRecovery (straps : Straps)
  /-- THERMAL_COMPARATOR_105 (R361): Tj reaches 105 °C, so hardware sets the thermal ceiling to P4. -/
  | thermalComparator105 (die : Nat) (temp : Int)
  /-- THERMAL_LOWER_TIMER (R361): Every 100 µs while hot, the thermal ceiling falls one state. -/
  | thermalLowerTimer
  /-- THERMAL_RAISE_TIMER (R361): After 10 ms cool, the thermal ceiling rises one state. -/
  | thermalRaiseTimer
  /-- THERMAL_TRIP (R363): Tj reaches 115 °C or a stack 100 °C, driving THERMTRIP_N low and stopping the core clocks. -/
  | thermalTrip (temp : Int)
  /-- PWRBRK_N_ASSERT (R351): PWRBRK_N goes low, so the brake ceiling drops to P4. -/
  | pwrbrkNAssert (ns : Nat)
  /-- PWRBRK_RELEASE_TIMER (R351): 1 ms after PWRBRK_N rises, the brake ceiling is released. -/
  | pwrbrkReleaseTimer
  /-- EPO_N (R364): EPO_N is held low, so memories enter self-refresh, core clocks stop and links drop. -/
  | epoN (ns : Nat)
  /-- METRIZOR_SAMPLE (R366): Every 600 s in OPEN the manager core samples every monitor, deferring or skipping the sample when it must. -/
  | metrizorSample (drifts : List Int)
  /-- VINTAGE_PLAN_TIMER (R368): After 168 hours in OPEN, a new vintage is planned. -/
  | vintagePlanTimer
  /-- VINTAGE_AUTO_COMMIT (R371): An unapplied vintage 168 hours old, and each hour after, is committed by firmware. -/
  | vintageAutoCommit
  /-- VIN_AUX_POWER_UP (R375): VIN_AUX and the reference come up, and the always-on domain leaves power-on reset. -/
  | vinAuxPowerUp
  /-- PWROK_RISE (R375): PWROK rises, so rails are checked, straps sampled and tasting may begin. -/
  | pwrokRise (straps : Straps)
  /-- PERST_N_RISE (R375): PERST_N rises, so CXL training starts and tasting may begin. -/
  | perstNRise (straps : Straps)
  /-- PERST_N_FALL (R391): PERST_N falls while powered, beginning a warm reset. -/
  | perstNFall
  /-- VIN_AUX_LOSS (R377): VIN_AUX falls, ending in OFF after the staging buffer is committed when time allows. -/
  | vinAuxLoss (held50ms : Bool)
  /-- TASTING_STAGE_COMPLETE (R378): A tasting stage finishes, starting the next stage or reaching a verdict. -/
  | tastingStageComplete (r : StageResult)
  /-- TASTING_STAGE_TIMEOUT (R378): A tasting stage exceeds its maximum and fails with cause 2. -/
  | tastingStageTimeout
  /-- WATCHDOG_EXPIRY (R389): No verdict within 5 s, so the watchdog performs a warm reset. -/
  | watchdogExpiry
  /-- CORK_FINAL_TIMER (R382): The 10 ms for writing FINAL records ends, so the device enters CORKED. -/
  | corkFinalTimer
  /-- FUNCTION_LEVEL_RESET (R392): A CXL FLR stops work, releases host lines, empties state and restores defaults. -/
  | functionLevelReset
  /-- PORT1_FLR (R396): A function-level reset of port 1 destroys serving rings 8–15 and ends their entries. -/
  | port1Flr
  /-- CXL_LINK_DOWN (R415): Port 0 link goes down without PERST_N, acting as an FLR that discards host lines. -/
  | cxlLinkDown
  /-- CXL_LINK_TRAINED (R395): A CXL port completes training, recording any reduced width or rate. -/
  | cxlLinkTrained (port width rate : Nat) (cxl flit256 : Bool)
  /-- GPF_PHASE1 (R406): Global persistent flush phase 1 writes back dirty host-tier lines and stops CXL.cache. -/
  | gpfPhase1
  /-- HOST_SNOOP (R403): A host CXL.cache snoop is answered at the rim of the line's die. -/
  | hostSnoop (addr kind : Nat)
  /-- CXL_MEM_REQUEST (R408): A host CXL.mem request through the HDM-DB window is served as a host access. -/
  | cxlMemRequest (hpa : Nat) (write : Option Bytes) (metaShared : Bool) (found : Ecc)
  /-- BIRSP (R409): The host's BIRsp releases the waiting access and updates the filter. -/
  | birsp (addr : Nat)
  /-- CXL_CACHE_RESPONSE (R404): Host data for a CXL.cache request arrives and fills the rim cache, or fails on poison. -/
  | cxlCacheResponse (addr : Nat) (r : HostRead)
  /-- HDM_DECODER_COMMIT (R407): Host software commits the HDM decoder, opening the window or failing. -/
  | hdmDecoderCommit (base size skip : Nat) (ways : Nat) (biEnable : Bool)
  /-- IDE_INTEGRITY_FAILURE (R412): An IDE stream fails an integrity check and enters the insecure state. -/
  | ideIntegrityFailure (stream : Nat)
  /-- SPDM_REQUEST (R424): The SPDM responder answers a request on a DOE mailbox or over MCTP. -/
  | spdmRequest (transport : Nat) (r : SpdmReq)
  /-- DOE_REQUEST (R413): A DOE object for discovery or CDAT is served. -/
  | doeRequest (port : Nat) (r : DoeReq)
  /-- AUTH_NONCE (R427): Vendor SPDM request that issues a live nonce. -/
  | authNonce (secured : Bool)
  /-- OWN_CLAIM (R425): Vendor SPDM request that claims an unowned part with a key. -/
  | ownClaim (secured : Bool) (key : Bytes)
  /-- OWN_TRANSFER (R425): Vendor SPDM request that, under authorisation, installs a new owner key. -/
  | ownTransfer (secured : Bool) (key auth : Bytes)
  /-- OWN_RELEASE (R425): Vendor SPDM request that, under authorisation, makes the part unowned. -/
  | ownRelease (secured : Bool) (auth : Bytes)
  /-- OWN_COSIGN (R425): Vendor SPDM request that, under authorisation, sets COSIGN. -/
  | ownCosign (secured : Bool) (cosign : Bool) (auth : Bytes)
  /-- NONCE_EXPIRY (R427): 60 s after issue, the live nonce ends. -/
  | nonceExpiry
  /-- SIDEBAND_TMI_COMMAND (R416): A vendor-defined MCTP message carries one TMI command and returns its completion. -/
  | sidebandTmiCommand (c : Cmd)
  /-- PLDM_REQUEST (R416): A PLDM or MCTP control request is answered by the sideband endpoint. -/
  | pldmRequest (r : PldmReq)
  /-- RECORD_COMMIT (R431): The manager core commits staged records to the flash ring, erasing a sector ahead. -/
  | recordCommit
  /-- FREEZE_EXPIRY (R433): A freeze hold ends 60 s after it was set. -/
  | freezeExpiry (sideband : Bool)
  /-- OPERATING_TIME_SAVE (R429): Every hour the operating-time count is saved to flash. -/
  | operatingTimeSave
  /-- LOAD_COMPLETION (R158): The loader finishes writing a cuvée's images, tensor data, seeds, credits and counters and completes the load or swap, leaving LOADING or SWAPPING. -/
  | loadCompletion (part : Nat) (ok : Bool)
  /-- BANK_WRITE_COMPLETION (R390): The erase, program and read-back of a firmware bank end, the signature is checked and AOK or BOK is set. -/
  | bankWriteCompletion
  /-- GENERATION_HOLD_EXPIRY (R282): Requests held at the rim because every port to a next hop is quarantined with cause 5 complete with STALE_GENERATION after the fabric timeout. -/
  | generationHoldExpiry (hop : Nat)
  /-- EGRESS_PACKET_SEND (R262): A Dvoriq port egress finishes the packet on the wire and chooses the next one by replay, class, type and age, if it holds a credit. -/
  | egressPacketSend (port : Nat)
  /-- IDLE_WORD_RECEIVE (R261): A port receives an 8-byte idle word that carries link credit returns. -/
  | idleWordReceive (port : Nat) (t : Trailer)
  /-- PORT1_LINK_DOWN (R396): CXL port 1's link goes down, after which serving rings 8 to 15 are not served and cannot be created. -/
  | port1LinkDown
  deriving DecidableEq, Repr

end Sys2Proof
end

