-- ==== Sys2Proof/Machine/State.lean ====
section
/-! DEFINITION. The state of the block as plain data, everything the spec gives it, and its reset value. Each field's comment ends with [rules; width or type; reset]. -/

namespace Sys2Proof.Machine

/-- What stops the model. -/
inductive Fault where
  /-- Raised by a power sample that shows a rail or a junction beyond the absolute maximum ratings of
  Table 17.6, where "the device promises nothing" (R459). Safe: nothing is claimed of the part beyond it. -/
  | beyondRatings
  deriving DecidableEq, Repr

/-- Why a command is refused by the model itself (a refusal the spec gives is a completion, not this). -/
inductive Refusal where
  /-- The row of this mnemonic has no meaning yet. Raised by the dispatch alone. Safe. -/
  | notModelled (mnemonic : String)
  deriving DecidableEq, Repr

/-! ## Time and the recorder -/

/-- Counters that run by themselves. -/
structure Clock where
  /-- chip tick, 100 MHz [R57, R267, R391; 64; 0] -/
  tick : Nat
  /-- latched high word of CTL_TICK [R447; 32; 0 (DESIGN CHOICE, log 3)] -/
  tickHigh : Nat
  /-- whether the next read of 0x0_030C returns the latched word [R447; 1; false (DESIGN CHOICE, log 3)] -/
  tickLatched : Bool
  /-- 1 ms age tick; a unit's `TOUCH` takes its low 24 bits, a prefix entry's `LASTUSE` all 32 [R168, R176, R221; 32; 0 (DESIGN CHOICE, log 3)] -/
  age : Nat
  /-- operating seconds counted by the recorder, whole life of the part [R429; 12 + 20; 0 (DESIGN CHOICE, log 3)] -/
  opSec : Nat
  /-- operating seconds as last saved to flash [R429; 12 + 20; 0 (DESIGN CHOICE, log 3)] -/
  opSaved : Nat
  /-- ticks since the last whole operating second [R429; 27; 0 (DESIGN CHOICE, log 3)] -/
  subSec : Nat
  /-- manager-core heartbeat [R447; 16; 0] -/
  mgrHb : Nat
  /-- control-core heartbeat [R447; 16; 0] -/
  fwHb : Nat
  deriving DecidableEq, Repr

/-- An event record (Tables 15.6 and 15.7). -/
structure Record where
  seq  : Nat
  opSec : Nat
  pcyc : Nat
  rtype : Nat
  sev  : Nat
  cont : Bool
  tick : Nat
  node : Nat
  body : Bytes
  deriving DecidableEq, Repr

/-- The event recorder. -/
structure Recorder where
  /-- records committed to the flash ring, oldest first [R431; list; empty (DESIGN CHOICE, log 3)] -/
  ring : List Record
  /-- slot of the ring, 0 to 32,767, that takes the next committed record; it gives the sector entered [R431; 15; 0] -/
  slot : Nat
  /-- staging buffer of 512 records, oldest first [R431; list; empty] -/
  staging : List Record
  /-- sequence number of the next record [R428; 32; 0 (DESIGN CHOICE, log 3)] -/
  nextSeq : Nat
  /-- sequence mark in the configuration region [R466; 32; 0 (DESIGN CHOICE, log 3)] -/
  mark : Nat
  /-- staging overflow count [R432; 32; 0] -/
  overflow : Nat
  /-- records dropped since the last RECORDS_LOST record [R432; 32; 0] -/
  dropped : Nat
  /-- SEQ of the last record staged before the first drop [R432; 32; 0] -/
  dropAfter : Nat
  /-- numbers skipped at a loss of VIN_AUX, not yet reported: AFTER and LOST [R466; option; none] -/
  skipped : Option (Nat × Nat)
  /-- freeze held by TMI [R433; 1; false] -/
  frozenTmi : Bool
  /-- freeze held by the sideband endpoint [R433; 1; false] -/
  frozenSide : Bool
  /-- power-cycle count [R375, R428; 32; 1 (DESIGN CHOICE, log 3)] -/
  pcyc : Nat
  deriving DecidableEq, Repr

/-! ## Direct registers -/

/-- Direct registers that no other part of the state holds (R435 to R447). -/
structure Regs where
  /-- CTL_VERDICT [R438; 32; 0] -/
  verdict : BitVec 32
  /-- CTL_TASTE_MS in ticks; the register reads ms [R438; 32; 0] -/
  tasteTicks : Nat
  /-- CTL_INT_STATUS [R439; 32; 0] -/
  intStatus : BitVec 32
  /-- CTL_INT_ENABLE [R439; 32; 0] -/
  intEnable : BitVec 32
  /-- CTL_INT_VEC [R439; 32; 0] -/
  intVec : BitVec 32
  /-- CTL_SCRATCH0 to 3 [R447; 4 x 32; 0] -/
  scratch : List (BitVec 32)
  /-- CTL_DEVID valid and readable [R437, R438; 1; false] -/
  idValid : Bool
  /-- CTL_FWVER [R437; 32; 0] -/
  fwver : BitVec 32
  /-- CTL_FWINFO [R437; 32; 0] -/
  fwinfo : BitVec 32
  /-- MBX_P0_CBASE [R440; 64; 0] -/
  p0c : BitVec 64
  /-- MBX_P0_QBASE [R440; 64; 0] -/
  p0q : BitVec 64
  /-- MBX_P0_SBASE [R440; 64; 0] -/
  p0s : BitVec 64
  /-- MBX_P0_CTL [R440; 32; 0] -/
  p0ctl : BitVec 32
  /-- MBX_P0_STAT.ARMED [R440; 1; false] -/
  armed : Bool
  /-- MBX_P0_STAT.ARMERR [R440; 1; false] -/
  armErr : Bool
  /-- held low halves of 64-bit registers, by offset [R435; 3 x 32; none held] -/
  held : KMap (BitVec 32)
  /-- MBX_DB_DROP [R443; 32; 0] -/
  dbDrop : Nat
  /-- pair-0 doorbells held during TASTING: completion head, command tail [R443; option pair; none] -/
  heldCdb : Option Nat
  /-- as heldCdb, completion doorbell [R443; option; none] -/
  heldQdb : Option Nat
  /-- EVR_WIN_SEQ [R446; 32; 0] -/
  winSeq : BitVec 32
  /-- EVR_WIN_STAT.BUSY with the sequence sought, and whether VALID or NONE is to follow [R446; option; none] -/
  winBusy : Option Nat
  /-- EVR_WIN_DATA while VALID, with its SEQ [R446; option of a record; none] -/
  winRec : Option Record
  /-- EVR_WIN_STAT.NONE [R446; 1; false] -/
  winNone : Bool
  /-- MSI-X table: address and data words of each vector of port 0 [R400; 64 x 96; 0 (PRESUMED, log 24)] -/
  msixTable : KMap (BitVec 96)
  /-- MSI-X mask bits of port 0 that are set [R400, R439; 64; all set (PRESUMED, log 24)] -/
  msixMasked : List Nat
  /-- MSI-X pending bits of port 0 [R400, R439; 64; empty] -/
  msixPending : List Nat
  deriving DecidableEq, Repr

/-! ## The mailbox interface -/

/-- A command fetched from a pair and not yet started (R311, R312). -/
structure Fetched where
  desc : Bytes
  /-- class of the pair when fetched [R317] -/
  cls : Nat
  deriving DecidableEq, Repr

/-- A command started and not yet complete. -/
structure Running where
  src : CmdSrc
  cid : Nat
  opcode : Nat
  cls : Nat
  target : Nat
  deriving DecidableEq, Repr

/-- A notice held or to be sent (R344, R345). -/
structure Notice where
  code : Nat
  evseq : Nat
  result : Bytes
  deriving DecidableEq, Repr

/-- A ring pair (R308 to R315). Absent pairs are not created or not armed. -/
structure Pair where
  /-- LOG2N [R308; 4; as created] -/
  log2n : Nat
  /-- class [R308, R324; 2; as created] -/
  cls : Nat
  /-- NOTIFY [R324; 1; as created] -/
  notify : Bool
  /-- MSI-X vector [R315; 6; as created] -/
  vec : Nat
  /-- COAL_CNT [R315; 8; as created] -/
  coalCnt : Nat
  /-- COAL_US [R315; 10; as created] -/
  coalUs : Nat
  /-- command ring base [R308; 64; as created] -/
  cbase : Nat
  /-- completion ring base [R308; 64; as created] -/
  qbase : Nat
  /-- status word address [R308; 64; as created] -/
  sbase : Nat
  /-- CHEAD of the status word [R310; 12; 0] -/
  chead : Nat
  /-- CTAIL of the status word [R310; 12; 0] -/
  ctail : Nat
  /-- NLOST of the status word [R310; 16; 0] -/
  nlost : Nat
  /-- STOPPED of the status word [R310, R314; 1; false] -/
  stopped : Bool
  /-- command tail as last rung [R309; 12; 0] -/
  tail : Nat
  /-- completion head as last rung [R309; 12; 0] -/
  qhead : Nat
  /-- fetching stopped by RING_DESTROY or by clearing ARM [R325, R441; 1; false] -/
  closing : Bool
  /-- promotions given to the oldest unstarted command [R298; 2; 0] -/
  promoted : Nat
  /-- doorbells whose commands have not all started, oldest first: tail written, order of arrival [R312; list; empty] -/
  rings : List (Nat × Nat)
  /-- completions written since the vector was last raised [R315; Nat; 0] -/
  unsignalled : Nat
  /-- fetched commands not yet started, oldest first [R311, R312; list; empty] -/
  fetched : List Fetched
  deriving DecidableEq, Repr

/-- The mailbox interface. -/
structure Tmi where
  /-- ring pairs 0 to 15 that exist [R308; map; empty] -/
  pairs : KMap Pair
  /-- commands started and not complete, oldest first [R311; list; empty] -/
  running : List Running
  /-- notice mask [R324; 32; 0 (DESIGN CHOICE, log 3)] -/
  mask : BitVec 32
  /-- held notices, at most 1,024 [R345; list; empty] -/
  held : List Notice
  /-- notices dropped since the last NOTICES_LOST notice [R345; Nat; 0] -/
  lost : Nat
  /-- doorbell order counter [R312; Nat; 0] -/
  order : Nat
  /-- RING_DESTROY commands waiting for their pair to drain: pair and command [R325; list; empty] -/
  destroying : List (Nat × Running)
  deriving DecidableEq, Repr

/-- What the device sends out of the block, in order. Model's own record of its outputs (log 4). -/
structure Out where
  /-- writes to host memory over CXL.io, oldest first: port, address, bytes [R198, R310; list; empty] -/
  writes : List (Nat × Nat × Bytes)
  /-- MSI-X messages sent: port and vector [R315, R439; list; empty] -/
  msix : List (Nat × Nat)
  /-- CXL.cache requests sent: request name code of Table 14.5 and line [R402; list; empty] -/
  cxlCache : List (Nat × Nat)
  /-- back-invalidate snoops sent: true BISnpInv, and line [R409; list; empty] -/
  biSnp : List (Bool × Nat)
  /-- answers to host snoops and CXL.mem requests: line, data (none dropped), poison [R403, R408; list; empty] -/
  memResp : List (Nat × Bytes × Bool)
  /-- packets and idle words sent on Dvoriq ports: port, packet (none for an idle word), trailer [R247, R261; list; empty] -/
  dvq : List (Nat × Option Packet × Trailer)
  /-- serving-engine messages and replies sent: node and contents [R228, R250; list; empty] -/
  seMsgs : List (Nat × SeMsg)
  /-- answers over the sideband endpoint and DOE mailboxes [R413, R416, R424; list; empty] -/
  sideband : List Bytes
  deriving DecidableEq, Repr

/-! ## Configuration -/

/-- An open configuration transaction (R338 to R343). -/
structure Txn where
  txid : Nat
  /-- settings in the order set: key and value bytes [R339] -/
  sets : List (Nat × Bytes)
  /-- CFG_SETs received, replaced ones too [R339] -/
  count : Nat
  deriving DecidableEq, Repr

/-- A pending commit (R342). -/
structure Commit where
  cmd : Running
  txid : Nat
  drain : Bool
  /-- tick at which DEADLINE passes [R342] -/
  deadline : Nat
  /-- casks closed for it [R119] -/
  closes : List Nat
  /-- tokens flushed while pending [R338] -/
  flushed : Nat
  deriving DecidableEq, Repr

/-- Device-wide settings and transaction (Table 11.14). -/
structure Cfg where
  /-- NEAR_LOW [R178; 32; 16384] -/
  nearLow : Nat
  /-- NEAR_HIGH [R178; 32; 32768] -/
  nearHigh : Nat
  /-- CEL_LOW [R178; 32; 32768] -/
  celLow : Nat
  /-- CEL_HIGH [R178; 32; 65536] -/
  celHigh : Nat
  /-- PROMOTE [R178; 8; 4] -/
  promote : Nat
  /-- SCRUB_HOURS [R178; 8; 24] -/
  scrubHours : Nat
  /-- FABRIC_TIMEOUT in µs [R284; 32; 2000] -/
  timeoutUs : Nat
  /-- the device's open transaction [R338; option; none] -/
  txn : Option Txn
  /-- the device's pending commit [R342; option; none] -/
  commit : Option Commit
  /-- last TXID given on each target whose commit applied: target to TXID [R343; map; empty] -/
  applied : KMap Nat
  /-- a commit by firmware of a vintage is pending [R371; 1; false] -/
  autoVintage : Bool
  deriving DecidableEq, Repr

/-! ## Partitions -/

/-- States of a cask slot (Table 4.1). -/
inductive CaskState where
  | empty | loading | ready | active | closed
  deriving DecidableEq, Repr

/-- States of a partition other than EMPTY (Table 11.5); an EMPTY partition is absent. -/
inductive PartState where
  | loading | running | stopped | swapping
  deriving DecidableEq, Repr

/-- One step of a fold schedule (Table 4.9). -/
structure FoldStep where
  cask : Nat
  dwell : Nat
  lead : Nat
  deriving DecidableEq, Repr

/-- A cask slot of a partition (R95 to R97). -/
structure Slot where
  /-- state [R96; 5 values; EMPTY] -/
  st : CaskState
  /-- drained in the latest report the sequencer holds [R118; 1; false] -/
  drained : Bool
  /-- written by the latest CUVEE_LOAD or CUVEE_SWAP and not since by CASK_LOAD [R292; 1; false] -/
  fromCuvee : Bool
  /-- for a CLOSED slot: a whole round has begun, and whether a token moved in it [R120; option; none] -/
  still : Option Bool
  deriving DecidableEq, Repr

/-- A counter allotted to a partition (R147, Table 5.9). -/
structure CounterUse where
  phys : Nat
  decl : Nat
  arm : Nat
  base : Nat
  limit : Nat
  deriving DecidableEq, Repr

/-- The shard manifest as loaded (Tables 7.11 and 7.12), with the chip's own shard. -/
structure Manifest where
  nshard : Nat
  role : Nat
  pageU : Nat
  heads : Nat
  poolPages : Nat
  ctxMax : Nat
  stepkPre : Nat
  stepkDec : Nat
  tmax : Nat
  kvgeo : Nat
  dnode : Nat
  dslot : Nat
  anode : Nat
  aslot : Nat
  /-- shard number, node and step area of each shard [Table 7.12] -/
  shards : List (Nat × Nat × Nat)
  shard : Nat
  pool : Nat
  lista : Nat
  stepa : Nat
  deriving DecidableEq, Repr

/-- A step shape (Table 5.11). -/
structure Shape where
  stepk : Nat
  hmax : Nat
  bmax : Nat
  smax : Nat
  mb : Nat
  mbs : Nat
  nh : Nat
  n0 : Nat
  kdim : Nat
  splitM : Nat
  splitN : Nat
  deriving DecidableEq, Repr

/-- A tiling candidate (Table 5.12). -/
structure Candidate where
  stepk : Nat
  order : Nat
  tm : Nat
  tn : Nat
  tk : Nat
  xexp : Nat
  bmin : Nat
  bmax : Nat
  hmin : Nat
  hmax : Nat
  smin : Nat
  smax : Nat
  c0 : Nat
  c1 : Nat
  c2 : Nat
  c3 : Nat
  afmt : Nat
  bfmt : Nat
  deriving DecidableEq, Repr

/-- One request's place in a step (Table 7.9). -/
structure Placed where
  ridx : Nat
  t : Nat
  c : Nat
  first : Nat
  n : Nat
  deriving DecidableEq, Repr

/-- A serving step, formed or in progress (R207, R211). -/
structure Step where
  stepn : Nat
  stepk : Nat
  prefill : Bool
  s : Nat
  /-- B, the requests in the batch [R153, R211] -/
  b : Nat
  /-- the entries placed, which only the leader of a group holds [R208, R233] -/
  batch : List Placed
  /-- parameter words the tiler chose: candidate index, Mt, Nt [R155] -/
  choice : Option (Nat × Nat × Nat)
  deriving DecidableEq, Repr

/-- A record being completed at the arbiter (R55): the report captured and the later ones counted. -/
structure Capture where
  report : Report
  further : Nat
  round : Nat
  deriving DecidableEq, Repr

/-- What a swap has reserved beside what its partition holds (R159): columns, counters, request-table entries, pages. -/
structure Reserve where
  cols : Nat
  counters : List CounterUse
  share : List Nat
  pool : Nat
  /-- units to be pinned [R159, R184] -/
  pins : List Nat
  /-- slots for which the new cuvée has images [R97, R234] -/
  slots : List Nat
  deriving DecidableEq, Repr

/-- A weight movement plan (Table 5.8): the tensor, how it moves (1 rotation, 2 chain), whether its blocks are loaded at every
serving step, the bytes of one block buffer, the tile indices in order, and where the tensor's bytes lie. -/
structure Plan where
  tensor : Nat
  move : Nat
  reload : Bool
  buf : Nat
  tiles : List Nat
  /-- device address of the tensor's codes -/
  home : Nat
  /-- bytes of its codes and scale plane -/
  size : Nat
  deriving DecidableEq, Repr

/-- A load, swap or unload in progress (R158, R234, R329). -/
structure LoadJob where
  cmd : Running
  image : Nat
  /-- swap: DRAIN_STEPS left and KVKEEP -/
  drainLeft : Nat
  kvkeep : Bool
  unload : Bool
  swap : Bool
  /-- the drain steps are over and nothing is served [R234 step 4] -/
  writing : Bool
  /-- the casks have drained and are emptied, so the load proper runs [R234 step 6] -/
  emptied : Bool
  /-- reservations of a swap [R159] -/
  res : Option Reserve
  /-- units that the load has backed [R159, R465] -/
  backed : List Nat
  /-- layers left in the cellar and their units, for the completion [R188] -/
  layers : List Nat
  cellarUnits : Nat
  deriving DecidableEq, Repr

/-- A cask load in progress (R329, R98). -/
structure CaskJob where
  cmd : Running
  slot : Nat
  sect : Nat
  /-- next line to be written and lines in all, by tile index [R98] -/
  lines : KMap (Nat × Nat)
  deriving DecidableEq, Repr

/-- A partition. -/
structure Partition where
  /-- state [R320; 4 values; LOADING when created] -/
  st : PartState
  /-- first array column [R20; 6; COL0] -/
  col0 : Nat
  /-- columns [R20; 7; COLS] -/
  cols : Nat
  /-- model slot [R20; 6; SLOT] -/
  slot : Nat
  /-- graph identifier [R99, R131; 32; from the cuvée] -/
  graph : Nat
  /-- cuvée's SEED [R49; 64; from the cuvée] -/
  seed : Nat
  /-- cask slots 0 to 3 [R95; 4 slots; EMPTY] -/
  slots : List Slot
  /-- fold schedule in effect [R109; 2 to 4 steps; from the cuvée] -/
  sched : List FoldStep
  /-- current step of the round [R109; 2; 0] -/
  step : Nat
  /-- fold-round count [R328; 32; 0] -/
  rounds : Nat
  /-- fold-round number within the serving step [R57; 32; 0] -/
  roundInStep : Nat
  /-- fold clock held at a quiescent point by a device-wide DRAIN [R342; 1; false] -/
  heldClock : Bool
  /-- prefetch for the next step has begun (LEAD span) [R110; 1; false] -/
  lead : Bool
  /-- tiles whose STEP_END report the sequencer holds [R113; list; empty] -/
  stepEnds : List Nat
  /-- trap mask [R58; 3; 0] -/
  trapMask : Nat
  /-- TRAP_HOLD [R322; 1; 0] -/
  trapHold : Bool
  /-- CACHE_UNITS [R178, R340; 32; 0] -/
  cacheUnits : Nat
  /-- NaR counts: input, overflow, domain [R58; 3 x 32 saturating; 0] -/
  nar : List Nat
  /-- scale-clamp count [R46; 32; 0] -/
  scaleClamp : Nat
  /-- missed-deadline count [R209; 32; 0] -/
  missed : Nat
  /-- record being completed while the stop is not complete [R55; option; none] -/
  capture : Option Capture
  /-- stop in progress: tiles that have reported idling [R55; option of list; none] -/
  idled : Option (List Nat)
  /-- last trap record [R330; 32 bytes; none] -/
  lastTrap : Option Bytes
  /-- last graph-fault record [R330; 32 bytes; none] -/
  lastGraph : Option Bytes
  /-- last memory-error record [R330; 32 bytes; none] -/
  lastMem : Option Bytes
  /-- stopped by a graph fault [R130, R322; 1; false] -/
  faulted : Bool
  /-- tally counters allotted [R147; list; from the cuvée] -/
  counters : List CounterUse
  /-- request-table entries of the share, by index [R204; list; from the cuvée] -/
  share : List Nat
  /-- manifest [R212; record; from the cuvée] -/
  man : Manifest
  /-- step shapes [R153; list; from the cuvée] -/
  shapes : List Shape
  /-- tiling candidates [R154; list; from the cuvée] -/
  cands : List Candidate
  /-- preload token counts of the cuvée: tile index, cask, queue to k [R161, R292; list; from the cuvée] -/
  preloads : List (Nat × Nat × Nat × Nat)
  /-- movement plans of the cuvée [R144, R292; list; from the cuvée] -/
  plans : List Plan
  /-- step in progress [R113; option; none] -/
  cur : Option Step
  /-- the pool is to be rebuilt once no entry is left [R226; 1; false] -/
  rebuild : Bool
  /-- step formed whose input bank waits to become active [R113, R155; option; none] -/
  formed : Option Step
  /-- the tiler has reported done for the formed step [R155; 1; false] -/
  tilerDone : Bool
  /-- number of the next step [R211; 32; 0] -/
  stepn : Nat
  /-- the last step was a decode step, so a prefill step may run next [R208; 1; true (DESIGN CHOICE, log 13)] -/
  afterDecode : Bool
  /-- open transaction [R338; option; none] -/
  txn : Option Txn
  /-- pending commit [R342; option; none] -/
  commit : Option Commit
  /-- load, swap or unload in progress [R158, R234; option; none] -/
  job : Option LoadJob
  /-- cask load in progress [R329; option; none] -/
  caskJob : Option CaskJob
  /-- pins held by the partition: units [R184; list; empty] -/
  pins : List Nat
  deriving DecidableEq, Repr

/-! ## Tiles -/

/-- A vat accumulator: NaR or an integer of magnitude at most 2^47 - 1 (R41). -/
inductive Acc where
  | nar
  | val (v : Int)
  deriving DecidableEq, Repr

/-- A press operation in flight (R65): per lane the aligned addends in K order with their source of NaR, and
whether a residue check of the press failed. -/
structure PressOp where
  cask : Nat
  uop : Nat
  mt : Nat
  orow : Nat
  ocol : Nat
  /-- per lane, in ascending K: none a NaR input, or the exact aligned value (which may overflow) -/
  addends : List (List (Option Int))
  bad : Bool
  /-- a disturbance of the vat adder, applied at the write -/
  upset : Option Upset
  /-- the ac in which it issued: an operation of the next ac on its micro-tile takes a value forwarded from it -/
  ac : Nat
  deriving DecidableEq, Repr

/-- An inbound queue (R103, R115). -/
structure Queue where
  /-- slot index of the head token [R115; 8; 0] -/
  head : Nat
  /-- SEQ and flits of each queued token and its place in the order of the tile's arrivals, head first [R73, R125; list of
  8 + 5 + Nat; empty] -/
  seqs : List (Nat × Nat × Nat)
  /-- flits of a token landed and not yet its last: SEQ and payload so far [R86; option; none] -/
  part : Option (Nat × Bytes)
  /-- pops counted and not yet returned [R87; 5; 0] -/
  uncounted : Nat
  deriving DecidableEq, Repr

/-- An outbound edge (R105). -/
structure Edge where
  /-- end-to-end credits held by the producer [R86; 9; CREDITS less preload] -/
  credits : Nat
  /-- next SEQ [R125; 8; 0, or k after a preload of k] -/
  seq : Nat
  deriving DecidableEq, Repr

/-- A ring slot's progress: lines sent for, lines landed (read rings), pushed and lines acknowledged (write rings), and the
address of each line as the descriptor in force gave it when the slot was taken. -/
structure RingSlot where
  issued : Nat
  landed : List Nat
  pushed : Bool
  acks : Nat
  addrs : List Nat
  deriving DecidableEq, Repr

/-- A stream engine's registers for one cask (R134 to R143). -/
structure Stream where
  /-- active descriptor [R134; 64 bytes; from the image] -/
  active : Bytes
  /-- shadow descriptor [R134; 64 bytes; from the image] -/
  shadow : Bytes
  /-- ISSUE index [R136; 4; 0] -/
  issue : Nat
  /-- ISSUE wrap bit [R136; 1; false] -/
  iwrap : Bool
  /-- HEAD index [R136; 4; 0] -/
  head : Nat
  /-- HEAD wrap bit [R136; 1; false] -/
  hwrap : Bool
  /-- remaining-slot count [R136; 32; COUNT0 x COUNT1] -/
  remain : Nat
  /-- slots of the ring in use [R137, R138; map; empty] -/
  slots : KMap RingSlot
  /-- outstanding reads of 64 bytes of this engine under this cask [R74; 7; 0] -/
  outstanding : Nat
  /-- requester sequence of the next request [R77; 8; 0 (DESIGN CHOICE, log 27)] -/
  seq : Nat
  /-- requests whose answer has not come: SEQ, slot, line [R137, R138; list; empty] -/
  waits : List (Nat × Nat × Nat)
  /-- addresses of lines to be prefetched into the rim cache and not yet asked for [R143; list; empty] -/
  ahead : List Nat
  deriving DecidableEq, Repr

/-- A data token popped by the steering unit that waits for a credit (R127): token bytes and edges left. -/
structure Steered where
  data : Bytes
  edges : List Nat
  deriving DecidableEq, Repr

/-- What a tile holds for one cask slot (R95, R102). -/
structure CaskCtx where
  /-- image in the cask store [R95, R99; up to 49,152 bytes; empty] -/
  image : Bytes
  /-- micro-operation pointer [R102; 12; 0] -/
  uptr : Nat
  /-- the micro-operation last issued, which the rows of its class carry out [R101, R102; option of 12; none] -/
  issued : Option Nat
  /-- queues by index [R103; map; empty] -/
  queues : KMap Queue
  /-- edges by index [R105; map; empty] -/
  edges : KMap Edge
  /-- pairs holding a steered token [R127; map; empty] -/
  steered : KMap Steered
  /-- stream engines' registers [R136; map; empty] -/
  streams : KMap Stream
  /-- inactive bank of type-0xA0 parameter entries, by index [R155; map; empty] -/
  bank : KMap Bytes
  /-- this cask has executed STEP_END in the serving step in progress [R113; 1; false] -/
  stepDone : Bool
  deriving DecidableEq, Repr

/-- The two block buffers of a rotation on one tile, which lie in the shared window (R144, R145). -/
structure Ring where
  /-- `HOLD` is the second of the two buffers: the swaps so far are odd -/
  swapped : Bool
  /-- `HOLD` holds a block -/
  held : Bool
  /-- `HOLD` has been sent and `NEXT` is awaited; cask and queue of the rotation edge's consumer side -/
  waiting : Option (Nat × Nat)
  deriving DecidableEq, Repr

/-- A request of the tally port (R150). -/
structure TallyReq where
  /-- cask tag of the request, kept since a re-sent request is identical in every bit [R150] -/
  cask : Nat
  seq : Nat
  counter : Nat
  epoch : Nat
  count : Nat
  deriving DecidableEq, Repr

/-- A tile. -/
structure Tile where
  /-- accumulators by 32 x micro-tile + index [R68; 32,768 x 48; 0 (DESIGN CHOICE, log 11)] -/
  vat : KMap Acc
  /-- accumulator exponent by micro-tile [R43, R68; 8; 0 (DESIGN CHOICE, log 11)] -/
  vatX : KMap Int
  /-- working store [R70; 1 MiB; 0 (DESIGN CHOICE, log 11)] -/
  ws : List Host.Cell
  /-- words whose contents are uncorrectable: store (Table 3.11), byte address, syndrome [R91; list; empty] -/
  bad : List (Nat × Nat × Nat)
  /-- the NaR report last sent: its ac, output row and column, place in the tile, and flit [R56; option; none] -/
  lastNar : Option (Nat × Nat × Nat × Nat × Flit)
  /-- cask slots 0 to 3 [R95; 4; empty] -/
  casks : KMap CaskCtx
  /-- rotation buffers by movement plan [R145; map; empty] -/
  rings : KMap Ring
  /-- cask running [R107; 2; 0] -/
  running : Nat
  /-- scheduled switch to a cask [R111; option; none] -/
  switchTo : Option Nat
  /-- press operations in flight, oldest first [R65; list; empty] -/
  pipe : List PressOp
  /-- shaper inputs converted and waiting, each with the cask whose operation it is [R44, R50, R107; list; empty] -/
  shaperIn : List (Nat × Option Int)
  /-- shaper results waiting for the scale finder, each with its cask and its g, oldest first [R50, R107; list; empty] -/
  shaperOut : List (Nat × Nat × Option Int)
  /-- stochastic generator [R49; 64; 0 (DESIGN CHOICE, log 11)] -/
  gen : BitVec 64
  /-- corrected errors of working store, vat and cask store, and link corrections [R90, R337; 4 x 16 saturating; 0] -/
  corrected : List Nat
  /-- next line of the scrubber: store (0 working, 1 vat) [R92; 1; 0 (DESIGN CHOICE, log 11)] -/
  scrubStore : Nat
  /-- next scrub line of each store [R92; 2 x 14; 0 (DESIGN CHOICE, log 11)] -/
  scrubLine : List Nat
  /-- request sequences of the tally port, one per die [R150; 4 x 8; 0 (DESIGN CHOICE, log 11)] -/
  tallySeq : List Nat
  /-- outstanding tally request [R150; option; none] -/
  tallyReq : Option TallyReq
  /-- last work granted: first index and count [R150, R57; option; none] -/
  work : Option (Nat × Nat)
  /-- copy of the epoch of each counter [R149; map of 16; 0] -/
  epochs : KMap Nat
  /-- flits waiting for the local injection port, oldest first, each with the stream engine it waits in, 4 for the tile's
  other units [R74, R83; list; empty] -/
  inject : List (Nat × Flit)
  /-- stream engine that the local injection port served last [R74; 2; 3 (DESIGN CHOICE, log 27)] -/
  served : Nat
  /-- fc in which the tile last injected a VC3 flit [R83; option; none] -/
  vc3At : Option Nat
  /-- tokens that have arrived so far, which orders them by age [R73; Nat; 0] -/
  arrivals : Nat
  /-- tokens refused whose last flit has not come: source, QID, SEQ [R116; list; empty] -/
  refused : List (Nat × Nat × Nat)
  /-- flits delivered by the router to this tile and not yet taken [R79; list; empty] -/
  eject : List Flit
  /-- the tile has stopped issuing for a stop of its partition [R55, R114; 1; false] -/
  idle : Bool
  /-- the tile has sent its idling report [R55; 1; false] -/
  idleSent : Bool
  deriving DecidableEq, Repr

/-! ## Mesh -/

/-- A flit that stands in an input buffer: whether it took a reserved credit, and the fc in which it entered (R81, R82). -/
structure Buffered where
  flit : Flit
  reserved : Bool
  since : Nat
  /-- the rim has taken the request and answers it while its buffer is still held [R258, R306] -/
  taken : Bool
  deriving DecidableEq, Repr

/-- A flit on the wires of a link or in its replay buffer: its number among the flits sent on the link, and whether it took a
reserved credit (R81, R93). -/
structure Sent where
  n : Nat
  flit : Flit
  reserved : Bool
  deriving DecidableEq, Repr

/-- One direction of a link, with the sender's credits and replay buffer and the receiver's input buffers (R81, R85, R93).
The local injection port of a tile is such a direction too, without wires. -/
structure Link where
  /-- input buffers of the receiver [R81; 10 or 4 flits per VC; empty] -/
  buf : List Buffered
  /-- shared credits held by the sender, by VC [R81; 4 counts; 8, 8, 8, 4] -/
  shared : List Nat
  /-- reserved credits by VC [R81; 4 counts; 2, 2, 2, 0] -/
  reserved : List Nat
  /-- credits of buffers that flits have left, on their way back: VC, reserved [R85; list; empty] -/
  back : List (Nat × Bool)
  /-- flits sent so far [R93; Nat; 0] -/
  sent : Nat
  /-- flits sent and not yet received, oldest first [R85; list; empty] -/
  wire : List Sent
  /-- replay buffer: last 16 flits sent [R93; list; empty] -/
  replay : List Sent
  /-- flits to be replayed, in order [R93; list; empty] -/
  resend : List Sent
  /-- the flit for which the receiver waits on a VC, discarding every other: its number [R93; map; empty] -/
  awaited : KMap Nat
  /-- failed transfers in a row of the flit awaited, by VC [R93, R94; 4 x 4; 0] -/
  fails : List Nat
  /-- link marked failed [R94; 1; false] -/
  failed : Bool
  deriving DecidableEq, Repr

/-! ## Tally units -/

/-- A tally counter (R147). -/
structure Counter where
  value : Nat
  base : Nat
  limit : Nat
  epoch : Nat
  deriving DecidableEq, Repr

/-- The tally units. -/
structure Tally where
  /-- counters by physical ID [R147; 4,096; absent until allotted] -/
  counters : KMap Counter
  /-- last request record by 4,096 x die + tile: SEQ and grant [R151; 8 + grant; invalid] -/
  recs : KMap (Nat × Grant)
  deriving DecidableEq, Repr

/-! ## Memory -/

/-- Unit-map entry (Table 6.4). -/
structure UnitEntry where
  tier : Nat
  frame : Nat
  touch : Nat
  tcnt : Nat
  pin : Bool
  nopromo : Bool
  dfail : Bool
  busy : Bool
  cached : Bool
  deriving DecidableEq, Repr

/-- A line of the rim cache (R172, R173, R194, R402). -/
structure RimLine where
  /-- line number: device address divided by 64 -/
  line : Nat
  dirty : Bool
  /-- holds uncorrectable data and is held in its way [R194] -/
  held : Bool
  /-- for a host-tier line: owned rather than shared [R402] -/
  owned : Bool
  data : Bytes
  deriving DecidableEq, Repr

/-- A set of the rim cache: 16 ways and the tree pseudo-LRU bits (R172). -/
structure RimSet where
  ways : List (Option RimLine)
  plru : Nat
  deriving DecidableEq, Repr

/-- A decant in progress (R181). -/
structure Decant where
  unit : Nat
  toTier : Nat
  frame : Nat
  /-- accesses waiting at the rim, oldest first [R182] -/
  waiting : List Access
  deriving DecidableEq, Repr

/-- A sector frame of a partition's cellar cache (R186). -/
structure CacheFrame where
  unit : Nat
  /-- near-tier frame that holds it -/
  frame : Nat
  valid : List Nat
  dirty : List Nat
  deriving DecidableEq, Repr

/-- An answer of the rim to a requester (R173, R192). -/
structure RimResp where
  access : Access
  /-- the `CAUSE` of Table 6.10 where the access failed -/
  failed : Option Nat
  data : Bytes
  deriving DecidableEq, Repr

/-- The tiers, the unit map and the rim caches. -/
structure Memory where
  /-- unit map: backed units [R168; 8 bytes per unit; empty] -/
  map : KMap UnitEntry
  /-- where the leaf of each slice of 4 GiB lies in a copy of the map, in pieces of 512 KiB [R169; map; empty] -/
  leaves : KMap Nat
  /-- groups of eight units (one map line) uncorrectable in copy A [R170; list; empty] -/
  badA : List Nat
  /-- as badA, copy B [R170; list; empty] -/
  badB : List Nat
  /-- units of groups uncorrectable in both copies that have been unmapped and mapped again [R170; list; empty] -/
  remapped : List Nat
  /-- contents of near-tier frames [R163; bytes by 65,536 x frame + offset; 0 (R164)] -/
  near : List Host.Cell
  /-- contents of cellar frames [R163; bytes; 0 (R164)] -/
  cellar : List Host.Cell
  /-- contents of registered host memory, by host physical address [R167; bytes; 0 (DESIGN CHOICE, log 11)] -/
  hostTier : List Host.Cell
  /-- uncorrectable lines of near frames, by 1,024 x frame + line [R192; list; empty] -/
  badNear : List Nat
  /-- uncorrectable lines of cellar frames [R192; list; empty] -/
  badCellar : List Nat
  /-- cellar frames installed [R163, R379; Nat; 0 until stage 7] -/
  cellarFrames : Nat
  /-- registered extents: host base and length in bytes [R167; list; empty] -/
  extents : List (Nat × Nat)
  /-- rim cache by 65,536 x die + set [R172; sets of 16 lines; empty] -/
  rim : KMap RimSet
  /-- unit translation caches: units cached, by die [R171; 4 x 16,384; empty] -/
  utc : KMap (List Nat)
  /-- decants in progress [R181; at most 32 per die; empty] -/
  decants : List Decant
  /-- unit last selected for demotion, near tier and cellar [R179; option each; none] -/
  lastNear : Option Nat
  /-- as lastNear, for the cellar [R179; option; none] -/
  lastCellar : Option Nat
  /-- demotion is running in the near tier (between the marks) [R179; 1; false] -/
  demNear : Bool
  /-- demotion is running in the cellar [R179; 1; false] -/
  demCellar : Bool
  /-- tick of the last cellar-full record [R179; option; none] -/
  cellarFullAt : Option Nat
  /-- pins held by the command interface: units [R184; list; empty] -/
  tmiPins : List Nat
  /-- cellar caches by 8 x set index within the partition + partition: frames of each set, most recent first [R186; map; empty] -/
  caches : KMap (List CacheFrame)
  /-- near frames owned by each partition's cellar cache and free [R186; map; empty] -/
  cacheFree : KMap (List Nat)
  /-- corrected counts of stacks 0 to 15, channels 0 to 15, rim caches 0 to 3 [R189; 36 x 32 saturating; 0] -/
  corrected : List Nat
  /-- cellar devices already reported as corrected whole: channel, rank, device [R190; list; empty] -/
  devices : List (Nat × Nat × Nat)
  /-- next frame of the patrol scrubber, near tier and cellar [R191; 2 counts; 0 (DESIGN CHOICE, log 11)] -/
  patrol : List Nat
  /-- host-tracking filter: lines tracked by die, oldest first [R409; 1,048,576 per die; empty] -/
  filter : KMap (List Nat)
  /-- accesses waiting for BIRsp: line, invalidate, access [R409; list; empty] -/
  biWait : List (Nat × Bool × Access)
  /-- accesses waiting for CXL.cache data [R402, R404; list; empty] -/
  cacheWait : List Access
  /-- accesses ordered on a line behind one that is in progress there, in arrival order, each with what the code of its tier
  will say [R173, R304; list; empty] -/
  order : List (Access × Ecc)
  /-- accesses that wait at a rim's input, in order of age [R304; list; empty] -/
  input : List (Access × Ecc)
  /-- controller queues by 16 x tier + stack or channel: accesses whose line is to be read, in order of age [R305; map; empty] -/
  ctl : KMap (List (Access × Ecc))
  /-- answers to requesters, oldest first [R173; list; empty] -/
  resp : List RimResp
  deriving DecidableEq, Repr

/-! ## Serving -/

/-- A serving ring (R197). -/
structure SRing where
  log2n : Nat
  vec : Nat
  ven : Bool
  base : Nat
  sbase : Nat
  /-- submission: next entry to fetch; output: next record to write [R445] -/
  ptr : Nat
  /-- doorbell value: submission tail, output head [R197] -/
  db : Nat
  /-- stopped by a host-memory fault [R201] -/
  stopped : Bool
  /-- submission: descriptors fetched and not processed, oldest first [R198] -/
  taken : List Bytes
  deriving DecidableEq, Repr

/-- States of a request (Table 7.6); a FREE entry is absent. -/
inductive ReqState where
  | admitted | prefill | handoff | decode | paused | done | faulted
  deriving DecidableEq, Repr

/-- A request-table entry (Table 7.5) with what lies in its list block (R215). -/
structure Req where
  st : ReqState
  cls : Nat
  part : Nat
  slot : Nat
  tkey : Nat
  tent : Nat
  c : Nat
  dlact : Bool
  nodl : Bool
  dlmiss : Bool
  rdec : Bool
  aborts : Nat
  solo : Bool
  hrecv : Bool
  canreq : Bool
  paureq : Bool
  resreq : Bool
  phost : Bool
  /-- pages of the list block, in order [R215] -/
  pages : List Nat
  deadline : Nat
  pchain : BitVec 128
  tag : Nat
  tokbud : Nat
  limit : Nat
  pfxlen : Nat
  oring : Nat
  wait : Nat
  pnode : Nat
  pridx : Nat
  next : Nat
  /-- prompt tokens as read, then committed tokens [R200, R205] -/
  tokens : List Nat
  /-- tentative tokens of the list block [R215] -/
  tents : List Nat
  /-- SPARAM [R215; 16 bytes] -/
  sparam : Bytes
  /-- blocks eligible for insertion (E of R219) and the first block missed -/
  elig : Nat
  missed : Option Nat
  /-- fault to take at the next boundary: status [R201, R226] -/
  doom : Option Nat
  /-- paused by a swap's drain [R234, R235] -/
  swapPaused : Bool
  /-- step room reserved in the output ring beyond the standing reservation [R199] -/
  room : Nat
  /-- standing reservation left: records [R199] -/
  standing : Nat
  deriving DecidableEq, Repr

/-- A page of a pool (R214). Absent pages are FREE. -/
structure Page where
  count : Nat
  retired : Bool
  /-- held USED until the pool is rebuilt [R226] -/
  stranded : Bool
  deriving DecidableEq, Repr

/-- A prefix entry (Table 7.13). -/
structure PfxEntry where
  digest : BitVec 128
  page : Nat
  tkey : Nat
  slot : Nat
  epoch : Nat
  lastUse : Nat
  deriving DecidableEq, Repr

/-- A handoff in progress (R228 to R233). -/
structure Handoff where
  /-- entry on this chip -/
  ridx : Nat
  source : Bool
  node : Nat
  /-- source: tried ANODE already [R229, R230] -/
  triedAlt : Bool
  /-- source: currently addressing ANODE -/
  alt : Bool
  /-- source: pages shipped so far; receiver pages on the peer [R228, R266] -/
  shipped : Nat
  peerPages : List Nat
  /-- source: addresses on the peer of unacknowledged pages [R266] -/
  unacked : List Nat
  /-- source: waiting 1 ms after a busy refusal [R229] -/
  busyWait : Bool
  /-- source: shards of the group whose pages are not yet acknowledged [R233] -/
  shards : List Nat
  committed : Bool
  deriving DecidableEq, Repr

/-- A page window entry of the shipment table (R266): page, source, packets performed. -/
structure ShipEntry where
  ridx : Nat
  page : Nat
  node : Nat
  tag : Nat
  got : List Nat
  deriving DecidableEq, Repr

/-- The serving engine. -/
structure Serving where
  /-- submission rings [R197; 16; absent] -/
  subs : KMap SRing
  /-- output rings [R197; 16; absent] -/
  outs : KMap SRing
  /-- next submission ring in round-robin order [R198; 4; 0 (DESIGN CHOICE, log 13)] -/
  rr : Nat
  /-- request table [R196, R204; 8,192 x 64 bytes; FREE] -/
  reqs : KMap Req
  /-- pages in use by 2^24 x partition + page [R214; 16 + state; FREE] -/
  pages : KMap Page
  /-- prefix table by 8 x set + way [R221; 1,048,576 x 32 bytes; invalid] -/
  pfx : KMap PfxEntry
  /-- on-chip prefix cache: keys of cached entries [R196, R221; 32,768; empty] -/
  pfxCache : List Nat
  /-- prefix epoch of each model slot [R218; 64 x 16; 0 (DESIGN CHOICE, log 13)] -/
  epochs : KMap Nat
  /-- tenant keys [R217; 256 x 256; absent] -/
  keys : KMap (BitVec 256)
  /-- handoffs in progress [R196, R228; 64; empty] -/
  handoffs : List Handoff
  /-- shipment table [R266; 1,024; empty] -/
  ship : List ShipEntry
  /-- page addresses still to be put into windows, by entry [R266; map; empty] -/
  allot : KMap (List Nat)
  /-- prefix pages stranded [R226; Nat; 0] -/
  strandedPages : Nat
  deriving DecidableEq, Repr

/-! ## Fabric -/

/-- States of a Dvoriq port (Table 9.3). -/
inductive PortState where
  | idle | down | training | charter | opened | quarantined | failed
  deriving DecidableEq, Repr

/-- A packet at an egress (R262). -/
structure Queued where
  pkt : Packet
  /-- arrival order at the egress -/
  order : Nat
  deriving DecidableEq, Repr

/-- A packet as it went onto a link: its link sequence number, and whether it took a reserved credit (R247, R261). -/
structure OnLink where
  seq : Nat
  pkt : Packet
  reserved : Bool
  deriving DecidableEq, Repr

/-- A Dvoriq port. -/
structure Port where
  /-- state [R277; 7 values; IDLE] -/
  st : PortState
  /-- quarantine cause [R279; 3; 0] -/
  cause : Nat
  /-- charter last sent [R278; 32 bytes; zeros] -/
  sent : Bytes
  /-- charter last received [R278; 32 bytes; zeros] -/
  got : Bytes
  /-- own verdict on it [R279; option; none] -/
  mine : Option Bool
  /-- far verdict [R279; option; none] -/
  far : Option Bool
  /-- failed attempts with signal in a row [R277; 5; 0] -/
  fails : Nat
  /-- tick of the last replay exhaustion [R283; option; none] -/
  exhaustedAt : Option Nat
  /-- taken down for cable temperature [R289; 1; false] -/
  hot : Bool
  /-- cable above its warning threshold at the last poll [R289; 1; false] -/
  warm : Bool
  /-- temperature protection reported lost [R289; 1; false] -/
  silent : Bool
  /-- packets discarded and counted against the port [R245, R250, R260; 32; 0] -/
  discards : Nat
  /-- replay exhaustions [R333; 32; 0] -/
  exhausts : Nat
  /-- failed trainings [R333; 32; 0] -/
  failedTrainings : Nat
  /-- equalisation settings kept [R289; bytes; empty] -/
  equal : Bytes
  /-- module inventory [R289; option of 32 bytes; none] -/
  module : Option Bytes
  /-- egress queue [R262; list; empty] -/
  egress : List Queued
  /-- packets to be replayed in order [R264; list; empty] -/
  resend : List OnLink
  /-- replay buffer: last 256 packets sent [R264; list; empty] -/
  replay : List OnLink
  /-- next link sequence to send [R247; Nat; 0 (DESIGN CHOICE, log 13)] -/
  txSeq : Nat
  /-- next link sequence expected [R264; Nat; 0 (DESIGN CHOICE, log 13)] -/
  rxSeq : Nat
  /-- how often each packet of the replay buffer has been replayed, by sequence [R264; map; empty] -/
  replaying : KMap Nat
  /-- link sequences at or above the expected one already accepted on the other channel [R264; list; empty] -/
  ahead : List Nat
  /-- a replay request is owed in the next trailer [R264; option of sequence; none] -/
  askReplay : Option Nat
  /-- link virtual channels on which packets are discarded until the replay [R264; list; empty] -/
  discarding : List Nat
  /-- shared credits held, request and response channel [R261; 2; 96] -/
  shared : List Nat
  /-- reserved credits held [R261; 2; 8] -/
  reserved : List Nat
  /-- packets received and not yet performed, and whether each took a reserved buffer [R261; at most 104 per channel; empty] -/
  ingress : List (Packet × Bool)
  /-- credits to return in the next trailer or idle word: channel and kind [R261; list; empty] -/
  owed : List (Nat × Bool)
  deriving DecidableEq, Repr

/-- An outstanding transaction of this chip (R258, R285). -/
structure FabTx where
  tag : Nat
  user : FabUser
  ptype : Nat
  cls : Nat
  node : Nat
  addr : Nat
  granules : Nat
  /-- next hop: peer slot 0 to 15 or 16 for the uplinks -/
  hop : Nat
  /-- tick at which its first packet entered an egress, with the T in force then [R285, R284] -/
  at_ : Option (Nat × Nat)
  /-- pieces of a read in the buffer of its requester, the serving engine or firmware [R254, R259] -/
  pieces : List (Nat × Bytes)
  deriving DecidableEq, Repr

/-- A request of a peer that its lines' rims are performing (R253 to R255, R265). -/
structure PeerOp where
  /-- the request's first packet -/
  req : Packet
  /-- lines not yet answered -/
  left : Nat
  /-- lines not begun: an earlier request of the node to the granule is being performed [R257] -/
  todo : List Access
  /-- every packet of the request has arrived -/
  closed : Bool
  /-- status so far (Table 8.7) -/
  status : Nat
  /-- bytes answered, by address -/
  data : List (Nat × Bytes)
  deriving DecidableEq, Repr

/-- How a fabric transaction ended, for its requester (Table 8.7). -/
structure FabDone where
  user : FabUser
  status : Nat
  data : Bytes
  deriving DecidableEq, Repr

/-- A barrier homed on the chip (R268). -/
structure Barrier where
  n : Nat
  cls : Nat
  gen : Nat
  rlimitUs : Nat
  round : Nat
  /-- arrivals of the round: node, tag; and the tick of the oldest [R268, R287] -/
  list : List (Nat × Nat)
  oldest : Nat
  deriving DecidableEq, Repr

/-- A pending arrival of this chip (R269). -/
structure Arrival where
  home : Nat
  id : Nat
  round : Nat
  acked : Bool
  cls : Nat
  user : FabUser
  deriving DecidableEq, Repr

/-- The fabric. -/
structure Fabric where
  /-- ports 0 to 17 [R236; 18 ports; IDLE] -/
  ports : KMap Port
  /-- custom plan record in package flash [R238; option; Config.factoryPlan] -/
  custom : Option Bytes
  /-- y and z coordinates [R243; 6 + 6; unset] -/
  yz : Option (Nat × Nat)
  /-- fabric partition record: GEN [R272; 16; 0] -/
  gen : Nat
  /-- fabric partition record, bytes of Table 9.1 [R272; 16 bytes; zeros] -/
  block : Bytes
  /-- change of fabric partition in progress: command and new record [R275; option; none] -/
  change : Option (Running × Bytes)
  /-- outstanding transactions [R258; at most 65,536; empty] -/
  txs : List FabTx
  /-- tags withheld after TIMEOUT: tag, tick of release, class [R258, R260; list; empty] -/
  withheld : List (Nat × Nat × Nat)
  /-- requests waiting at the rim for a tag or for a change [R258, R275; list; empty] -/
  waiting : List FabReq
  /-- next hops held after a change of ports, with the requests held [R281; map; empty] -/
  holds : KMap (List FabReq)
  /-- requests held by a generation quarantine, with the tick they began to wait [R282; list; empty] -/
  genHeld : List (Nat × FabReq)
  /-- ended transactions, for their requesters [R251; list; empty] -/
  done : List FabDone
  /-- requests of peers being performed line by line at this chip's rims [R253, R254; list; empty] -/
  ops : List PeerOp
  /-- `WR` packets of peers whose transaction's last packet has not come [R252; list; empty] -/
  writes : List Packet
  /-- barriers homed here [R268; 1,024; absent] -/
  barriers : KMap Barrier
  /-- tick until which a broken or unset barrier may not be set again [R288; map; empty] -/
  barrierFree : KMap Nat
  /-- pending arrivals [R269; at most 256; empty] -/
  arrivals : List Arrival
  /-- arrivals waiting at the rim [R269; list; empty] -/
  arriveWait : List FabReq
  /-- round of this participant at a barrier, by 1,024 x home + id [R269, R288; 16; 0] -/
  rounds : KMap Nat
  /-- ticks captured at releases: id and tick [R269; list; empty] -/
  captured : List (Nat × Nat)
  /-- BAR_RELEASE packets with no pending arrival [R269; Nat; 0] -/
  strayRel : Nat
  /-- egress arrival order counter [R262; Nat; 0] -/
  order : Nat
  deriving DecidableEq, Repr

/-! ## Power -/

/-- An open or merged dip report (R359). -/
structure DipReport where
  rails : Nat
  lowMv : Nat
  /-- the rail on which `lowMv` was seen, the lowest relative to nominal -/
  lowRail : Nat
  durUs : Nat
  merged : Nat
  deriving DecidableEq, Repr

/-- The power controller. -/
structure Power where
  /-- performance state now, 0 P0 to 4 P4 [R346, R438; 3; 4] -/
  cur : Nat
  /-- state being changed to [R347; option; none] -/
  target : Option Nat
  /-- power ceiling [R352; 3; 0 (DESIGN CHOICE, log 14)] -/
  cPow : Nat
  /-- thermal ceiling [R361; 3; 0 (DESIGN CHOICE, log 14)] -/
  cThm : Nat
  /-- brake ceiling in force [R351; 1; false] -/
  brake : Bool
  /-- PWRBRK_N low now [R351; 1; false] -/
  brakePin : Bool
  /-- vintage ceiling [R351, R370; 3; 0 until stage 3] -/
  cVin : Nat
  /-- samples of the last 10 ms, newest first, unscaled in units of 0.1 mW (mV times 0.1 A) [R352; 1,000; empty] -/
  history : List Nat
  /-- consecutive samples above 2,800 W [R352; Nat; 0] -/
  overRun : Nat
  /-- samples since the last lowering [R353; Nat; 1000 (DESIGN CHOICE, log 14)] -/
  sinceLower : Nat
  /-- latest sample: rails in mV [R373; 4 x 16; 0] -/
  railMv : List Nat
  /-- latest sample: rails in 0.1 A [R373; 4 x 16; 0] -/
  railDa : List Nat
  /-- junction sensors as last read, 16 on each die in die order, 0.125 °C [R360, R373; 64 x 16; 0 (DESIGN CHOICE, log 14)] -/
  tj : List Int
  /-- stack temperatures, 0.125 °C [R373; 16; 0 (DESIGN CHOICE, log 14)] -/
  stk : List Int
  /-- highest unscaled sample since power-on, in units of 0.1 mW; the report gives 0.1 W [R373; 32; 0] -/
  peak : Nat
  /-- dip episodes since power-on [R373; 32; 0] -/
  nDip : Nat
  /-- lowerings under R352 [R373; 32; 0] -/
  nLim : Nat
  /-- lowerings under Table 12.6 [R373; 32; 0] -/
  nThm : Nat
  /-- samples of 10 µs spent in each state since power-on; the report gives seconds [R373; 5 x 32; 0] -/
  inState : List Nat
  /-- root halved [R355; 1; false] -/
  dip : Bool
  /-- rails now below their return level [R356; list; empty] -/
  low : List Nat
  /-- tick at which the current episode began [R359; option; none] -/
  dipAt : Option Nat
  /-- lowest mV and rails of the current episode [R359; record; none] -/
  episode : Option DipReport
  /-- report merged and waiting for its second [R359; option; none] -/
  merged : Option DipReport
  /-- tick of the last SUPPLY_DIP notice [R359; option; none] -/
  dipNotice : Option Nat
  /-- power-ceiling changes wait until 50 µs after a dip: samples left [R358; option; none] -/
  calm : Option Nat
  /-- a throttle has begun [R362; 1; false] -/
  throttle : Bool
  /-- THERMTRIP_N driven low [R363; 1; false] -/
  trip : Bool
  /-- core clocks stopped by EPO_N or a trip [R363, R364; 1; false] -/
  stopped : Bool
  deriving DecidableEq, Repr

/-- A vintage (R368, Table 12.8). Guard bands in 0.1 mV. -/
structure Vintage where
  epoch : Nat
  planHrs : Nat
  exhaust : Bool
  invalid : Nat
  skipped : Nat
  /-- guard of die d, state s at 5d + s, in 0.1 mV -/
  guard : List Nat
  /-- retired states of each die, bit s -/
  retired : List Nat
  /-- remaining margin in hours at 5d + s -/
  remain : List Nat
  /-- w of each die, doubled so that a median of an even count is exact: units of 0.005 % -/
  worst : List Int
  /-- drifts of all monitors at planning -/
  drift : List Int
  bad : List Nat
  deriving DecidableEq, Repr

/-- Metrizor. -/
structure Metrizor where
  /-- last six valid drifts of each monitor, newest first [R368; lists; empty] -/
  hist : KMap (List Int)
  /-- monitors invalid now, with valid samples in a row [R367; map; empty] -/
  invalid : KMap Nat
  /-- last sample of each monitor [R366; list; empty] -/
  last : List Int
  /-- samples skipped since the last plan [R366; 32; 0] -/
  skipped : Nat
  /-- a sample is due and deferred: the second of operation at which it fell due [R366; option; none] -/
  deferred : Option Nat
  /-- seconds of operation in OPEN [R366, R429; Nat; 0 (DESIGN CHOICE, log 14)] -/
  openSec : Nat
  /-- ticks in OPEN since the last whole second [R366; Nat; 0] -/
  subSec : Nat
  /-- hours in OPEN at the last plan [R368; Nat; 0 (DESIGN CHOICE, log 14)] -/
  planAt : Nat
  /-- current vintage [R368; record; factory vintage] -/
  current : Vintage
  /-- newest planned vintage not applied [R370; option; none] -/
  planned : Option Vintage
  /-- superseded and past vintages, most recent first [R372; at most 8 with the others; empty] -/
  past : List Vintage
  deriving DecidableEq, Repr

/-! ## Start-up and flash -/

/-- Device states (Table 13.1). -/
inductive DevState where
  | off | tasting | opened | corked
  deriving DecidableEq, Repr

/-- A copy of the bank selector (Table 13.7). -/
structure Selector where
  sseq : Nat
  next : Nat
  trial : Bool
  tries : Nat
  aok : Bool
  bok : Bool
  /-- the word at byte 60 -/
  crc : Nat
  deriving DecidableEq, Repr

/-- An entry of the load journal (R393). -/
structure Journal where
  part : Nat
  slot : Nat
  opcode : Nat
  image : Nat
  deriving DecidableEq, Repr

/-- Start-up, pins, package flash. -/
structure Life where
  /-- device state [R374, R438; 4 values; TASTING (R438 resets DSTATE to 1)] -/
  dev : DevState
  /-- tasting stage, 1 to 10, 0 outside TASTING [R438; 4; 1] -/
  stage : Nat
  /-- tasting waits for PWROK and PERST_N (a reset is in force) [R375, R391; 1; false] -/
  waiting : Bool
  /-- PWROK [R375; 1; true] -/
  pwrok : Bool
  /-- PERST_N [R375; 1; true] -/
  perstN : Bool
  /-- VIN_AUX present and the always-on domain running [R375; 1; true] -/
  aux : Bool
  /-- straps as sampled [R456; 4 + 2 + 1 + 1; all 0] -/
  straps : Straps
  /-- RTYPE of the next tasting record [R384; 2; 0] -/
  rtype : Nat
  /-- bank selector copies [R386; 2 x 64 bytes; A selected, both ok (PRESUMED, log 10)] -/
  sel : Selector
  /-- older copy of the selector [R386; 64 bytes; as sel] -/
  selOld : Selector
  /-- firmware banks A and B [R385; 2 x 6 MiB; factory images] -/
  banks : List Bytes
  /-- running bank [R387; 1; 0] -/
  bank : Nat
  /-- FALLBACK of this boot [R387; 1; false] -/
  fallback : Bool
  /-- the running bank runs on trial [R388; 1; false] -/
  trial : Bool
  /-- the extended cellar stage ran [R384; 1; false] -/
  ext : Bool
  /-- FW_BANK_WRITE in progress: command, bank, image [R390; option; none] -/
  writing : Option (Running × Nat × Bytes)
  /-- load journal [R393; list; empty] -/
  journal : List Journal
  /-- interrupted loads to be reported after restart, with RTYPE [R393; list; empty] -/
  interrupted : List (Journal × Nat)
  /-- SVN floor [R422; 7; Config.factorySvnFloor] -/
  svnFloor : Nat
  /-- FINAL records lost while corking in service [R382; Nat; 0] -/
  finalLost : Nat
  /-- in-service cork under way: STAGE, UNIT, UKIND [R382; option; none] -/
  corking : Option (Nat × Nat × Nat)
  /-- supply reset in force, waiting for the rails [R357; 1; false] -/
  supplyReset : Bool
  deriving DecidableEq, Repr

/-! ## Host attachment, identity -/

/-- An IDE stream of a port (R411). -/
structure IdeStream where
  port : Nat
  kind : IdeKind
  /-- stream ID -/
  id : Nat
  /-- skid mode (CXL IDE; containment otherwise) -/
  skid : Bool
  /-- keys by key set, 0 and 1 -/
  keys : List (Nat × Bytes)
  /-- key set in use, if keys are set -/
  inUse : Option Nat
  deriving DecidableEq, Repr

/-- A stream with no keys. -/
def IdeStream.idle (port : Nat) (kind : IdeKind) : IdeStream := ⟨port, kind, 0, false, [], none⟩

/-- The streams of a port: one link stream and four selective streams, and CXL IDE on port 0 (R411). -/
def ideKinds (port : Nat) : List IdeKind :=
  .link :: (List.range 4).map .selective ++ (if port = 0 then [.cacheMem] else [])

/-- The streams of both ports, without keys. -/
def ideStreams : List IdeStream := [0, 1].flatMap fun p => (ideKinds p).map (IdeStream.idle p)

/-- The CXL attachment. -/
structure Cxl where
  /-- link of port 0 up [R395; 1; true (DESIGN CHOICE, log 3)] -/
  up0 : Bool
  /-- link of port 1 up [R396; 1; false] -/
  up1 : Bool
  /-- port 0 negotiated CXL with 256-byte flits [R397; 1; true (DESIGN CHOICE, log 3)] -/
  cxl : Bool
  /-- trained width and rate of port 0 [R395; 5 + 7; 16, 64 (DESIGN CHOICE, log 3)] -/
  width : Nat
  /-- see width [R395; 7; 64] -/
  rate : Nat
  /-- HDM decoder: base, size, skip when committed [R407; option; none] -/
  hdm : Option (Nat × Nat × Nat)
  /-- Error Not Committed [R407; 1; false] -/
  hdmErr : Bool
  /-- global persistent flush phase 1 done [R406; 1; false] -/
  flushed : Bool
  /-- IDE streams in the insecure state [R412; list; empty] -/
  insecure : List Nat
  /-- IDE streams of both ports [R411; 11 streams; no keys] -/
  ide : List IdeStream
  deriving DecidableEq, Repr

/-- Identity, ownership and sessions. -/
structure Ident where
  /-- owner key, if OWNED [R425; option of 1,952 bytes; none] -/
  owner : Option Bytes
  /-- COSIGN [R425; 1; false] -/
  cosign : Bool
  /-- owner epoch [R425; 32; 0 (DESIGN CHOICE, log 3)] -/
  epoch : Nat
  /-- live nonce [R427; option of 32 bytes; none] -/
  nonce : Option Bytes
  /-- measurements 1 to 5 [R423; 5 x 64 bytes; empty until stage 1] -/
  measurements : List Bytes
  /-- secured sessions in progress [R424; at most 4; 0] -/
  sessions : Nat
  /-- transports on which the last negotiation was answered with the algorithms of R424 [R424; list of 0 to 2; empty] -/
  negotiated : List Nat
  /-- fuse read port locked [R417; 1; false] -/
  fusesLocked : Bool
  /-- private alias key that firmware holds, as its seed [R418; option of 32 bytes; none until stage 2] -/
  aliasKey : Option Bytes
  /-- public key in the alias certificate in flash [R419; option; none in a new part (DESIGN CHOICE, log 10)] -/
  aliasCert : Option Bytes
  /-- the older copy of the ownership record: owner key, COSIGN, epoch [R425; option of 1,952 bytes, 1, 32; none, false, 0] -/
  older : Option Bytes × Bool × Nat
  deriving DecidableEq, Repr

/-! ## The whole state -/

/-- The state of the block. -/
structure State where
  /-- commands waiting, first in, first out [the model's queue; list; empty] -/
  pending : List Instr
  /-- counter of free values taken, the model's own field [log 5; Nat; 0 (DESIGN CHOICE, log 5)] -/
  free : Nat
  clk : Clock
  evr : Recorder
  regs : Regs
  tmi : Tmi
  out : Out
  cfg : Cfg
  /-- partitions 0 to 7 that exist [R20, R320; map; empty] -/
  parts : KMap Partition
  /-- flushed-token and graph-fault counts of partitions 0 to 7 [R337; 16 x 32; 0] -/
  flushStats : List Nat
  /-- tiles whose state differs from a tile just reset [R62; 2,048 tiles; as Tile.reset] -/
  tiles : KMap Tile
  /-- directions of links whose state differs from one just reset, by 8 x tile + port of the tile that sends (port 4 the
  tile's own injection), or 16,384 + 8 x tile + port where the rim sends into that port [R17, R81; map; as Link.reset] -/
  links : KMap Link
  /-- flits that wait at the rim for an attach link: edge tile, port, flit [R17, R79; list; empty] -/
  rimOut : List (Nat × Nat × Flit)
  /-- fc count of the mesh as last seen [R82; Nat; 0 (DESIGN CHOICE, log 27)] -/
  fc : Nat
  tally : Tally
  mem : Memory
  srv : Serving
  fab : Fabric
  pwr : Power
  mtz : Metrizor
  life : Life
  cxl : Cxl
  ident : Ident
  deriving DecidableEq, Repr

/-! ## Reset

The machine when configuration space first answers after a cold reset (R436): tasting has begun (R375, step 5) and
stands in stage 1. A value that no rule gives is named in the log entry that the field's comment cites. -/

/-- A tile just reset: every slot empty, every store at the value log 11 names. -/
def Tile.reset : Tile where
  vat := []
  vatX := []
  ws := []
  bad := []
  lastNar := none
  casks := []
  rings := []
  running := 0
  switchTo := none
  pipe := []
  shaperIn := []
  shaperOut := []
  gen := 0
  corrected := [0, 0, 0, 0]
  scrubStore := 0
  scrubLine := [0, 0]
  tallySeq := [0, 0, 0, 0]
  tallyReq := none
  work := none
  epochs := []
  inject := []
  served := 3
  vc3At := none
  arrivals := 0
  refused := []
  eject := []
  idle := false
  idleSent := false

/-- A direction of a mesh link just reset: the sender holds every credit of R81. -/
def Link.reset : Link where
  buf := []
  shared := [8, 8, 8, 4]
  reserved := [2, 2, 2, 0]
  back := []
  sent := 0
  wire := []
  replay := []
  resend := []
  awaited := []
  fails := [0, 0, 0, 0]
  failed := false

/-- A Dvoriq port just reset (R277): `IDLE`, with the credits of R261 in hand. -/
def Port.reset : Port where
  st := .idle
  cause := 0
  sent := List.replicate 32 0
  got := List.replicate 32 0
  mine := none
  far := none
  fails := 0
  exhaustedAt := none
  hot := false
  warm := false
  silent := false
  discards := 0
  exhausts := 0
  failedTrainings := 0
  equal := []
  module := none
  egress := []
  resend := []
  replay := []
  txSeq := 0
  rxSeq := 0
  replaying := []
  ahead := []
  askReplay := none
  discarding := []
  shared := [96, 96]
  reserved := [8, 8]
  ingress := []
  owed := []

/-- Counters at the cold reset. -/
def Clock.reset : Clock where
  tick := 0
  tickHigh := 0
  tickLatched := false
  age := 0
  opSec := 0
  opSaved := 0
  subSec := 0
  mgrHb := 0
  fwHb := 0

/-- The recorder of a part at its first power-on (log 3). -/
def Recorder.reset : Recorder where
  ring := []
  slot := 0
  staging := []
  nextSeq := 0
  mark := 0
  overflow := 0
  dropped := 0
  dropAfter := 0
  skipped := none
  frozenTmi := false
  frozenSide := false
  pcyc := 1

/-- The direct registers at the Reset column of chapter 16 (R436). -/
def Regs.reset : Regs where
  verdict := 0
  tasteTicks := 0
  intStatus := 0
  intEnable := 0
  intVec := 0
  scratch := [0, 0, 0, 0]
  idValid := false
  fwver := 0
  fwinfo := 0
  p0c := 0
  p0q := 0
  p0s := 0
  p0ctl := 0
  armed := false
  armErr := false
  held := []
  dbDrop := 0
  heldCdb := none
  heldQdb := none
  winSeq := 0
  winBusy := none
  winRec := none
  winNone := false
  msixTable := []
  msixMasked := List.range 64
  msixPending := []

/-- The mailbox interface with no pair (R308). -/
def Tmi.reset : Tmi where
  pairs := []
  running := []
  mask := 0
  held := []
  lost := 0
  order := 0
  destroying := []

/-- Nothing sent. -/
def Out.reset : Out where
  writes := []
  msix := []
  cxlCache := []
  biSnp := []
  memResp := []
  dvq := []
  seMsgs := []
  sideband := []

/-- Device-wide settings at the defaults of Table 11.14. -/
def Cfg.reset : Cfg where
  nearLow := 16384
  nearHigh := 32768
  celLow := 32768
  celHigh := 65536
  promote := 4
  scrubHours := 24
  timeoutUs := 2000
  txn := none
  commit := none
  applied := []
  autoVintage := false

/-- No counter allotted. -/
def Tally.reset : Tally where
  counters := []
  recs := []

/-- No unit backed, every rim cache empty. -/
def Memory.reset : Memory where
  map := []
  leaves := []
  badA := []
  badB := []
  remapped := []
  near := []
  cellar := []
  hostTier := []
  badNear := []
  badCellar := []
  cellarFrames := 0
  extents := []
  rim := []
  utc := []
  decants := []
  lastNear := none
  lastCellar := none
  demNear := false
  demCellar := false
  cellarFullAt := none
  tmiPins := []
  caches := []
  cacheFree := []
  corrected := List.replicate 36 0
  devices := []
  patrol := [0, 0]
  filter := []
  biWait := []
  cacheWait := []
  order := []
  input := []
  ctl := []
  resp := []

/-- No ring, no entry, no page in use. -/
def Serving.reset : Serving where
  subs := []
  outs := []
  rr := 0
  reqs := []
  pages := []
  pfx := []
  pfxCache := []
  epochs := []
  keys := []
  handoffs := []
  ship := []
  allot := []
  strandedPages := 0

/-- Every port `IDLE`, no plan read, the fabric partition record at `GEN` 0 (R272). -/
def Fabric.reset : Fabric where
  ports := []
  custom := Config.factoryPlan
  yz := none
  gen := 0
  block := List.replicate 16 0
  change := none
  txs := []
  withheld := []
  waiting := []
  holds := []
  genHeld := []
  done := []
  ops := []
  writes := []
  barriers := []
  barrierFree := []
  arrivals := []
  arriveWait := []
  rounds := []
  captured := []
  strayRel := 0
  order := 0

/-- The power controller at power-on: `P4` (Table 16.8), no ceiling below `P0` (log 14). -/
def Power.reset : Power where
  cur := 4
  target := none
  cPow := 0
  cThm := 0
  brake := false
  brakePin := false
  cVin := 0
  history := []
  overRun := 0
  sinceLower := 1000
  railMv := [0, 0, 0, 0]
  railDa := [0, 0, 0, 0]
  tj := List.replicate 64 0
  stk := List.replicate 16 0
  peak := 0
  nDip := 0
  nLim := 0
  nThm := 0
  inState := [0, 0, 0, 0, 0]
  dip := false
  low := []
  dipAt := none
  episode := none
  merged := none
  dipNotice := none
  calm := none
  throttle := false
  trip := false
  stopped := false

/-- The factory vintage: epoch 0, 10.0 mV throughout (R368); its report fields that no rule gives are 0 (log 14). -/
def Vintage.factory : Vintage where
  epoch := 0
  planHrs := 0
  exhaust := false
  invalid := 0
  skipped := 0
  guard := List.replicate 20 100
  retired := [0, 0, 0, 0]
  remain := List.replicate 20 0
  worst := [0, 0, 0, 0]
  drift := []
  bad := []

/-- Metrizor before its first sample. -/
def Metrizor.reset : Metrizor where
  hist := []
  invalid := []
  last := []
  skipped := 0
  deferred := none
  openSec := 0
  subSec := 0
  planAt := 0
  current := Vintage.factory
  planned := none
  past := []

/-- The bank selector of a new part (log 10). -/
def Selector.factory : Selector where
  sseq := 0
  next := 0
  trial := false
  tries := 0
  aok := true
  bok := true
  crc := 0x272c45b

/-- Tasting, stage 1, rails up, both banks as they left the factory (R436, R438; log 10). -/
def Life.reset : Life where
  dev := .tasting
  stage := 1
  waiting := false
  pwrok := true
  perstN := true
  aux := true
  straps := { slotId := 0, plan := 0, cxlBif := false, xcel := false }
  rtype := 0
  sel := Selector.factory
  selOld := Selector.factory
  banks := [Config.factoryImage 0, Config.factoryImage 1]
  bank := 0
  fallback := false
  trial := false
  ext := false
  writing := none
  journal := []
  interrupted := []
  svnFloor := Config.factorySvnFloor
  finalLost := 0
  corking := none
  supplyReset := false

/-- The CXL attachment with port 0 trained at full width and rate (log 3). -/
def Cxl.reset : Cxl where
  up0 := true
  up1 := false
  cxl := true
  width := 16
  rate := 64
  hdm := none
  hdmErr := false
  flushed := false
  insecure := []
  ide := ideStreams

/-- An unowned part (R425). -/
def Ident.reset : Ident where
  owner := none
  cosign := false
  epoch := 0
  nonce := none
  measurements := []
  sessions := 0
  negotiated := []
  fusesLocked := false
  aliasKey := none
  aliasCert := none
  older := (none, false, 0)

/-- The machine right after reset (R436). -/
def State.reset : State where
  pending := []
  free := 0
  clk := Clock.reset
  evr := Recorder.reset
  regs := Regs.reset
  tmi := Tmi.reset
  out := Out.reset
  cfg := Cfg.reset
  parts := []
  flushStats := List.replicate 16 0
  tiles := []
  links := []
  rimOut := []
  fc := 0
  tally := Tally.reset
  mem := Memory.reset
  srv := Serving.reset
  fab := Fabric.reset
  pwr := Power.reset
  mtz := Metrizor.reset
  life := Life.reset
  cxl := Cxl.reset
  ident := Ident.reset

end Sys2Proof.Machine
end

