-- ==== Sys2Proof/Machine/Ops.lean ====
section
/-! DEFINITION. The shared operations: sparse stores, little-endian fields, free values, event records, host writes and vectors, the device interrupt, notices and completions, the chip tick. -/

namespace Sys2Proof.Machine

/-! ## Sparse stores -/

/-- The value under key `k`. -/
def kget {α : Type} : KMap α → Nat → Option α
  | [], _ => none
  | (j, v) :: m, k => if k = j then some v else if k < j then none else kget m k

/-- Store `v` under `k`, keys kept rising. -/
def kput {α : Type} : KMap α → Nat → α → KMap α
  | [], k, v => [(k, v)]
  | (j, w) :: m, k, v =>
    if k < j then (k, v) :: (j, w) :: m else if k = j then (k, v) :: m else (j, w) :: kput m k v

/-- Remove key `k`. -/
def kdel {α : Type} : KMap α → Nat → KMap α
  | [], _ => []
  | (j, w) :: m, k => if k < j then (j, w) :: m else if k = j then m else (j, w) :: kdel m k

/-- Whether keys rise strictly. -/
def ksorted {α : Type} : KMap α → Bool
  | [] => true
  | [_] => true
  | (j, _) :: (k, w) :: m => decide (j < k) && ksorted ((k, w) :: m)

/-- Update the value under `k` where there is one. -/
def kmod {α : Type} (m : KMap α) (k : Nat) (f : α → α) : KMap α :=
  match kget m k with
  | some v => kput m k (f v)
  | none => m

/-- Element `i` of a list replaced. -/
def setAt {α : Type} : List α → Nat → α → List α
  | [], _, _ => []
  | _ :: l, 0, v => v :: l
  | x :: l, i + 1, v => x :: setAt l i v

/-- Element `i` of a list changed. -/
def modAt {α : Type} : List α → Nat → (α → α) → List α
  | [], _, _ => []
  | x :: l, 0, f => f x :: l
  | x :: l, i + 1, f => x :: modAt l i f

/-! ## Byte memories: canonical lists of cells, an unlisted address reads 0 -/

/-- The byte at `a`. -/
def mget (m : List Host.Cell) (a : Nat) : Byte := (kget m a).getD 0

/-- Store a byte; a 0 leaves no entry. -/
def mset (m : List Host.Cell) (a : Nat) (b : Byte) : List Host.Cell :=
  if b = 0 then kdel m a else kput m a b

/-- The `n` bytes from `a` up. -/
def mread (m : List Host.Cell) (a : Nat) : Nat → Bytes
  | 0 => []
  | n + 1 => mget m a :: mread m (a + 1) n

/-- Store bytes from `a` up. -/
def mwrite (m : List Host.Cell) (a : Nat) : Bytes → List Host.Cell
  | [] => m
  | b :: bs => mwrite (mset m a b) (a + 1) bs

/-- The `n` bytes from `a` up become 0. -/
def mclear (m : List Host.Cell) (a n : Nat) : List Host.Cell :=
  m.filter fun c => decide (c.1 < a ∨ a + n ≤ c.1)

/-- The canonical form: addresses strictly rising, no entry 0. -/
def cellsWf (m : List Host.Cell) : Bool := ksorted m && m.all fun c => decide (c.2 ≠ 0)

/-- The tiers' contents are in canonical form. -/
def Memory.wf (m : Memory) : Bool := cellsWf m.near && cellsWf m.cellar && cellsWf m.hostTier

/-! ## Little-endian fields (R5) -/

/-- The `n` bytes of a number, low byte first. -/
def le : Nat → Nat → Bytes
  | 0, _ => []
  | n + 1, v => BitVec.ofNat 8 v :: le n (v / 256)

/-- The number that bytes spell, low byte first. -/
def ofLe : Bytes → Nat
  | [] => 0
  | b :: bs => b.toNat + 256 * ofLe bs

/-- The bytes `[off, off + n)`, short where the source is. -/
def slice (b : Bytes) (off n : Nat) : Bytes := (b.drop off).take n

/-- The field of `w` bits at bit `lo` of byte `off` (R5: a field may run on into the next bytes). -/
def fld (b : Bytes) (off lo w : Nat) : Nat := ofLe (slice b off ((lo + w + 7) / 8)) / 2 ^ lo % 2 ^ w

/-- One field of a layout: byte offset, bit, width, value. -/
abbrev Field := Nat × Nat × Nat × Nat

/-- The `n` bytes of a layout, every unnamed bit 0. -/
def pack (n : Nat) (fs : List Field) : Bytes :=
  le n (fs.foldl (fun acc f => acc + (f.2.2.2 % 2 ^ f.2.2.1) * 2 ^ (8 * f.1 + f.2.1)) 0)

/-- Arguments packed without padding, each of a number of bytes, then zeros up to `n` (R430). -/
def packArgs (n : Nat) (as : List (Nat × Nat)) : Bytes :=
  let b := as.flatMap fun a => le a.1 a.2
  (b ++ List.replicate (n - b.length) 0).take n

/-- A number in two's complement of `w` bits. -/
def toTwos (w : Nat) (v : Int) : Nat := (v % (2 ^ w : Int)).toNat

/-- The integer that `w` bits of two's complement stand for. -/
def ofTwos (w v : Nat) : Int := if v % 2 ^ w < 2 ^ (w - 1) then (v % 2 ^ w : Nat) else (v % 2 ^ w : Nat) - (2 ^ w : Int)

/-- 0 or 1. -/
def b2n (b : Bool) : Nat := if b then 1 else 0

/-- Saturating addition to a count of `w` bits. -/
def satAdd (w n k : Nat) : Nat := min (n + k) (2 ^ w - 1)

/-! ## Free values (log 5) -/

/-- A fresh free number. -/
def State.freshNat (s : State) : Nat := Config.freeNat s.free

/-- The counter of free values moves on. -/
def State.used (s : State) : State := { s with free := s.free + 1 }

/-- The free choice of state `s` among the allowed numbers, or `d` where it falls on none. -/
def State.choose (s : State) (allowed : Nat → Bool) (d : Nat) : Nat :=
  if allowed (Config.freeNat s.free) then Config.freeNat s.free else d

/-- The least number that a list does not hold. -/
def leastFree (used : List Nat) : Nat :=
  ((List.range (used.length + 1)).find? fun k => !used.contains k).getD used.length

/-- A free choice of a number below `n` that `used` does not hold; the least one where the free value is none. -/
def State.chooseFree (s : State) (n : Nat) (used : List Nat) : Nat :=
  s.choose (fun k => decide (k < n) && !used.contains k) (leastFree used)

/-! ## Time -/

/-- Ticks in a microsecond (R57: the chip tick runs at 100 MHz). -/
def ticksPerUs : Nat := 100

/-- Operating seconds at which the count saturates: 1,048,575 hours and 3,599 seconds (R429). -/
def opSecMax : Nat := 1048575 * 3600 + 3599

/-- One chip tick of 10 ns: the counters that run by themselves (R267, R429, R438, R366). In `OFF` nothing runs. -/
def State.advanceTick (s : State) : State :=
  if s.life.aux then
    let sec := s.clk.subSec + 1 = 100000000
    let openNow := s.life.dev = .opened
    let osec := s.mtz.subSec + 1 = 100000000
    { s with
      clk := { s.clk with
        tick := (s.clk.tick + 1) % 2 ^ 64
        subSec := if sec then 0 else s.clk.subSec + 1
        opSec := if sec then min (s.clk.opSec + 1) opSecMax else s.clk.opSec }
      regs := { s.regs with
        tasteTicks := if s.life.dev = .tasting ∧ ¬ s.life.waiting then s.regs.tasteTicks + 1 else s.regs.tasteTicks }
      mtz := if openNow then { s.mtz with
          subSec := if osec then 0 else s.mtz.subSec + 1
          openSec := if osec then s.mtz.openSec + 1 else s.mtz.openSec }
        else s.mtz }
  else s

/-! ## Node and identity -/

/-- The node ID: x in [3:0], y in [9:4], z in [15:10]; 0 until y and z are set (R243, Table 16.7). -/
def State.nodeId (s : State) : Nat :=
  match s.fab.yz with
  | some (y, z) => s.life.straps.slotId + 16 * y + 1024 * z
  | none => 0

/-! ## Event records -/

/-- A record to be staged: type, whether it continues the one before, body. -/
abbrev RecSpec := Nat × Bool × Bytes

/-- The record of `rs` staged now (Table 15.6). -/
def State.mkRecord (s : State) (rs : RecSpec) : Record where
  seq := s.evr.nextSeq
  opSec := s.clk.opSec
  pcyc := s.evr.pcyc
  rtype := rs.1
  sev := Config.severity rs.1 (fld rs.2.2 0 0 8) % 4
  cont := rs.2.1
  tick := s.clk.tick
  node := s.nodeId
  body := rs.2.2

/-- Give the next number and put one record into the staging buffer; the mark moves on before the number that
equals it is given (R428, R466). -/
def State.stageOne (s : State) (rs : RecSpec) : State :=
  { s with evr := { s.evr with
      staging := s.evr.staging ++ [s.mkRecord rs]
      nextSeq := (s.evr.nextSeq + 1) % 2 ^ 32
      mark := if s.evr.nextSeq = s.evr.mark then (s.evr.mark + 1024) % 2 ^ 32 else s.evr.mark } }

/-- Records the staging buffer holds (R431). -/
def stagingSize : Nat := 512

/-- Body of a `RECORDS_LOST` record (Table 15.7). -/
def lostBody (cause lost after : Nat) : Bytes := pack 32 [(0, 0, 8, cause), (4, 0, 32, lost), (8, 0, 32, after)]

/-- The `RECORDS_LOST` record owed for numbers skipped at a loss of `VIN_AUX`: the first record then staged (R466). -/
def State.stageSkipped (s : State) : State :=
  match s.evr.skipped with
  | some (after, lost) =>
    let t := s.stageOne (0x0013, false, lostBody 1 lost after)
    { t with evr := { t.evr with skipped := none } }
  | none => s

/-- The `RECORDS_LOST` record owed for drops, once there is room for it (R432). -/
def State.stageLost (s : State) : State :=
  if 0 < s.evr.dropped ∧ s.evr.staging.length < stagingSize then
    let t := s.stageOne (0x0013, false, lostBody 0 s.evr.dropped s.evr.dropAfter)
    { t with evr := { t.evr with dropped := 0 } }
  else s

/-- Stage a group of records whole, or drop it whole and count each of its records (R432). -/
def State.stageGroup (s : State) (rs : List RecSpec) : State :=
  let s := s.stageSkipped.stageLost
  if s.evr.staging.length + rs.length ≤ stagingSize ∧ s.evr.dropped = 0 then
    rs.foldl State.stageOne s
  else
    { s with evr := { s.evr with
        overflow := satAdd 32 s.evr.overflow rs.length
        dropAfter := if s.evr.dropped = 0 then (s.evr.nextSeq + 2 ^ 32 - 1) % 2 ^ 32 else s.evr.dropAfter
        dropped := s.evr.dropped + rs.length } }

/-- Stage one record. -/
def State.stage (s : State) (rtype : Nat) (body : Bytes) : State := s.stageGroup [(rtype, false, body)]

/-- Sequence number of the record just staged from `s` to `t`, or 0xFFFF_FFFF where it was dropped (Table 11.3). -/
def evseqOf (s t : State) : Nat :=
  if t.evr.nextSeq = s.evr.nextSeq then 0xFFFFFFFF else (t.evr.nextSeq + 2 ^ 32 - 1) % 2 ^ 32

/-! ## Host writes and vectors -/

/-- A write to host memory over CXL.io, in order (log 4). -/
def State.hostWrite (s : State) (port addr : Nat) (b : Bytes) : State :=
  { s with out := { s.out with writes := s.out.writes ++ [(port, addr, b)] } }

/-- Raise an MSI-X vector of port 0; a masked vector leaves its pending bit set (R400, R439). -/
def State.msix (s : State) (vec : Nat) : State :=
  if s.regs.msixMasked.contains vec then
    { s with regs := { s.regs with
        msixPending := if s.regs.msixPending.contains vec then s.regs.msixPending else s.regs.msixPending ++ [vec] } }
  else { s with out := { s.out with msix := s.out.msix ++ [(0, vec)] } }

/-- An event sets device interrupt status bits; a bit that becomes 1 while enabled sends the message (R439). -/
def State.devInt (s : State) (bits : BitVec 32) : State :=
  let rose := bits &&& ~~~ s.regs.intStatus &&& s.regs.intEnable
  let t := { s with regs := { s.regs with intStatus := s.regs.intStatus ||| bits } }
  if rose = 0 then t else t.msix (s.regs.intVec.toNat % 64)

/-! ## Ring pairs: completions and notices -/

/-- Entries of a ring. -/
def Pair.n (p : Pair) : Nat := 2 ^ p.log2n

/-- The status word of a pair (Table 11.1). -/
def Pair.status (p : Pair) : Bytes :=
  pack 8 [(0, 0, 12, p.chead), (2, 0, 12, p.ctail), (4, 0, 16, p.nlost), (6, 0, 1, b2n p.stopped)]

/-- Commands of pair `n` in progress: fetched and not completed (R311). -/
def State.inProgress (s : State) (n : Nat) : Nat :=
  (match kget s.tmi.pairs n with | some p => p.fetched.length | none => 0)
    + (s.tmi.running.filter fun r => r.src = .pair n).length

/-- Commands of the device in progress (R311). -/
def State.inProgressAll (s : State) : Nat :=
  (s.tmi.pairs.map fun e => e.2.fetched.length).sum + s.tmi.running.length

/-- Free entries of pair `n`'s completion ring beyond those reserved for its commands in progress (R311, R345). -/
def State.freeEntries (s : State) (n : Nat) : Nat :=
  match kget s.tmi.pairs n with
  | some p => p.n - 1 - (p.ctail + p.n - p.qhead) % p.n - s.inProgress n
  | none => 0

/-- Write a pair's status word to host memory (R310). -/
def State.writeStatus (s : State) (n : Nat) : State :=
  match kget s.tmi.pairs n with
  | some p => s.hostWrite 0 p.sbase p.status
  | none => s

/-- Write a 32-byte completion entry and then the status word that covers it (R310); a completion counts toward
moderation, a notice raises the vector at once (R315). -/
def State.writeEntry (s : State) (n : Nat) (entry : Bytes) (notice : Bool) : State :=
  match kget s.tmi.pairs n with
  | some p =>
    let fire := notice || p.coalCnt == 0 || p.coalCnt ≤ p.unsignalled + 1
    let q := { p with ctail := (p.ctail + 1) % p.n, unsignalled := if fire then 0 else p.unsignalled + 1 }
    let t := (s.hostWrite 0 (p.qbase + 32 * p.ctail) entry).hostWrite 0 p.sbase q.status
    let u := { t with tmi := { t.tmi with pairs := kput t.tmi.pairs n q } }
    if fire then u.msix p.vec else u
  | none => s

/-- The completion entry of a command (Table 11.3). -/
def completionEntry (cid st op ring cls evseq : Nat) (result : Bytes) : Bytes :=
  pack 16 [(0, 0, 32, cid), (4, 0, 16, st), (6, 0, 16, op), (8, 0, 4, ring), (8, 4, 2, cls), (12, 0, 32, evseq)]
    ++ (result ++ List.replicate (16 - result.length) 0).take 16

/-- The completion entry of a notice (R344). -/
def noticeEntry (ring cls : Nat) (nt : Notice) : Bytes :=
  pack 16 [(4, 0, 16, nt.code), (8, 0, 4, ring), (8, 4, 2, cls), (8, 6, 1, 1), (12, 0, 32, nt.evseq)]
    ++ (nt.result ++ List.replicate (16 - nt.result.length) 0).take 16

/-- The pair that receives notices: the lowest-numbered with `NOTIFY` 1, or pair 0; in `CORKED` pair 0, the only
one served (R345, Table 13.4; log 20). -/
def State.noticePair (s : State) : Nat :=
  if s.life.dev = .corked then 0
  else match s.tmi.pairs.find? fun e => e.2.notify with
    | some e => e.1
    | none => 0

/-- Whether the receiving pair can take a notice now (R345): it exists, firmware serves it, an entry is free. -/
def State.noticeRoom (s : State) : Bool :=
  (s.life.dev = .opened || s.life.dev = .corked) && 0 < s.freeEntries s.noticePair
    && (match kget s.tmi.pairs s.noticePair with | some p => if s.noticePair = 0 then s.regs.armed else !p.closing | none => false)

/-- Write a notice to the receiving pair. -/
def State.deliverNotice (s : State) (nt : Notice) : State :=
  match kget s.tmi.pairs s.noticePair with
  | some p => s.writeEntry s.noticePair (noticeEntry s.noticePair p.cls nt) true
  | none => s

/-- Notices the hold buffer takes (R345). -/
def heldMax : Nat := 1024

/-- Send a notice (R344, R345): nothing where it is masked; into a free entry when none is held before it; else into
the buffer; a full buffer drops it and counts it. -/
def State.notice (s : State) (code evseq : Nat) (result : Bytes) : State :=
  if s.tmi.mask.getLsbD code && code < 32 then s
  else if s.tmi.held.isEmpty && s.noticeRoom then s.deliverNotice ⟨code, evseq, result⟩
  else if s.tmi.held.length < heldMax then
    { s with tmi := { s.tmi with held := s.tmi.held ++ [⟨code, evseq, result⟩] } }
  else { s with tmi := { s.tmi with
      lost := s.tmi.lost + 1
      pairs := kmod s.tmi.pairs s.noticePair fun p => { p with nlost := satAdd 16 p.nlost 1 } } }

/-- Write a record and send the notice that names it (R344). -/
def State.report (s : State) (rtype : Nat) (body : Bytes) (code : Nat) (result : Bytes) : State :=
  let t := s.stage rtype body
  t.notice code (evseqOf s t) result

/-- `RING_ERROR` with the summary of Table 16.13. -/
def State.ringError (s : State) (src ring value : Nat) : State :=
  s.notice 0x0010 0xFFFFFFFF (pack 16 [(0, 0, 4, src), (1, 0, 4, ring), (4, 0, 32, value)])

/-- Whether this entry of the running list is the command `c`. -/
def Running.isCmd (r : Running) (src : CmdSrc) (cid op : Nat) : Bool := r.src = src && r.cid = cid && r.opcode = op

/-- The completion of a command written back: to its pair's ring, or over the sideband endpoint (R310, R416). -/
def State.answerCmd (s : State) (src : CmdSrc) (cid op cls st evseq : Nat) (result : Bytes) : State :=
  match src with
  | .pair n => s.writeEntry n (completionEntry cid st op n cls evseq result) false
  | .sideband => { s with out := { s.out with sideband := s.out.sideband ++ [completionEntry cid st op 0 0 evseq result] } }

/-- Pair 0 that fetches no more disarms once no command of it is in progress (R441). -/
def State.settlePair0 (s : State) : State :=
  match kget s.tmi.pairs 0 with
  | some p => if (p.closing || p.stopped) && s.inProgress 0 == 0 then { s with regs := { s.regs with armed := false } } else s
  | none => s

/-- A pair being destroyed goes once every command of it has completed, and `RING_DESTROY` completes on pair 0 (R325). -/
def State.settleDestroy (s : State) (d : Nat × Running) : State :=
  if s.inProgress d.1 = 0 ∧ s.tmi.destroying.contains d = true then
    let t := { s with tmi := { s.tmi with
      pairs := kdel s.tmi.pairs d.1
      destroying := s.tmi.destroying.filter (· != d)
      running := s.tmi.running.eraseP fun r => r.isCmd d.2.src d.2.cid d.2.opcode } }
    t.answerCmd d.2.src d.2.cid d.2.opcode d.2.cls 0 0xFFFFFFFF []
  else s

/-- What follows when commands of pairs have completed (R325, R441). -/
def State.settlePairs (s : State) : State := (s.tmi.destroying.foldl State.settleDestroy s).settlePair0

/-- Complete a command: its entry leaves the list of those in progress, the completion goes to its pair, or back over
the sideband endpoint (R310, R317, R416). -/
def State.finish (s : State) (src : CmdSrc) (cid op cls st evseq : Nat) (result : Bytes) : State :=
  let s := { s with tmi := { s.tmi with running := s.tmi.running.eraseP fun r => r.isCmd src cid op } }
  (s.answerCmd src cid op cls st evseq result).settlePairs

/-- Complete a command of the running list for which a record was written (Table 11.3; log 6). -/
def State.finishRec (s : State) (r : Running) (st evseq : Nat) (result : Bytes) : State :=
  s.finish r.src r.cid r.opcode r.cls st evseq result

/-- Complete a command of the running list. -/
def State.finishRun (s : State) (r : Running) (st : Nat) (result : Bytes) : State := s.finishRec r st 0xFFFFFFFF result

/-! ## Tiles and partitions -/

/-- Tile `t`; one not listed is as just reset. -/
def State.tile (s : State) (t : Nat) : Tile := (kget s.tiles t).getD Tile.reset

/-- Store tile `t`. -/
def State.setTile (s : State) (t : Nat) (x : Tile) : State := { s with tiles := kput s.tiles t x }

/-- Change tile `t`. -/
def State.modTile (s : State) (t : Nat) (f : Tile → Tile) : State := s.setTile t (f (s.tile t))

/-- Array column of a tile: die d holds columns 16d to 16d + 15 (R12). -/
def tileCol (t : Nat) : Nat := t / 32

/-- Array row of a tile: bits [4:0] of its ID (R12). -/
def tileRow (t : Nat) : Nat := t % 32

/-- Die of a tile: bits [10:9] of its ID (R12). -/
def tileDie (t : Nat) : Nat := t / 512

/-- Control cores of the chip: four per die (R16, R24). -/
def controlCores : Nat := 16

/-- Die of a control core (R16). -/
def coreDie (core : Nat) : Nat := core / 4

/-- Die of a Dvoriq port: 0 to 4, 5 to 8, 9 to 12, 13 to 17 (R16, R236). -/
def portDie (port : Nat) : Nat := if port < 5 then 0 else if port < 9 then 1 else if port < 13 then 2 else 3

/-! ## Mesh places (R17, R79)

Ports of a tile are numbered in the order of Table 3.1: 0 north, 1 south, 2 east, 3 west, 4 local. -/

/-- Key of the direction that leaves tile `t` by port `p`; port 4 is the tile's own injection. -/
def linkKey (t p : Nat) : Nat := 8 * t + p

/-- Key of the direction in which the rim sends into port `p` of edge tile `t`. -/
def enterKey (t p : Nat) : Nat := 16384 + 8 * t + p

/-- A direction of a link as it stands. -/
def State.link (s : State) (k : Nat) : Link := (kget s.links k).getD Link.reset

/-- Change a direction of a link. -/
def State.modLink (s : State) (k : Nat) (f : Link → Link) : State := { s with links := kput s.links k (f (s.link k)) }

/-- The tile and port at the far end of a port; none where the port leads to the rim, or is the local port. -/
def farEnd (t p : Nat) : Option (Nat × Nat) :=
  match p with
  | 0 => if tileRow t = 0 then none else some (t - 1, 1)
  | 1 => if tileRow t = 31 then none else some (t + 1, 0)
  | 2 => if tileCol t = 63 then none else some (t + 32, 3)
  | 3 => if tileCol t = 0 then none else some (t - 32, 2)
  | _ => none

/-- Whether port `p` of tile `t` is one of the 192 attach links (R17). -/
def attaches (t p : Nat) : Bool := decide (p < 4) && (farEnd t p).isNone

/-- Key of the direction that arrives at port `p` of tile `t`. -/
def inKey (t p : Nat) : Nat :=
  match farEnd t p with
  | some q => linkKey q.1 q.2
  | none => if p < 4 then enterKey t p else linkKey t p

/-- Edge tile of the row or column of tile `t` on an exit side: the tile whose port is the exit (Table 3.6, R79). -/
def exitTile (t exit : Nat) : Nat :=
  match exit with
  | 1 => 32 * tileCol t
  | 2 => 32 * tileCol t + 31
  | 3 => tileRow t
  | _ => 32 * 63 + tileRow t

/-- The port by which a flit with an exit leaves the array (R79). -/
def exitPort (exit : Nat) : Nat := match exit with | 1 => 0 | 2 => 1 | 3 => 3 | _ => 2

/-- Key of the attach link by which tile `t` leaves on an exit side. -/
def attachKey (t exit : Nat) : Nat := linkKey (exitTile t exit) (exitPort exit)

/-! ## Buffers and credits (R81, R85) -/

/-- The credit a flit would take on a link: false shared, true reserved, none where it holds none (R81). -/
def Link.creditFor (l : Link) (f : Flit) : Option Bool :=
  if 0 < l.shared.getD f.vc 0 then some false
  else if f.cls ≤ 1 ∧ 0 < l.reserved.getD f.vc 0 then some true
  else none

/-- A credit taken. -/
def Link.take (l : Link) (vc : Nat) (reserved : Bool) : Link :=
  if reserved then { l with reserved := modAt l.reserved vc fun n => n - 1 } else { l with shared := modAt l.shared vc fun n => n - 1 }

/-- A flit leaves its input buffer: the buffer's credit starts back to the sender (R85). -/
def Link.leave (l : Link) (b : Buffered) : Link := { l with buf := l.buf.erase b, back := l.back ++ [(b.flit.vc, b.reserved)] }

/-- A flit enters an input buffer in fc `fc`, under the credit its sender took. -/
def Link.enter (l : Link) (f : Flit) (reserved : Bool) (fc : Nat) : Link := { l with buf := l.buf ++ [⟨f, reserved, fc, false⟩] }

/-! ## Flits that wait at the rim (R17, R79) -/

/-- The first flit of tile `t` that waits untaken at the attach link of an exit side and that a test picks. -/
def State.atRim (s : State) (t exit : Nat) (k : Flit → Bool) : Option Buffered :=
  (s.link (attachKey t exit)).buf.find? fun b => b.flit.src == t && !b.taken && k b.flit

/-- That flit is taken out of its buffer. -/
def State.takeRim (s : State) (t exit : Nat) (k : Flit → Bool) : State :=
  match s.atRim t exit k with
  | some b => s.modLink (attachKey t exit) fun l => l.leave b
  | none => s

/-- The flits of tile `t` that a test picks are taken, while they hold their buffers until the request is answered (R258,
R306). -/
def State.holdRim (s : State) (t exit : Nat) (k : Flit → Bool) : State :=
  s.modLink (attachKey t exit) fun l => { l with buf := l.buf.map fun b => if b.flit.src == t && k b.flit then { b with taken := true } else b }

/-- Flits of one request of tile `t` that wait untaken at its attach link, in order. -/
def State.rimFlits (s : State) (t exit : Nat) (k : Flit → Bool) : List Buffered :=
  (s.link (attachKey t exit)).buf.filter fun b => b.flit.src == t && !b.taken && k b.flit

/-- Whether a request of an engine waits at the rim: its first flit names the address and the class, and for a write the second
one carries the data (log 27). -/
def State.asked (s : State) (t exit : Nat) (k : Flit → Bool) (cls addr : Nat) (data : Option Bytes) : Bool :=
  match s.rimFlits t exit k, data with
  | b :: _, none => b.flit.last && b.flit.cls == cls && ofLe (slice b.flit.payload 0 8) == addr
  | b :: d :: _, some p => !b.flit.last && b.flit.cls == cls && ofLe (slice b.flit.payload 0 8) == addr && d.flit.last && d.flit.payload == p
  | _, _ => false

/-- `AGE` of a flit in a buffer at fc `fc`: 1 more for each 16 fc it has waited there; it saturates (R82). -/
def Buffered.age (b : Buffered) (fc : Nat) : Nat := min 1023 (b.flit.age + (fc - b.since) / 16)

/-- A request taken is answered: its flits leave their buffers. -/
def State.freeRim (s : State) (t exit : Nat) (k : Flit → Bool) : State :=
  s.modLink (attachKey t exit) fun l =>
    (l.buf.filter fun b => b.flit.src == t && b.taken && k b.flit).foldl Link.leave l

/-- A flit of the rim waits for the attach link by which the request of tile `t` left (R79). -/
def State.rimSend (s : State) (t exit : Nat) (f : Flit) : State := { s with rimOut := s.rimOut ++ [(exitTile t exit, exitPort exit, f)] }

/-- The first flit that the router has delivered to a tile and that a test picks. -/
def State.delivered (s : State) (t : Nat) (k : Flit → Bool) : Option Flit := (s.tile t).eject.find? k

/-- That flit is taken. -/
def State.takeKind (s : State) (t : Nat) (k : Flit → Bool) : State := s.modTile t fun x => { x with eject := x.eject.eraseP k }

/-- Partition `p`. -/
def State.part (s : State) (p : Nat) : Option Partition := kget s.parts p

/-- Store partition `p`. -/
def State.setPart (s : State) (p : Nat) (x : Partition) : State := { s with parts := kput s.parts p x }

/-- Change partition `p` where it exists. -/
def State.modPart (s : State) (p : Nat) (f : Partition → Partition) : State := { s with parts := kmod s.parts p f }

/-- Whether a partition owns a tile (R20). -/
def Partition.owns (p : Partition) (t : Nat) : Bool := decide (p.col0 ≤ tileCol t ∧ tileCol t < p.col0 + p.cols)

/-- The partition that owns a tile (R20). -/
def State.partOf (s : State) (t : Nat) : Option Nat := (s.parts.find? fun e => e.2.owns t).map Prod.fst

/-- Tiles of a partition in tile-index order: index i is row i mod 32 of column c0 + i / 32 (R20). -/
def Partition.tiles (p : Partition) : List Nat := (List.range (32 * p.cols)).map fun i => 32 * p.col0 + i

/-- The cask context of slot `c` of a tile. -/
def Tile.cask (x : Tile) (c : Nat) : Option CaskCtx := kget x.casks c

/-- Store a cask context. -/
def Tile.setCask (x : Tile) (c : Nat) (k : CaskCtx) : Tile := { x with casks := kput x.casks c k }

end Sys2Proof.Machine
end

