-- ==== Sys2Proof/Machine/Flits.lean ====
section
/-! DEFINITION. Flits, the local injection port of a tile, and the reports of a tile to its partition's arbiter and fold sequencer (R55 to R58, R74 to R78, R91, R128). -/

namespace Sys2Proof.Machine

/-! ## Flits for injection (R76 to R78) -/

/-- The 64-bit header of a flit (Table 3.6). -/
def Flit.header (f : Flit) : Bytes :=
  pack 8 [(0, 0, 11, f.dst), (0, 11, 3, f.exit), (0, 14, 2, f.vc), (0, 16, 2, f.cls), (0, 18, 2, f.cask), (0, 20, 10, f.age),
    (0, 30, 4, f.kind), (0, 34, 11, f.src), (0, 45, 8, f.qid), (0, 53, 8, f.seq), (0, 61, 1, b2n f.last)]

/-- The nine 64-bit words in which a flit travels (R76). -/
def Flit.words (f : Flit) : List Bytes := f.header :: (List.range 8).map fun i => slice f.payload (8 * i) 8

/-- Virtual channel of a kind (Table 3.7). -/
def kindVc (kind : Nat) : Nat :=
  match kind with
  | 0 | 1 | 4 | 10 | 11 => 0
  | 2 | 3 | 5 => 1
  | 6 => 2
  | _ => 3

/-- A payload of 64 bytes. -/
def payload64 (b : Bytes) : Bytes := (b ++ List.replicate (64 - b.length) 0).take 64

/-- A flit of a tile. -/
def mkFlit (src dst exit cls cask kind qid seq : Nat) (last : Bool) (b : Bytes) : Flit where
  dst := dst
  exit := exit
  vc := kindVc kind
  cls := cls
  cask := cask
  age := 0
  kind := kind
  src := src
  qid := qid
  seq := seq
  last := last
  payload := payload64 b

/-- Heads of each virtual channel among the flits that wait in unit `e` of a tile. -/
def Tile.waiting (x : Tile) (e : Nat) : List Flit :=
  (List.range 4).filterMap fun v => (x.inject.find? fun f => f.1 == e && f.2.vc == v).map Prod.snd

/-- The next flit that the local injection port takes, the unit it waits in, and the buffer it takes: the stream engines in
round-robin order after the one served last (R74); a flit of the tile's other units goes before them (log 27). -/
def Tile.nextIn (x : Tile) (l : Link) : Option (Nat × Flit × Bool) :=
  (4 :: (List.range 4).map fun i => (x.served + 1 + i) % 4).findSome? fun e =>
    (x.waiting e).findSome? fun f => (l.creditFor f).map fun r => (e, f, r)

/-- One flit enters the buffers of the local injection port, its `AGE` 0 (R82). -/
def State.enterLocal (s : State) (t e : Nat) (f : Flit) (r : Bool) : State :=
  (s.modTile t fun x => { x with inject := x.inject.erase (e, f), served := if e < 4 then e else x.served }).modLink (linkKey t 4)
    fun l => (l.take f.vc r).enter { f with age := 0 } r s.fc

/-- The local injection port takes flits while it has buffers for them (R74, R81); at most `n` of them. -/
def State.fillLocal (s : State) (t : Nat) : Nat → State
  | 0 => s
  | n + 1 =>
    match (s.tile t).nextIn (s.link (linkKey t 4)) with
    | some (e, f, r) => (s.enterLocal t e f r).fillLocal t n
    | none => s

/-- Flits of unit `e` of a tile, a stream engine or 4, wait for the local injection port, oldest first (R74, R81). -/
def State.injectBy (s : State) (t e : Nat) (fs : List Flit) : State :=
  let s := s.modTile t fun x => { x with inject := x.inject ++ fs.map fun f => (e, f) }
  s.fillLocal t (s.tile t).inject.length

/-- Flits of the tile's units other than the stream engines. -/
def State.inject (s : State) (t : Nat) (fs : List Flit) : State := s.injectBy t 4 fs

/-- Bytes cut into 64-byte payloads. -/
def payloads (b : Bytes) : List Bytes := (List.range (max 1 ((b.length + 63) / 64))).map fun i => payload64 (slice b (64 * i) 64)

/-- The flits of one token: one `SEQ`, `LAST` on the last (R86). -/
def tokenFlits (src dst cls cask qid seq : Nat) (data : Bytes) : List Flit :=
  let ps := payloads data
  ps.zipIdx.map fun p => mkFlit src dst 0 cls cask 6 qid seq (p.2 + 1 == ps.length) p.1

/-! ## Reports (R55, R58, R91, R128) -/

/-- The tile that sent a report. -/
def Report.tile : Report → Nat
  | .trap t _ _ _ _ _ _ _ => t
  | .graph t _ _ _ _ _ _ _ => t
  | .memory t _ _ _ _ _ => t

/-- Cask of a report. -/
def Report.cask : Report → Nat
  | .trap _ c _ _ _ _ _ _ => c
  | .graph _ c _ _ _ _ _ _ => c
  | .memory _ c _ _ _ _ => c

/-- The trap record of Table 2.9, written at `tick`. -/
def trapRecord (tile cask src uop unit orow ocol work round pn further tick : Nat) : Bytes :=
  pack 32 [(0, 0, 11, tile), (0, 11, 2, cask), (0, 13, 3, src), (2, 0, 12, uop), (2, 12, 4, unit), (4, 0, 16, orow), (6, 0, 16, ocol),
    (8, 0, 32, work), (12, 0, 32, round), (16, 0, 3, pn), (18, 0, 16, further), (20, 0, 64, tick)]

/-- The graph-fault record of Table 4.14. -/
def graphRecord (tile cask fault qid seqC seqD src uop round pn further tick : Nat) : Bytes :=
  pack 32 [(0, 0, 11, tile), (0, 11, 2, cask), (2, 0, 8, fault), (3, 0, 8, qid), (4, 0, 8, seqC), (5, 0, 8, seqD), (6, 0, 11, src),
    (8, 0, 12, uop), (10, 0, 3, pn), (12, 0, 32, round), (16, 0, 64, tick), (24, 0, 16, further)]

/-- The memory-error record of Table 3.11; outside every partition `NOPART` is set and `PART` is 7. -/
def memoryRecord (tile cask store addr syn : Nat) (scrub : Bool) (pn : Option Nat) (tick : Nat) : Bytes :=
  pack 32 [(0, 0, 11, tile), (0, 11, 2, cask), (0, 13, 3, store), (4, 0, 20, addr), (4, 24, 8, syn), (8, 0, 1, b2n scrub),
    (8, 1, 3, pn.getD 7), (8, 4, 1, b2n pn.isNone), (12, 0, 64, tick)]

/-- What a report carries in its flit's payload: the fields of its record that the tile knows, and in the last byte which
record it is for (log 27). -/
def Report.payload : Report → Bytes
  | .trap t c src u unit r o w => trapRecord t c src u unit r o w 0 0 0 0 ++ List.replicate 31 0 ++ [0]
  | .graph t c k q sc sd src u => graphRecord t c k q sc sd src u 0 0 0 0 ++ List.replicate 31 0 ++ [1]
  | .memory t c st a syn scrub => memoryRecord t c st a syn scrub (some 0) 0 ++ List.replicate 31 0 ++ [2]

/-- The `KIND` 9 flit of a report: VC3, to the arbiter at the north rim (R55, R91; log 27). -/
def Report.flit (r : Report) : Flit := mkFlit r.tile (exitTile r.tile 1) 1 0 r.cask 9 0 0 true r.payload

/-- A tile sends a report to its partition's arbiter on VC3. -/
def State.sendReport (s : State) (t : Nat) (r : Report) : State := s.inject t [r.flit]

/-- Work-item index held, 0xFFFF_FFFF when none (Table 2.9). -/
def Tile.workIndex (x : Tile) : Nat := match x.work with | some w => w.1 | none => 0xFFFFFFFF

/-- Whether the trap mask makes a NaR source count-only (R58). -/
def Partition.masked (p : Partition) (src : Nat) : Bool := p.trapMask / 2 ^ src % 2 == 1

/-- A value that became NaR: its place within the output tile in order of row and column, its source, its unit. -/
abbrev NarAt := Nat × Nat × Nat

/-- The one with the lowest place. -/
def lowestNar (l : List NarAt) : Option NarAt :=
  match l with
  | [] => none
  | x :: r => some (r.foldl (fun a b => if b.1 < a.1 then b else a) x)

/-- Whether output position `a` comes before `b`: the lower row, then the lower column, then the place in the output tile. -/
def posBefore (a b : Nat × Nat × Nat) : Bool :=
  decide (a.1 < b.1 ∨ (a.1 = b.1 ∧ (a.2.1 < b.2.1 ∨ (a.2.1 = b.2.1 ∧ a.2.2 < b.2.2))))

/-- A flit that has not left its tile is sent as another. -/
def State.replaceFlit (s : State) (t : Nat) (f g : Flit) : State :=
  (s.modTile t fun x => { x with inject := x.inject.map fun y => if y = (4, f) then (4, g) else y }).modLink (linkKey t 4) fun l =>
    { l with buf := l.buf.map fun b => if b.flit = f then { b with flit := g } else b }

/-- Whether a flit has not left its tile. -/
def State.holdsFlit (s : State) (t : Nat) (f : Flit) : Bool :=
  (s.tile t).inject.contains (4, f) || (s.link (linkKey t 4)).buf.any fun b => b.flit == f

/-- A NaR is reported; of several of one ac the tile reports the one with the lowest output row and column (R56). -/
def State.sendNar (s : State) (t ac orow ocol pos : Nat) (r : Report) : State :=
  let fresh := (s.sendReport t r).modTile t fun x => { x with lastNar := some (ac, orow, ocol, pos, r.flit) }
  match (s.tile t).lastNar with
  | some (ac', r', c', p', f) =>
    if ac' = ac ∧ s.holdsFlit t f = true then
      if posBefore (orow, ocol, pos) (r', c', p') then
        (s.replaceFlit t f r.flit).modTile t fun x => { x with lastNar := some (ac, orow, ocol, pos, r.flit) }
      else s
    else fresh
  | none => fresh

/-- Values became NaR. Each adds to the count of its source; the one with the lowest output row and column of those whose
source traps is reported. While the partition stops under a record, a tile that has stopped issuing reports nothing and its
NaRs add to `FURTHER` (R54 to R58). -/
def State.becameNar (s : State) (t cask uop orow ocol ac : Nat) (srcs : List NarAt) : State :=
  match s.partOf t with
  | some pn =>
    match s.part pn with
    | some p =>
      let p := { p with nar := srcs.foldl (fun (l : List Nat) x => modAt l x.2.1 fun n => satAdd 32 n 1) p.nar }
      if (s.tile t).idle && p.capture.isSome then
        s.setPart pn { p with capture := p.capture.map fun k => { k with further := satAdd 16 k.further srcs.length } }
      else
        let s := s.setPart pn p
        match lowestNar (srcs.filter fun x => !p.masked x.2.1) with
        | some x => s.sendNar t ac orow ocol x.1 (.trap t cask x.2.1 uop x.2.2 orow ocol (s.tile t).workIndex)
        | none => s
    | none => s
  | none => s

/-- A residue failure of a unit: reported with `SRC` 3, never count-only (R60). -/
def State.residueFailure (s : State) (t cask uop unit orow ocol : Nat) : State :=
  s.sendReport t (.trap t cask 3 uop unit orow ocol (s.tile t).workIndex)

/-- A graph fault that involves a micro-operation (causes 6 and 7 of Table 4.13). -/
def State.uopFault (s : State) (t cask fault uop : Nat) : State := s.sendReport t (.graph t cask fault 0xFF 0 0 0x7FF uop)

/-- The `KIND` 8 flit with which a tile reports to the fold sequencer or the arbiter, `EXIT` north: `what` 0 for `STEP_END`
(R113), 1 for its idling (R55). -/
def reportFlit (t c what : Nat) : Flit := mkFlit t (exitTile t 1) 1 0 c 8 0 0 true [BitVec.ofNat 8 what]

/-- A tile that has stopped issuing and has completed what it issued reports its idling, once (R55). -/
def State.idleReport (s : State) (t : Nat) : State :=
  let x := s.tile t
  if x.idle && x.pipe.isEmpty && !x.idleSent then
    (s.modTile t fun x => { x with idleSent := true }).inject t [reportFlit t x.running 1]
  else s

end Sys2Proof.Machine
end

