-- ==== Sys2Proof/Machine/Flags.lean ====
section
/-! DEFINITION. Check values: the CRC-32 of IEEE 802.3 and modulo-7 residues. -/

namespace Sys2Proof.Machine

/-- One bit of the reflected CRC-32 of R463. -/
def crcBit (c : Nat) : Nat := if c % 2 = 1 then (c / 2) ^^^ 0xEDB88320 else c / 2

/-- One byte into the CRC register. -/
def crcByte (c : Nat) (b : Byte) : Nat :=
  crcBit (crcBit (crcBit (crcBit (crcBit (crcBit (crcBit (crcBit (c ^^^ b.toNat))))))))

/-- CRC-32: polynomial 0x04C1_1DB7 reflected, initial value and final XOR 0xFFFF_FFFF (R463). -/
def crc32 (b : Bytes) : Nat := b.foldl crcByte 0xFFFFFFFF ^^^ 0xFFFFFFFF

/-- The 64 bytes of a record, CRC included (Table 15.6). -/
def Record.bytes (r : Record) : Bytes :=
  let head := pack 28 [(0, 0, 32, r.seq), (4, 0, 12, r.opSec % 3600), (4, 12, 20, r.opSec / 3600), (8, 0, 32, r.pcyc),
    (12, 0, 16, r.rtype), (14, 0, 2, r.sev), (15, 0, 1, b2n r.cont), (16, 0, 64, r.tick), (24, 0, 16, r.node)]
  let body := (r.body ++ List.replicate (32 - r.body.length) 0).take 32
  head ++ le 4 (crc32 (head ++ body)) ++ body

/-- The residue modulo 7 that a checker carries beside a value (R59). -/
def residue (v : Int) : Nat := (v % 7).toNat

end Sys2Proof.Machine
end

