-- ==== Sys2Proof/Machine/Operands.lean ====
section
/-! DEFINITION. The operand forms of the arithmetic: element codes and their packing, scale words, operand format words, exact rounding. -/

namespace Sys2Proof.Machine

/-! ## Element codes (R28 to R31) -/

/-- Bits of an element of format `FMT` (Tables 2.1 and 2.5). -/
def fmtBits (fmt : Nat) : Nat := match fmt with | 0 => 16 | 1 => 8 | 2 => 4 | _ => 2

/-- Magnitude limit L (Table 2.1). -/
def fmtLimit (fmt : Nat) : Nat := 2 ^ (fmtBits fmt - 1) - 1

/-- The NaR code: the most negative two's-complement code (R28). -/
def fmtNar (fmt : Nat) : Nat := 2 ^ (fmtBits fmt - 1)

/-- The value of an element code; none is NaR. -/
def decodeCode (fmt c : Nat) : Option Int :=
  if c % 2 ^ fmtBits fmt = fmtNar fmt then none else some (ofTwos (fmtBits fmt) c)

/-- The code of a value; a magnitude beyond L is held at L (R31). -/
def encodeCode (fmt : Nat) (v : Option Int) : Nat :=
  match v with
  | none => fmtNar fmt
  | some q => toTwos (fmtBits fmt) (max (-(fmtLimit fmt : Int)) (min (fmtLimit fmt : Int) q))

/-- Element codes packed densely, element 0 at bit 0 of the first byte (R30, Table 2.3). -/
def packCodes (fmt : Nat) (cs : List Nat) : Bytes :=
  le ((cs.length * fmtBits fmt + 7) / 8) (cs.foldr (fun c acc => c % 2 ^ fmtBits fmt + 2 ^ fmtBits fmt * acc) 0)

/-- Element `i` of a packed run (Table 2.3). -/
def elementAt (fmt : Nat) (b : Bytes) (i : Nat) : Nat := fld b (i * fmtBits fmt / 8) (i * fmtBits fmt % 8) (fmtBits fmt)

/-! ## Scale words (R32) -/

/-- The two bytes of a scale word: m in [7:0], e in [15:8] (Table 2.4). -/
def scaleWord (m : Nat) (e : Int) : Bytes := le 2 (m % 256 + 256 * toTwos 8 e)

/-- Multiplier of a scale word. -/
def scaleM (w : Nat) : Nat := w % 256

/-- Exponent of a scale word. -/
def scaleE (w : Nat) : Int := ofTwos 8 (w / 256)

/-! ## Operand format words (R34, R36) -/

def opFmt (w : Nat) : Nat := w % 4
def opBsz (w : Nat) : Nat := w / 4 % 8
def opDir (w : Nat) : Nat := w / 32 % 4
def opSq (w : Nat) : Nat := w / 128 % 4

/-- An operand format word with no reserved encoding (Table 2.5). -/
def opWordOk (w : Nat) : Bool :=
  decide (opBsz w ≤ 5 ∧ opDir w ≤ 2 ∧ w < 512)
    && (if opDir w = 2 then decide (opBsz w = 0 ∧ opSq w ≤ 2) else decide (opSq w = 0))

/-- Side of a square block. -/
def opSide (w : Nat) : Nat := 4 * 2 ^ opSq w

/-- Extent of a block along the reduction axis K (R36). -/
def opExtK (w : Nat) : Nat := match opDir w with | 0 => 8 * 2 ^ opBsz w | 1 => 1 | _ => opSide w

/-- Extent of a block along the operand's output axis. -/
def opExtO (w : Nat) : Nat := match opDir w with | 0 => 1 | 1 => 8 * 2 ^ opBsz w | _ => opSide w

/-- Quotient rounded up. -/
def ceilDiv (a b : Nat) : Nat := (a + b - 1) / b

/-- Bytes of element codes of an `o` by `k` operand in format word `w` (R157). -/
def codeBytes (w o k : Nat) : Nat := ceilDiv (o * k * fmtBits (opFmt w)) 8

/-- Bytes of its scale words, 2 for each block of its shape (R35, R157). -/
def scaleBytes (w o k : Nat) : Nat := 2 * (ceilDiv k (opExtK w) * ceilDiv o (opExtO w))

/-! ## An operand of the press in the working store (R30, R35, R36, R63) -/

/-- Whether an operand stores an element: positions beyond its extents are missing and read as 0 (R35). -/
def OpRef.stores (x : OpRef) (o k : Nat) : Bool := decide (o < x.outs ∧ k < x.ks)

/-- Index of element (o, k) in the operand's codes. -/
def OpRef.index (x : OpRef) (o k : Nat) : Nat := o * x.ks + k

/-- Blocks along K of an operand. -/
def OpRef.kBlocks (x : OpRef) : Nat := ceilDiv x.ks (opExtK x.word)

/-- Address of the scale word of the block that holds element (o, k): blocks are ordered along K first, then along the output
axis (R35). -/
def OpRef.scaleAddr (x : OpRef) (o k : Nat) : Nat :=
  x.scales + 2 * (o / opExtO x.word * x.kBlocks + k / opExtK x.word)

/-- Bytes of the codes of elements (o, k) to (o, k + n): address and length. -/
def OpRef.codeRange (x : OpRef) (o k n : Nat) : Nat × Nat :=
  let b := x.index o k * fmtBits (opFmt x.word)
  (x.codes + b / 8, (b % 8 + n * fmtBits (opFmt x.word) + 7) / 8)

/-- Length of a segment: the smaller of the two K-extents (R36). -/
def segLen (a b : OpRef) : Nat := min (opExtK a.word) (opExtK b.word)

/-- K indices that the press takes in one ac: 8, 16, 32 or 64 by the wider format (R63). -/
def pressDepth (a b : OpRef) : Nat := 128 / max (fmtBits (opFmt a.word)) (fmtBits (opFmt b.word))

/-- The segments of a run of `n` indices from `k0` on: first index and length; they start at multiples of the segment length,
and the last ends with the operands (R36). -/
def segments (a b : OpRef) (k0 n : Nat) : List (Nat × Nat) :=
  (List.range (ceilDiv n (segLen a b))).map fun i => (k0 + i * segLen a b, min (segLen a b) (n - i * segLen a b))

/-- Whether a run is one that a press operation reduces: whole segments, as many as one ac takes, or one longer segment. -/
def runOk (a b : OpRef) (k0 n : Nat) : Bool :=
  decide (0 < segLen a b ∧ k0 % segLen a b = 0 ∧ 0 < n ∧ n ≤ max (pressDepth a b) (segLen a b) ∧ a.ks = b.ks ∧ k0 + n ≤ a.ks
    ∧ (n % segLen a b = 0 ∨ k0 + n = a.ks))

/-! ## Exact rounding -/

/-- `num / den` rounded half to even, for a positive `den` (R40, R47). -/
def roundEven (num : Int) (den : Nat) : Int :=
  let q := num / (den : Int)
  let r := num % (den : Int)
  if 2 * r < den then q else if (den : Int) < 2 * r then q + 1 else if q % 2 = 0 then q else q + 1

/-- `v · 2^d`, rounded half to even where bits are shifted out (R40). -/
def shiftEven (v d : Int) : Int := if 0 ≤ d then v * 2 ^ d.toNat else roundEven v (2 ^ (-d).toNat)

/-- A numerator and a positive denominator of `v · 2^d`. -/
def ratio (v d : Int) : Int × Nat := if 0 ≤ d then (v * 2 ^ d.toNat, 1) else (v, 2 ^ (-d).toNat)

/-! ## Disturbed values and residue checks (R59, R60) -/

/-- A value of `w` bits with bit `k` flipped. -/
def flipBit (w k : Nat) (v : Int) : Int := if k < w then ofTwos w (toTwos w v ^^^ 2 ^ k) else v

/-- Whether the mod-7 check of a stage fails: the value's residue differs from the one that its inputs predict. -/
def checkFails (w k : Nat) (v : Int) : Bool := residue (flipBit w k v) != residue v

/-- The bit that an upset flips in stage `st` on lane or element `i`. -/
def upsetBit (u : Option Upset) (st : Stage) (i : Nat) : Option Nat :=
  match u with
  | some x => if x.stage = st ∧ x.lane = i then some x.bit else none
  | none => none

/-- A value of stage `st` as it stands, disturbed where the upset says so. -/
def disturbed (u : Option Upset) (st : Stage) (i w : Nat) (v : Int) : Int :=
  match upsetBit u st i with | some k => flipBit w k v | none => v

/-- Whether a checked stage catches a disturbance of its value. -/
def caught (u : Option Upset) (st : Stage) (i w : Nat) (v : Int) : Bool :=
  match upsetBit u st i with | some k => checkFails w k v | none => false

end Sys2Proof.Machine
end

