-- ==== Sys2Proof/WellFormed.lean ====
section
/-! DEFINITION. Which operands a command can carry: the ranges the spec gives the numbers and the lengths of what reaches the block. A command outside them stands for no event of the part. -/

namespace Sys2Proof

open Sys2Proof.Machine

namespace Wf

/-- A descriptor is 64 bytes (R308); a pair number is 0 to 15. -/
def cmd (c : Cmd) : Bool :=
  c.desc.length == 64 && (match c.src with | .pair n => decide (n < 16) | .sideband => true)

/-- Tile IDs are 0 to 2,047 (R18). -/
def tile (t : Nat) : Bool := decide (t < 2048)

/-- Cask slots are 0 to 3 (R95). -/
def slot (c : Nat) : Bool := decide (c < 4)

/-- Partitions are 0 to 7 (R20). -/
def part (p : Nat) : Bool := decide (p < 8)

/-- A transaction target: a partition or 0xFF (R316). -/
def target (t : Nat) : Bool := decide (t < 8 || t = 255)

/-- Dvoriq ports are 0 to 17 (R236). -/
def port (p : Nat) : Bool := decide (p < 18)

/-- Ports of a router: 0 north, 1 south, 2 east, 3 west, 4 local (Table 3.1). -/
def rport (p : Nat) : Bool := decide (p < 5)

/-- Micro-operation pointers have 12 bits (R102); `OROW` and `OCOL` have 16 (Table 2.9). -/
def uop (u r c : Nat) : Bool := decide (u < 4096 && r < 65536 && c < 65536)

/-- Addresses in the working store have 20 bits (R67). -/
def wsAddr (a : Nat) : Bool := decide (a < 2 ^ 20)

/-- An operand of the press: a format word of Table 2.5 with no reserved encoding, code and scale planes in the working store. -/
def operand (o : OpRef) : Bool := opWordOk o.word && wsAddr o.codes && wsAddr o.scales

/-- Words that the code of a tile store finds bad or corrects: working store, vat, cask store (Table 3.11). -/
def wordErrs (es : List WordErr) : Bool := es.all fun e => decide (e.store < 3) && (e.syn.map fun n => decide (n < 256)).getD true

/-- Where a drain takes its values: a code of the four element formats, from 1 to 65,536 of them (R72). -/
def drainSrc : DrainSrc → Bool
  | .vat accs => accs.all fun a => decide (a.1 < 1024 && a.2 < 32)
  | .shaper n => decide (n ≤ 65536)
  | .codes fmt codes _ scale => decide (fmt < 4) && wsAddr codes && wsAddr scale

/-- Request-table indices are 0 to 8,191 (R196). -/
def ridx (r : Nat) : Bool := decide (r < 8192)

/-- Serving rings are 0 to 15 of each kind (R197). -/
def ring (r : Nat) : Bool := decide (r < 16)

/-- Dvoriq packets: header fields within the widths of Tables 8.4 and 8.5, a payload of whole granules up to 256 bytes (R247). -/
def packet (p : Packet) : Bool :=
  decide (p.ptype < 32 && p.cls < 4 && p.len < 32 && p.pidx < 8 && p.dst < 65536 && p.src < 65536 && p.tag < 65536
    && p.gen < 65536 && p.addr < 2 ^ 48 && p.status < 256 && p.payload.length ≤ 256 && p.payload.length % 64 = 0)

/-- A link trailer: credits of four link virtual channels, a CRC of 32 bits (R247, R261). -/
def trailer (t : Trailer) : Bool := decide (t.crc < 2 ^ 32) && t.credits.all fun c => decide (c.1 < 4)

/-- A flit carries 64 bytes (R76); its header's fields are as wide as Table 3.6 gives them, no reserved `EXIT`, `KIND` or channel
(Tables 3.7, 3.8). -/
def flit (f : Flit) : Bool :=
  f.payload.length == 64 && decide (f.dst < 2048 && f.src < 2048 && f.exit ≤ 4 && f.kind < 12 && f.vc = kindVc f.kind && f.cls < 4
    && f.seq < 256 && f.cask < 4 && f.qid < 256 && f.age < 1024)

/-- Device addresses have 48 bits (R163) and lines are aligned. -/
def line (a : Nat) : Bool := decide (a < 2 ^ 48 && a % 64 = 0)

/-- Node IDs have 16 bits (R240). -/
def node (n : Nat) : Bool := decide (n < 65536)

/-- `SLOT_ID` has 4 bits and `DVQ_PLAN` 2 (R456). -/
def straps (s : Straps) : Bool := decide (s.slotId < 16 && s.plan < 4)

/-- A sample covers four rails, four dies and sixteen stacks (R352, R360). -/
def sample (m : Sample) : Bool :=
  m.railMv.length == 4 && m.railDa.length == 4 && m.tj.length == 64 && m.stk.length == 16

/-- An access to a line: aligned, class 0 to 3, inside the line (R173). -/
def access (a : Access) : Bool :=
  line a.addr && decide (a.cls < 4) &&
    match a.kind with
    | .read | .prefetch => true
    | .write off d => decide (off + d.length ≤ 64)
    | .atomic off w _ _ => decide ((w = 4 || w = 8) && off + w ≤ 64 && off % w = 0)

end Wf

/-- The well-formed commands. -/
def Instr.wf : Instr → Bool
  | .devInfo c | .ringCreate c | .ringDestroy c | .noticeMask c | .statsRead c | .memMap c | .memUnmap c
  | .memQuery c | .memPin c | .memUnpin c | .hostTierAdd c | .hostTierRemove c | .dmaCopy c | .cuveeLoad c
  | .cuveeSwap c | .cuveeUnload c | .caskLoad c | .caskEvict c | .partReset c | .partResume c | .partInspect c
  | .partQuery c | .sringCreate c | .sringDestroy c | .reqQuery c | .tenantKeySet c | .fabricSet c
  | .fabricPartSet c | .barrierSet c | .dvqPortQuery c | .dvqPortReset c | .pwrQuery c | .mtzPlan c
  | .mtzQuery c | .fwBankWrite c | .fwBankSelect c | .evrRead c | .evrFreeze c | .evrNonce c | .evrClear c
  | .cfgBegin c | .cfgSet c | .cfgCommit c | .cfgAbort c | .cfgRead c | .sidebandTmiCommand c => Wf.cmd c
  | .fabricPartSwitch | .commandStart | .noticeHeldDeliver | .evrWinFetchDone | .ctlTickLowRead
  | .managerHeartbeat | .firmwareHeartbeat | .cellarFullRecord | .ageTick | .stateChangeComplete
  | .supplyReturnTimer | .supplyDipReportTimer | .thermalLowerTimer | .thermalRaiseTimer
  | .pwrbrkReleaseTimer | .vintagePlanTimer | .vintageAutoCommit | .vinAuxPowerUp | .perstNFall
  | .tastingStageTimeout | .watchdogExpiry | .corkFinalTimer | .functionLevelReset | .port1Flr | .cxlLinkDown
  | .gpfPhase1 | .nonceExpiry | .recordCommit | .operatingTimeSave | .bankWriteCompletion | .port1LinkDown
  | .epoN _ | .pwrbrkNAssert _ | .thermalTrip _ | .vinAuxLoss _ | .freezeExpiry _ | .tastingStageComplete _
  | .authNonce _ | .spdmRequest _ _ | .pldmRequest _ | .servingHostAccessFail _ | .p0Arm _ | .p0Disarm _
  | .ctlIntStatusWrite _ _ | .ctlIntEnableWrite _ | .evrWinSeqWrite _ | .evrWinNext _ => true
  | .cfgCommitDeadline t | .cfgAutoAbort t => Wf.target t
  | .commandDoorbell p _ | .completionDoorbell p _ | .commandFetch p _ | .classPromotion p
  | .vectorCoalesceTimer p => decide (p < 16)
  | .sringDb _ _ r _ => Wf.ring r
  | .registerWrite _ w _ => decide (w ≤ 8)
  | .uopIssue t _ _ es | .pressVatWrite t _ es | .tileScrub t es => Wf.tile t && Wf.wordErrs es
  | .pressOperation t c u m r o _ a b k0 n _ es => Wf.tile t && Wf.slot c && Wf.uop u r o && decide (m < 1024) && Wf.operand a
    && Wf.operand b && runOk a b k0 n && Wf.wordErrs es
  | .vatClear t c ms _ => Wf.tile t && Wf.slot c && ms.all fun m => decide (m < 1024)
  | .scaleFinderDrain t c u r o d f _ ca sa _ _ es => Wf.tile t && Wf.slot c && Wf.uop u r o && Wf.drainSrc d && decide (f < 4)
    && Wf.wsAddr ca && Wf.wsAddr sa && Wf.wordErrs es
  | .conversionDrain t c u r o d f _ _ es => Wf.tile t && Wf.slot c && Wf.uop u r o && Wf.drainSrc d && decide (f ≤ 30) && Wf.wordErrs es
  | .shaperFunction t c u r o _ f g _ _ _ => Wf.tile t && Wf.slot c && Wf.uop u r o && decide (f ≤ 30 && g ≤ 30)
  | .smx t c u r o _ f g _ _ _ => Wf.tile t && Wf.slot c && Wf.uop u r o && decide (f ≤ 30 && g ≤ 30)
  | .queuePop t c _ es | .streamRingPop t c _ es | .rotate t c _ _ _ es | .steeringPairing t c es | .streamIssue t c _ es =>
    Wf.tile t && Wf.slot c && Wf.wordErrs es
  | .stepEnd t c | .endList t c | .creditReturnTimer t c _ | .steeredTokenSend t c _ | .tokenSend t c _ _ | .streamRingPush t c _ _ | .shadowWrite t c _ _ _
  | .readDataArrival t c _ _ _ _ | .writeAckArrival t c _ _ | .memoryErrorReport t c _ _ _ _ => Wf.tile t && Wf.slot c
  | .tallyRequestIssue t _ _ | .tallyRequest t _ _ _ _ | .tallyGrant t _ _ | .tallyResendTimer t | .caskSwitch t
  | .scheduleClock t => Wf.tile t
  | .trapMessage p _ | .graphFault p _ | .partitionRestart p | .foldStepTimer p | .foldLead p | .tilerDone p
  | .loadCompletion p _ | .caskImageLineWrite p _ _ _ _ _ => Wf.part p
  | .tileIdleReport p t | .stepEndReport p t => Wf.part p && Wf.tile t
  | .flitReceive t p _ _ e => Wf.tile t && Wf.rport p && (e.map fun e => decide (e.word < 9)).getD true
  | .flitForward t p _ _ => Wf.tile t && Wf.rport p
  | .hopCreditReturn t p v _ _ | .meshReplayRequest t p v _ => Wf.tile t && Wf.rport p && decide (v < 4)
  | .tokenArrival t f | .e2eCreditReturn t f => Wf.tile t && Wf.flit f
  | .rimAccess a _ _ _ _ => Wf.access a
  | .demotionSelect d t => decide (d < 4 && t < 2)
  | .decantComplete u l _ => decide (u < 2 ^ 32 && l < 1024)
  | .mapSweep u => decide (u < 2 ^ 32)
  | .patrolScrub t _ l _ => decide (t < 2 && l < 1024)
  | .submissionFetch r _ | .submit r _ _ | .cancel r _ | .pause r _ | .resume r _ => Wf.ring r
  | .hoOpen m => Wf.node m.node && decide (m.slot < 64 && m.cls < 4 && m.oring < 16)
  | .hoAccept r _ _ | .hoRefusal r _ _ | .hoBusyRetryTimer r | .hoCommitComplete r _ | .hoReceiverSilence r => Wf.ridx r
  | .hoCommit n r _ _ _ | .hoAbort n r _ _ => Wf.node n && Wf.ridx r
  | .kvship p | .rd p | .wr p | .add32 p | .add64 p | .fadd32 p | .fadd64 p | .barArrive p
  | .barRelease p => Wf.packet p
  | .kvack q p | .rddata q p | .ack q p | .atdata q p | .sereply q p | .err q p => Wf.port q && Wf.packet p
  | .dvqPacketReceive q t p => Wf.port q && Wf.trailer t && Wf.packet p
  | .idleWordReceive q t => Wf.port q && Wf.trailer t
  | .fabricRequest r => Wf.node r.node && decide (r.cls < 4)
  | .dvqReplayRequest p _ | .lossOfSignal p | .trainingRetryTimer p | .trainingNoSignal p | .trainingTimeout p
  | .cableTemperaturePoll p _ _ _ | .cableCooldownExpiry p | .retimerLockPoll p _ | .charterVerdict p _
  | .egressPacketSend p => Wf.port p
  | .trainingComplete p l _ _ => Wf.port p && decide (l ≤ 4)
  | .charterReceive p c => Wf.port p && c.length == 32
  | .cableHotJoinOrLoss p i => Wf.port p && (i.map fun b => b.length == 32).getD true
  | .cableBusSilent b => decide (b < 3)
  | .fabricTimeout t | .tagWithholdExpiry t => decide (t < 65536)
  | .barrierKeepalive h i _ => decide (h < 65536 ∧ i < 1024)
  | .barrierRoundLimit i => decide (i < 1024)
  | .portHoldEnd h | .generationHoldExpiry h => decide (h ≤ 16)
  | .powerSample m => Wf.sample m
  | .supplyWarningCrossing r _ | .railResetLevel r => decide (r < 4)
  | .supplyResetRecovery s | .pwrokRise s | .perstNRise s => Wf.straps s
  | .thermalComparator105 d _ => decide (d < 4)
  | .metrizorSample ds => ds.length == 1024
  | .cxlLinkTrained p _ _ _ _ => decide (p < 2)
  | .hostSnoop a _ | .birsp a | .cxlCacheResponse a _ => decide (a % 64 = 0)
  | .cxlMemRequest a w _ _ => decide (a % 64 = 0) && (w.map fun b => b.length == 64).getD true
  | .hdmDecoderCommit _ _ _ w _ => decide (0 < w)
  | .ideIntegrityFailure i => decide (i < 256)
  | .doeRequest p _ => decide (p < 2)
  | .ownClaim _ k => k.length == 1952
  | .ownTransfer _ k _ => k.length == 1952
  | .ownRelease _ _ | .ownCosign _ _ _ => true

end Sys2Proof
end

