-- ==== Sys2Proof/Machine/Digest.lean ====
section
/-! DEFINITION. SHAKE256 of FIPS 202 and KMAC256 of SP 800-185, which the spec names (R219, R239, R419, R423) (log 8). -/

namespace Sys2Proof.Machine

/-- Rotate a 64-bit lane left. -/
def rotl (x n : Nat) : Nat := ((x <<< n) ||| (x >>> (64 - n))) % 2 ^ 64

/-- Lane i of a state of 25. -/
def lane (a : List Nat) (i : Nat) : Nat := a.getD i 0

/-- Rotation offsets of rho, by x + 5 y. -/
def rhoOffsets : List Nat :=
  [0, 1, 62, 28, 27, 36, 44, 6, 55, 20, 3, 10, 43, 25, 39, 41, 45, 15, 21, 8, 18, 2, 61, 56, 14]

/-- Round constants of iota. -/
def roundConstants : List Nat :=
  [0x0000000000000001, 0x0000000000008082, 0x800000000000808A, 0x8000000080008000, 0x000000000000808B,
   0x0000000080000001, 0x8000000080008081, 0x8000000000008009, 0x000000000000008A, 0x0000000000000088,
   0x0000000080008009, 0x000000008000000A, 0x000000008000808B, 0x800000000000008B, 0x8000000000008089,
   0x8000000000008003, 0x8000000000008002, 0x8000000000000080, 0x000000000000800A, 0x800000008000000A,
   0x8000000080008081, 0x8000000000008080, 0x0000000080000001, 0x8000000080008008]

/-- theta: each lane takes the parity of two columns. -/
def keccakTheta (a : List Nat) : List Nat :=
  let c := (List.range 5).map fun x =>
    lane a x ^^^ lane a (x + 5) ^^^ lane a (x + 10) ^^^ lane a (x + 15) ^^^ lane a (x + 20)
  (List.range 25).map fun i => lane a i ^^^ lane c ((i % 5 + 4) % 5) ^^^ rotl (lane c ((i % 5 + 1) % 5)) 1

/-- rho and pi: lane (x, y) of the result is lane (x + 3y, x) rotated. -/
def keccakRhoPi (a : List Nat) : List Nat :=
  (List.range 25).map fun i =>
    let x := i % 5
    let y := i / 5
    let j := (x + 3 * y) % 5 + 5 * x
    rotl (lane a j) (lane rhoOffsets j)

/-- chi. -/
def keccakChi (a : List Nat) : List Nat :=
  (List.range 25).map fun i =>
    let x := i % 5
    let y := 5 * (i / 5)
    lane a i ^^^ ((lane a ((x + 1) % 5 + y) ^^^ (2 ^ 64 - 1)) &&& lane a ((x + 2) % 5 + y))

/-- One round. -/
def keccakRound (a : List Nat) (rc : Nat) : List Nat :=
  modAt (keccakChi (keccakRhoPi (keccakTheta a))) 0 fun v => v ^^^ rc

/-- Keccak-f[1600]. -/
def keccakF (a : List Nat) : List Nat := roundConstants.foldl keccakRound a

/-- The rate of a capacity of 512 bits, in bytes. -/
def keccakRate : Nat := 136

/-- Lanes of a block of bytes. -/
def lanesOf (b : Bytes) : List Nat := (List.range 25).map fun i => ofLe (slice b (8 * i) 8)

/-- Absorb a padded message, a block at a time. -/
def absorb : Nat → List Nat → Bytes → List Nat
  | 0, st, _ => st
  | n + 1, st, m =>
    absorb n (keccakF (List.zipWith (fun a b => a ^^^ b) st (lanesOf (m.take keccakRate)))) (m.drop keccakRate)

/-- Squeeze blocks. -/
def squeeze : Nat → List Nat → Bytes
  | 0, _ => []
  | n + 1, st => (st.flatMap fun l => le 8 l).take keccakRate ++ squeeze n (keccakF st)

/-- Pad a message: the domain suffix, zeros, and the last bit of the block. -/
def keccakPad (suffix : Nat) (m : Bytes) : Bytes :=
  let z := keccakRate - 1 - m.length % keccakRate
  if z = 0 then m ++ [BitVec.ofNat 8 (suffix ||| 0x80)]
  else m ++ BitVec.ofNat 8 suffix :: (List.replicate (z - 1) 0 ++ [0x80])

/-- The sponge of capacity 512. -/
def sponge (suffix : Nat) (m : Bytes) (n : Nat) : Bytes :=
  let p := keccakPad suffix m
  (squeeze ((n + keccakRate - 1) / keccakRate) (absorb (p.length / keccakRate) (List.replicate 25 0) p)).take n

/-- SHAKE256 with `n` bytes of output. -/
def shake256 (m : Bytes) (n : Nat) : Bytes := sponge 0x1F m n

/-- Bytes of a number, high byte first, without leading zeros, at least one. -/
def beBytes : Nat → Nat → Bytes
  | 0, _ => []
  | k + 1, v => if v < 256 then [BitVec.ofNat 8 v] else beBytes k (v / 256) ++ [BitVec.ofNat 8 v]

/-- left_encode of SP 800-185. -/
def leftEncode (v : Nat) : Bytes := let b := beBytes 8 v; BitVec.ofNat 8 b.length :: b

/-- right_encode of SP 800-185. -/
def rightEncode (v : Nat) : Bytes := let b := beBytes 8 v; b ++ [BitVec.ofNat 8 b.length]

/-- encode_string of SP 800-185. -/
def encodeString (b : Bytes) : Bytes := leftEncode (8 * b.length) ++ b

/-- bytepad of SP 800-185 to the rate. -/
def bytepad (b : Bytes) : Bytes :=
  let x := leftEncode keccakRate ++ b
  x ++ List.replicate ((keccakRate - x.length % keccakRate) % keccakRate) 0

/-- KMAC256 with a key, a customisation string and `n` bytes of output. -/
def kmac256 (key m custom : Bytes) (n : Nat) : Bytes :=
  sponge 0x04 (bytepad (encodeString (le 4 0x43414D4B) ++ encodeString custom) ++ bytepad (encodeString key) ++ m
    ++ rightEncode (8 * n)) n

/-- The bytes of a string of characters below 128. -/
def ascii (s : String) : Bytes := s.toList.map fun c => BitVec.ofNat 8 c.toNat

/-- Seed of the device identity key (Table 15.1). -/
def identitySeed : Bytes := shake256 (ascii "PQT-DEVID" ++ Config.deviceSecret) 32

/-- Seed of the alias key, with measurement 2 of the running image (Table 15.1). -/
def aliasSeed (m2 : Bytes) : Bytes := shake256 (ascii "PQT-ALIAS" ++ Config.deviceSecret ++ m2) 32

/-- The device identifier: 32 bytes of SHAKE256 over the identity public key (R419). -/
def deviceId : Bytes := shake256 (Config.publicKeyOf identitySeed) 32

end Sys2Proof.Machine
end

