-- ==== Sys2Proof/Machine/Catalogue.lean ====
section
/-! DEFINITION. TMI commands: the header of a descriptor, the command catalogue, the checks of R318 that are common to all, and the completion of a command. -/

namespace Sys2Proof.Machine

/-! ## The header (Table 11.2) -/

def Cmd.op (c : Cmd) : Nat := fld c.desc 0 0 16
def Cmd.fence (c : Cmd) : Bool := fld c.desc 2 0 1 == 1
def Cmd.target (c : Cmd) : Nat := fld c.desc 3 0 8
def Cmd.cid (c : Cmd) : Nat := fld c.desc 4 0 32
def Cmd.buf (c : Cmd) : Nat := fld c.desc 8 0 64

/-- Status codes of Table 11.4. -/
def stOk : Nat := 0x0000
def stOpcode : Nat := 0x0001
def stParam : Nat := 0x0002
def stTarget : Nat := 0x0003
def stBusy : Nat := 0x0004
def stCorked : Nat := 0x0005
def stBuffer : Nat := 0x0006
def stAbortedReset : Nat := 0x0007
def stNotStopped : Nat := 0x0008
def stPartFaulted : Nat := 0x0009
def stUnbacked : Nat := 0x000A
def stAuth : Nat := 0x000B
def stData : Nat := 0x000C

/-- The kind of target a command needs (Tables 11.6 to 11.11). -/
inductive TargetKind where
  | device
  /-- the device, and only on pair 0 -/
  | pair0
  | part
  /-- a partition number that is free -/
  | empty
  /-- an existing partition or the device -/
  | either
  deriving DecidableEq, Repr

/-- One row of the catalogue: served in `CORKED`, kind of target, the parameter fields as byte offset, bit, width. -/
structure Entry where
  corked : Bool
  kind : TargetKind
  params : List (Nat × Nat × Nat)
  deriving DecidableEq, Repr

/-- Rows of Table 11.6. -/
def catalogueDevice : KMap Entry := [
  (0x0001, ⟨true, .device, []⟩),
  (0x0002, ⟨false, .pair0, [(16, 0, 4), (16, 4, 2), (16, 6, 1), (17, 0, 4), (18, 0, 6), (19, 0, 8), (20, 0, 10), (24, 0, 64), (32, 0, 64), (40, 0, 64)]⟩),
  (0x0003, ⟨false, .pair0, [(16, 0, 4)]⟩),
  (0x0004, ⟨false, .device, [(16, 0, 32)]⟩),
  (0x0005, ⟨true, .device, [(16, 0, 8), (17, 0, 1), (18, 0, 3), (20, 0, 32)]⟩)]

/-- Rows of Table 11.7. -/
def catalogueMemory : KMap Entry := [
  (0x0101, ⟨false, .device, [(16, 0, 48), (24, 0, 32), (28, 0, 2)]⟩),
  (0x0102, ⟨false, .device, [(16, 0, 48), (24, 0, 32)]⟩),
  (0x0103, ⟨false, .device, [(16, 0, 48), (24, 0, 32), (28, 0, 32)]⟩),
  (0x0104, ⟨false, .device, [(16, 0, 48), (24, 0, 32)]⟩),
  (0x0105, ⟨false, .device, [(16, 0, 48), (24, 0, 32)]⟩),
  (0x0106, ⟨false, .device, [(16, 0, 64), (24, 0, 64)]⟩),
  (0x0107, ⟨false, .device, [(16, 0, 64)]⟩),
  (0x0108, ⟨false, .device, [(16, 0, 64), (24, 0, 48), (32, 0, 31), (36, 0, 1)]⟩)]

/-- Rows of Table 11.8. -/
def cataloguePartition : KMap Entry := [
  (0x0201, ⟨false, .empty, [(16, 0, 48), (24, 0, 6), (25, 0, 6)]⟩),
  (0x0202, ⟨false, .part, [(16, 0, 48), (24, 0, 16), (26, 0, 1)]⟩),
  (0x0203, ⟨false, .part, [(24, 0, 16)]⟩),
  (0x0204, ⟨false, .part, [(16, 0, 48), (24, 0, 32), (28, 0, 2)]⟩),
  (0x0205, ⟨false, .part, [(28, 0, 2)]⟩),
  (0x0206, ⟨false, .part, []⟩),
  (0x0207, ⟨false, .part, []⟩),
  (0x0208, ⟨false, .part, [(16, 0, 3), (17, 0, 2), (18, 0, 11), (20, 0, 20), (24, 0, 32)]⟩),
  (0x0209, ⟨false, .part, []⟩)]

/-- Rows of Table 11.13a. -/
def catalogueConfig : KMap Entry := [
  (0x0301, ⟨false, .either, []⟩),
  (0x0302, ⟨false, .either, [(16, 0, 16), (18, 0, 16), (20, 0, 8), (24, 0, 320)]⟩),
  (0x0303, ⟨false, .either, [(16, 0, 16), (18, 0, 1), (20, 0, 32)]⟩),
  (0x0304, ⟨false, .either, [(16, 0, 16)]⟩),
  (0x0305, ⟨false, .either, [(16, 0, 16), (20, 0, 32)]⟩)]

/-- Rows of Table 11.9. -/
def catalogueServing : KMap Entry := [
  (0x0401, ⟨false, .device, [(16, 0, 5), (17, 0, 5), (18, 0, 7), (24, 0, 64), (32, 0, 64)]⟩),
  (0x0402, ⟨false, .device, [(16, 0, 5)]⟩),
  (0x0403, ⟨false, .device, [(16, 0, 13), (20, 0, 32)]⟩),
  (0x0404, ⟨false, .device, [(16, 0, 8), (17, 0, 1), (24, 0, 256)]⟩)]

/-- Rows of Table 11.10. -/
def catalogueFabric : KMap Entry := [
  (0x0501, ⟨false, .device, [(16, 0, 6), (17, 0, 6)]⟩),
  (0x0502, ⟨false, .device, [(16, 0, 128)]⟩),
  (0x0503, ⟨false, .device, [(16, 0, 10), (17, 7, 1), (20, 0, 17), (24, 0, 2), (26, 0, 16), (28, 0, 32)]⟩),
  (0x0504, ⟨true, .device, [(16, 0, 5), (20, 0, 32)]⟩),
  (0x0505, ⟨false, .device, [(16, 0, 5)]⟩)]

/-- Rows of Table 11.11. -/
def catalogueCare : KMap Entry := [
  (0x0601, ⟨true, .device, [(20, 0, 32)]⟩),
  (0x0602, ⟨false, .device, []⟩),
  (0x0603, ⟨true, .device, [(16, 0, 32), (20, 0, 32)]⟩),
  (0x0604, ⟨true, .device, [(16, 0, 24)]⟩),
  (0x0605, ⟨true, .device, [(16, 0, 1)]⟩),
  (0x0606, ⟨true, .device, [(16, 0, 32), (20, 0, 16), (24, 0, 32)]⟩),
  (0x0607, ⟨true, .device, [(16, 0, 1)]⟩),
  (0x0608, ⟨true, .device, [(20, 0, 32)]⟩),
  (0x0609, ⟨true, .device, [(16, 0, 16)]⟩)]

/-- The command catalogue; an unassigned opcode has no row. -/
def catalogue (op : Nat) : Option Entry :=
  kget (catalogueDevice ++ catalogueMemory ++ cataloguePartition ++ catalogueConfig ++ catalogueServing ++ catalogueFabric ++ catalogueCare) op

/-- Header fields that every command has (Table 11.2). -/
def headerFields : List (Nat × Nat × Nat) := [(0, 0, 16), (2, 0, 1), (3, 0, 8), (4, 0, 32), (8, 0, 64)]

/-- The bits of a 64-byte descriptor that fields name; every other bit is reserved (R316, R462). -/
def fieldMask (fs : List (Nat × Nat × Nat)) : Nat :=
  fs.foldl (fun acc f => acc ||| ((2 ^ f.2.2 - 1) <<< (8 * f.1 + f.2.1))) 0

/-- Every reserved bit of a structure is 0. -/
def reservedZero (b : Bytes) (fs : List (Nat × Nat × Nat)) : Bool := ofLe b &&& fieldMask fs == ofLe b

/-- Units of unit space: 240 TiB of 64 KiB (Table 6.2). -/
def unitSpace : Nat := 0xF0000000

/-- A range of units that lies in unit space, aligned and not empty (Table 11.7, R327). -/
def unitRangeOk (d : Bytes) : Bool :=
  fld d 16 0 48 % 65536 == 0 && decide (1 ≤ fld d 24 0 32) && decide (fld d 16 0 48 / 65536 + fld d 24 0 32 ≤ unitSpace)

/-- Bytes of a statistics group (Table 11.12). -/
def statsBytes (g : Nat) : Nat := match g with | 0 => 20 | 1 => 16384 | 2 => 144 | _ => 64

/-- The ranges of the parameters, a buffer too short among them (R318 check 3, R319). -/
def paramsOk (op : Nat) (d : Bytes) (s : State) : Bool :=
  match op with
  | 0x0002 => decide (1 ≤ fld d 16 0 4 ∧ 6 ≤ fld d 17 0 4 ∧ fld d 17 0 4 ≤ 12) && fld d 24 0 64 % 4096 == 0
      && fld d 32 0 64 % 4096 == 0 && fld d 40 0 64 % 8 == 0
  | 0x0003 => decide (1 ≤ fld d 16 0 4)
  | 0x0005 => decide (fld d 16 0 8 ≤ 3 ∧ statsBytes (fld d 16 0 8) ≤ fld d 20 0 32)
  | 0x0101 => unitRangeOk d && decide (fld d 28 0 2 ≤ 2)
  | 0x0102 | 0x0104 | 0x0105 => unitRangeOk d
  | 0x0103 => unitRangeOk d && decide (fld d 24 0 32 ≤ 65536 ∧ 8 * fld d 24 0 32 ≤ fld d 28 0 32)
  | 0x0108 => fld d 32 0 31 % 64 == 0 && decide (fld d 32 0 31 ≤ 2 ^ 30)
  | 0x0208 => decide (fld d 16 0 3 ≤ 4) && (match kget s.parts (fld d 3 0 8) with | some p => p.owns (fld d 18 0 11) | none => true)
  | 0x0302 => decide (1 ≤ fld d 20 0 8 ∧ fld d 20 0 8 ≤ 40)
  | 0x0303 => decide (1 ≤ fld d 20 0 32 ∧ fld d 20 0 32 ≤ 10000000)
  | 0x0401 => decide (6 ≤ fld d 17 0 5 ∧ fld d 17 0 5 ≤ 16)
  | 0x0403 => decide (64 ≤ fld d 20 0 32)
  | 0x0404 => fld d 17 0 1 == 0 || fld d 24 0 256 == 0
  | 0x0503 => fld d 17 7 1 == 1 || decide (1 ≤ fld d 20 0 17 ∧ fld d 20 0 17 ≤ 65536 ∧ 1000 ≤ fld d 28 0 32 ∧ fld d 28 0 32 ≤ 60000000)
  | 0x0504 => decide (fld d 16 0 5 ≤ 17 ∧ 128 ≤ fld d 20 0 32)
  | 0x0505 => decide (fld d 16 0 5 ≤ 17)
  | 0x0604 => decide (1 ≤ fld d 16 0 24 ∧ fld d 16 0 24 ≤ 6291456)
  | 0x0606 => decide (1 ≤ fld d 20 0 16 ∧ fld d 20 0 16 ≤ 32768)
  | 0x0608 => decide (32 ≤ fld d 20 0 32)
  | 0x0609 => fld d 16 0 16 == 3445
  | _ => true

/-- Whether the target is of the kind the opcode needs (R318 check 4). -/
def targetOk (k : TargetKind) (src : CmdSrc) (t : Nat) (s : State) : Bool :=
  match k with
  | .device => t == 255
  | .pair0 => t == 255 && src == .pair 0
  | .part => (kget s.parts t).isSome
  | .empty => decide (t < 8) && (kget s.parts t).isNone
  | .either => t == 255 || (kget s.parts t).isSome

/-- The state-changing commands of R320 but `CFG_COMMIT`. -/
def stateChanging (op : Nat) : Bool := [0x0201, 0x0202, 0x0203, 0x0204, 0x0205, 0x0207, 0x0303].contains op

/-- What a partition accepts (Table 11.5) and the one state-changing command it may have (R320). -/
def partBusy (op : Nat) (p : Partition) : Bool :=
  (match p.st with
    | .loading => !([0x0209, 0x0206].contains op)
    | .swapping => !([0x0209, 0x0206, 0x0301, 0x0302, 0x0304].contains op)
    | _ => false)
  || (stateChanging op && (p.job.isSome || p.caskJob.isSome || p.commit.isSome))
  || ((op == 0x0202 || op == 0x0203) && p.txn.isSome)

/-- A command of `op` on target `t` is busy (R318 check 5, R320); `me` is not counted against itself. -/
def targetBusy (op t : Nat) (me : CmdSrc × Nat) (s : State) : Bool :=
  (match kget s.parts t with | some p => partBusy op p | none => false)
  || (stateChanging op && t != 255 &&
      (s.tmi.running.eraseP fun r => r.isCmd me.1 me.2 op).any fun r => stateChanging r.opcode && r.target == t)

/-- Checks 1 to 5 of R318, in order: the status of the first that fails. -/
def tmiCheck (c : Cmd) (s : State) : Option Nat :=
  match catalogue c.op with
  | none => some (if s.life.dev = .corked then stCorked else stOpcode)
  | some e =>
    if s.life.dev = .corked ∧ e.corked = false then some stCorked
    else if !(reservedZero c.desc (headerFields ++ e.params) && c.buf % 64 == 0 && paramsOk c.op c.desc s) then some stParam
    else if !(targetOk e.kind c.src c.target s) then some stTarget
    else if targetBusy c.op c.target (c.src, c.cid) s then some stBusy
    else none

/-- Class of the pair that carried a command, when it was fetched (R317); the sideband is `URGENT` (R416). -/
def cmdCls (src : CmdSrc) (s : State) : Nat :=
  match src with
  | .pair n => (match kget s.tmi.pairs n with | some p => p.cls | none => 0)
  | .sideband => 0

/-- Whether firmware or the manager core serves TMI for this source now (R308, R376, R416, Table 13.4). -/
def tmiServed (src : CmdSrc) (s : State) : Bool :=
  match src with
  | .pair n => (kget s.tmi.pairs n).isSome && (n != 0 || s.regs.armed) && (s.life.dev = .opened || (s.life.dev = .corked && n == 0)) && !s.pwr.stopped
  | .sideband => s.life.dev = .opened || s.life.dev = .corked

/-- Complete command `c` with a status, the number of its record (0xFFFF_FFFF none) and its result. -/
def complete (c : Cmd) (st evseq : Nat) (result : Bytes) (s : State) : State :=
  s.finish c.src c.cid c.op (cmdCls c.src s) st evseq result

/-- Complete with a status alone: a refusal changes nothing else (R318). -/
def refuse (c : Cmd) (st : Nat) (s : State) : State := complete c st 0xFFFFFFFF [] s

/-- Complete `OK` with a result. -/
def done (c : Cmd) (result : Bytes) (s : State) : State := complete c stOk 0xFFFFFFFF result s

/-- Complete `OK` with a result after `s` became `t`; `EVSEQ` names the record written for the command (Table 11.3; log 6). -/
def doneFrom (c : Cmd) (result : Bytes) (s t : State) : State := complete c stOk (evseqOf s t) result t

/-- Write a command's buffer and complete; a failed write ends it with `BUFFER_ERROR` (R319). The device has then
changed nothing that depends on the data. -/
def doneBuffer (c : Cmd) (b result : Bytes) (s : State) : State :=
  match c.wr with
  | .ok => done c result (match c.src with
      | .pair _ => s.hostWrite 0 c.buf b
      | .sideband => { s with out := { s.out with sideband := s.out.sideband ++ [b] } })
  | .cxlError => refuse c stBuffer s

/-- A command of opcode `op` carried out: it must be that opcode and be served; checks 1 to 5 come first, then `body`
makes the command's own checks and has its effect (R318). -/
def runCmd (op : Nat) (c : Cmd) (body : Cmd → State → State) (s : State) : State :=
  if c.op = op ∧ tmiServed c.src s = true then
    match tmiCheck c s with
    | some st => refuse c st s
    | none => body c s
  else s

/-- A command as one of those started and not complete. -/
def Cmd.running (c : Cmd) (s : State) : Running where
  src := c.src
  cid := c.cid
  opcode := c.op
  cls := cmdCls c.src s
  target := c.target

/-- A command that goes on after its row stays among those in progress (R311). -/
def State.keepRunning (s : State) (c : Cmd) : State :=
  if s.tmi.running.any fun r => r.isCmd c.src c.cid c.op then s
  else { s with tmi := { s.tmi with running := s.tmi.running ++ [c.running s] } }

end Sys2Proof.Machine
end

