-- ==== Sys2Proof/Machine/TierOps.lean ====
section
/-! DEFINITION. The tiers of memory: frames, the unit map, the rim cache, the cellar cache, decants, as operations on Memory. -/

namespace Sys2Proof.Machine

/-! ## Places -/

/-- Bytes of a unit (R163). -/
def unitBytes : Nat := 65536

/-- First address of the device region (Table 6.2). -/
def deviceRegion : Nat := 0xFFFE00000000

/-- Frames of the near tier that serve units (Table 6.1); the device region's frames follow them (log 11). -/
def nearFrames : Nat := 16646144

/-- Frames of the registered extents (R167). -/
def Memory.hostFrames (m : Memory) : Nat := (m.extents.map fun e => e.2 / unitBytes).sum

/-- Host physical address of host-tier frame `f`: frames number the extents' units in registration order (log 11). -/
def hostAddr : List (Nat × Nat) → Nat → Nat
  | [], _ => 0
  | (base, len) :: es, f => if f < len / unitBytes then base + unitBytes * f else hostAddr es (f - len / unitBytes)

/-- The die of a line (R166): that of its stack, for the unit-map copies by R165, else address bits [15:14]. -/
def lineDie (a : Nat) : Nat :=
  if deviceRegion ≤ a ∧ a < deviceRegion + 0xC0000000 then (a / 4096 % 8) / 4
  else if deviceRegion + 0xC0000000 ≤ a ∧ a < deviceRegion + 0x180000000 then 2 + (a / 4096 % 8) / 4
  else a / 16384 % 4

/-- Stack or channel of a line of a unit: address bits [15:12] (R166). -/
def lineLoc (a : Nat) : Nat := a / 4096 % 16

/-- Stack of a near-tier line: in the unit-map copies those of R165, else by R166. -/
def stackOf (a : Nat) : Nat :=
  if deviceRegion ≤ a ∧ a < deviceRegion + 0xC0000000 then lineLoc a % 8
  else if deviceRegion + 0xC0000000 ≤ a ∧ a < deviceRegion + 0x180000000 then 8 + lineLoc a % 8
  else lineLoc a

/-- The rim-cache set of a line (R172). -/
def rimSetOf (a : Nat) : Nat := ((a / 65536 % 256) * 256 + a / 64 % 256) ^^^ (a / 16777216 % 65536)

/-- Key of a set: 65,536 x die + set. -/
def rimKey (a : Nat) : Nat := 65536 * lineDie a + rimSetOf a

/-- An empty set. -/
def RimSet.empty : RimSet where
  ways := List.replicate 16 none
  plru := 0

def Memory.rimAt (m : Memory) (a : Nat) : RimSet := (kget m.rim (rimKey a)).getD RimSet.empty

/-- The way that holds the line of address `a`. -/
def RimSet.find (r : RimSet) (a : Nat) : Option Nat :=
  (List.range 16).find? fun w => match r.ways.getD w none with | some l => l.line == a / 64 | none => false

/-- The line of address `a` where the rim cache holds it. -/
def Memory.rimLine (m : Memory) (a : Nat) : Option RimLine :=
  match (m.rimAt a).find a with
  | some w => (m.rimAt a).ways.getD w none
  | none => none

/-- Put a line into a way. -/
def Memory.rimPut (m : Memory) (a w : Nat) (l : Option RimLine) : Memory :=
  { m with rim := kput m.rim (rimKey a) { m.rimAt a with ways := setAt (m.rimAt a).ways w l } }

/-! ### Tree pseudo-LRU over 16 ways (R172): node 1 is the root, node n has children 2n and 2n + 1; bit n clear
means that the left half was used less recently -/

/-- Mark way `w` used: every node on its path points away from it. -/
def plruTouch (t w : Nat) : Nat :=
  let go := fun (acc : Nat) (k : Nat) =>
    let node := 2 ^ k + w / 2 ^ (4 - k)
    let right := w / 2 ^ (3 - k) % 2
    let bit := 2 ^ node
    if right = 0 then acc ||| bit else if acc / bit % 2 = 1 then acc - bit else acc
  go (go (go (go t 0) 1) 2) 3

/-- Whether the subtree at depth `k` with index `i` has a way that may be replaced. -/
def plruHas (ok : Nat → Bool) (k i : Nat) : Bool :=
  (List.range (2 ^ (4 - k))).any fun j => ok (i * 2 ^ (4 - k) + j)

/-- Walk from depth `k`, index `i`, to the way the bits select, turning aside where a half has none that may go
(R172, R194: held lines are skipped; log 11). -/
def plruWalk (ok : Nat → Bool) (t : Nat) : Nat → Nat → Nat → Nat
  | 0, _, i => i
  | n + 1, k, i =>
    let right := t / 2 ^ (2 ^ k + i) % 2
    let c := 2 * i + right
    plruWalk ok t n (k + 1) (if plruHas ok (k + 1) c then c else 2 * i + (1 - right))

/-- The way to fill: an empty one, else the one that the tree selects among those not held. -/
def RimSet.victim (r : RimSet) : Nat :=
  match (List.range 16).find? fun w => (r.ways.getD w none).isNone with
  | some w => w
  | none => plruWalk (fun w => match r.ways.getD w none with | some l => !l.held | none => true) r.plru 4 0 0

/-- Mark the line's way used. -/
def Memory.rimTouch (m : Memory) (a : Nat) : Memory :=
  match (m.rimAt a).find a with
  | some w => { m with rim := kput m.rim (rimKey a) { m.rimAt a with plru := plruTouch (m.rimAt a).plru w } }
  | none => m

/-- Held lines of the set of address `a` (R194). -/
def Memory.heldCount (m : Memory) (a : Nat) : Nat :=
  ((m.rimAt a).ways.filter fun w => match w with | some l => l.held | none => false).length

/-! ## The unit map -/

/-- The entry of unit `u`; none where the unit is unbacked (R168). -/
def Memory.entry (m : Memory) (u : Nat) : Option UnitEntry := kget m.map u

/-- Write an entry: both copies change and every translation cache drops the unit (R170, R171). A slice without a leaf gets
the first free piece of the copies behind the directory's (R169, log 11). -/
def Memory.setEntry (m : Memory) (u : Nat) (e : UnitEntry) : Memory :=
  { m with
    map := kput m.map u e
    leaves := if (kget m.leaves (u / 65536)).isSome then m.leaves
      else kput m.leaves (u / 65536) (leastFree (0 :: m.leaves.map Prod.snd))
    utc := m.utc.map fun d => (d.1, d.2.filter (· != u)) }

/-- Both copies of the unit's map line are uncorrectable, and the unit has not been unmapped and mapped again since (R170). -/
def Memory.mapBad (m : Memory) (u : Nat) : Bool :=
  m.badA.contains (u / 8) && m.badB.contains (u / 8) && !m.remapped.contains u

/-- A lookup leaves the unit in the translation cache of a die, 16,384 entries (R171). -/
def Memory.translate (m : Memory) (die u : Nat) : Memory :=
  let l := (kget m.utc die).getD []
  if l.contains u then m else { m with utc := kput m.utc die ((l ++ [u]).drop (l.length + 1 - 16384)) }

/-- Frames of one copy of the unit map (Table 6.3). -/
def mapCopyFrames : Nat := 49152

/-- The line at place `p` of a copy of the map: the group of eight units that it holds, none for a line of the directory or
of no leaf (R169). -/
def Memory.groupAt (m : Memory) (p : Nat) : Option Nat :=
  (m.leaves.find? fun l => l.2 == p / 8192).map fun l => 8192 * l.1 + p % 8192

/-- A line of a near-tier frame that lies in a unit-map copy: whether it is copy B, and the group of eight units that it
holds (Table 6.3, R170). -/
def Memory.mapLine (m : Memory) (tier frame line : Nat) : Option (Bool × Nat) :=
  if tier = 0 ∧ nearFrames ≤ frame ∧ frame < nearFrames + 2 * mapCopyFrames then
    let k := frame - nearFrames
    (m.groupAt (1024 * (k % mapCopyFrames) + line)).map fun g => (decide (mapCopyFrames ≤ k), g)
  else none

/-- A line of a unit-map copy turns out uncorrectable (R170). -/
def Memory.mapLineBad (m : Memory) (copyB : Bool) (g : Nat) : Memory :=
  if copyB then { m with badB := if m.badB.contains g then m.badB else m.badB ++ [g] }
  else { m with badA := if m.badA.contains g then m.badA else m.badA ++ [g] }

/-- Device address of the line of copy A that a lookup of a unit reads: that of its entry, or where its slice has no leaf that
of the slice's directory entry (R169, log 11). -/
def Memory.mapAddr (m : Memory) (u : Nat) : Nat :=
  match kget m.leaves (u / 65536) with
  | some k => deviceRegion + 64 * (8192 * k + u / 8 % 8192)
  | none => deviceRegion + 64 * (u / 65536 / 8)

/-- A reader of a unit's map line: copy A, or where that is uncorrectable copy B, from which copy A is rewritten (R170). What
the code of each copy says comes with the read. -/
def Memory.readMap (m : Memory) (u : Nat) (ea eb : Bool) : Memory :=
  let g := u / 8
  let m := if ea then m.mapLineBad false g else m
  if m.badA.contains g then
    let m := if eb then m.mapLineBad true g else m
    if m.badB.contains g then m else { m with badA := m.badA.filter (· != g) }
  else m

/-- The map line of a unit just mapped is written in both copies: a copy that could be read is whole again, and where neither
could be the unit alone is usable, until all eight are (R170). -/
def Memory.mendMap (m : Memory) (u : Nat) : Memory :=
  let g := u / 8
  if m.badA.contains g && m.badB.contains g then
    let r := if m.remapped.contains u then m.remapped else m.remapped ++ [u]
    if (List.range 8).all fun i => r.contains (8 * g + i) then
      { m with badA := m.badA.filter (· != g), badB := m.badB.filter (· != g), remapped := r.filter fun v => v / 8 != g }
    else { m with remapped := r }
  else { m with badA := m.badA.filter (· != g), badB := m.badB.filter (· != g) }

/-- The 8 bytes of an entry (Table 6.4). -/
def UnitEntry.bytes (e : UnitEntry) : Bytes :=
  pack 8 [(0, 0, 1, 1), (0, 1, 2, e.tier), (0, 3, 28, e.frame), (0, 31, 24, e.touch), (0, 55, 3, e.tcnt), (0, 58, 1, b2n e.pin),
    (0, 59, 1, b2n e.nopromo), (0, 60, 1, b2n e.dfail), (0, 61, 1, b2n e.busy), (0, 62, 1, b2n e.cached)]

/-- The entry that 8 bytes spell; none where `VALID` is 0. -/
def entryOf (b : Bytes) : Option UnitEntry :=
  if fld b 0 0 1 = 1 then
    some ⟨fld b 0 1 2, fld b 0 3 28, fld b 0 31 24, fld b 0 55 3, fld b 0 58 1 == 1, fld b 0 59 1 == 1, fld b 0 60 1 == 1,
      fld b 0 61 1 == 1, fld b 0 62 1 == 1⟩
  else none

/-- Slices of 4 GiB that hold a backed unit: those that have a leaf (R169). -/
def Memory.slices (m : Memory) : List Nat := (m.map.map fun e => e.1 / 65536).dedup

/-- The map entry of a unit as software reads it: all zeros where it is unbacked (Table 6.4). -/
def Memory.entryBytes (m : Memory) (u : Nat) : Bytes :=
  match m.entry u with | some e => e.bytes | none => List.replicate 8 0

/-! ## Frames -/

/-- Frames of a tier that are taken: by units, by decants under way, by cellar caches (R179, R181, R186). -/
def Memory.usedFrames (m : Memory) (tier : Nat) : List Nat :=
  (m.map.filterMap fun e => if e.2.tier = tier then some e.2.frame else none)
    ++ (m.decants.filterMap fun d => if d.toTier = tier then some d.frame else none)
    ++ (if tier = 0 then (m.caches.flatMap fun c => c.2.map CacheFrame.frame) ++ (m.cacheFree.flatMap fun c => c.2) else [])

/-- Frames of a tier. -/
def Memory.totalFrames (m : Memory) (tier : Nat) : Nat :=
  match tier with | 0 => nearFrames | 1 => m.cellarFrames | _ => m.hostFrames

/-- Free frames of a tier. -/
def Memory.freeFrames (m : Memory) (tier : Nat) : Nat := m.totalFrames tier - (m.usedFrames tier).length

/-- The first tier at or below `tier` with a free frame (R327, R465). -/
def Memory.tierWithRoom (m : Memory) (tier : Nat) : Option Nat :=
  [0, 1, 2].find? fun t => decide (tier ≤ t) && decide (0 < m.freeFrames t)

/-! ## Contents -/

/-- Where offset `off` of frame `f` of a tier lies in that tier's store. -/
def Memory.place (m : Memory) (tier f off : Nat) : Nat :=
  if tier = 2 then hostAddr m.extents f + off else unitBytes * f + off

def Memory.tierRead (m : Memory) (tier f off n : Nat) : Bytes :=
  mread (match tier with | 0 => m.near | 1 => m.cellar | _ => m.hostTier) (m.place tier f off) n

def Memory.tierWrite (m : Memory) (tier f off : Nat) (b : Bytes) : Memory :=
  match tier with
  | 0 => { m with near := mwrite m.near (m.place 0 f off) b }
  | 1 => { m with cellar := mwrite m.cellar (m.place 1 f off) b }
  | _ => { m with hostTier := mwrite m.hostTier (m.place 2 f off) b }

/-- Clear a frame, its uncorrectable lines included: a newly backed unit reads as zero (R164). -/
def Memory.clearFrame (m : Memory) (tier f : Nat) : Memory :=
  let notIn := fun k => decide (k < 1024 * f ∨ 1024 * (f + 1) ≤ k)
  match tier with
  | 0 => { m with near := mclear m.near (m.place 0 f 0) unitBytes, badNear := m.badNear.filter notIn }
  | 1 => { m with cellar := mclear m.cellar (m.place 1 f 0) unitBytes, badCellar := m.badCellar.filter notIn }
  | _ => { m with hostTier := mclear m.hostTier (m.place 2 f 0) unitBytes }

/-- Whether a line of a frame is uncorrectable (R192). -/
def Memory.lineBad (m : Memory) (tier f l : Nat) : Bool :=
  match tier with | 0 => m.badNear.contains (1024 * f + l) | 1 => m.badCellar.contains (1024 * f + l) | _ => false

/-- Mark a line of a frame uncorrectable, or good again. -/
def Memory.setLineBad (m : Memory) (tier f l : Nat) (bad : Bool) : Memory :=
  let k := 1024 * f + l
  let upd := fun (x : List Nat) => if bad then (if x.contains k then x else x ++ [k]) else x.filter (· != k)
  match tier with
  | 0 => { m with badNear := upd m.badNear }
  | 1 => { m with badCellar := upd m.badCellar }
  | _ => m

/-- The entry that answers for a line: the unit's, or for the device region its fixed near frame (R165, log 11). -/
def Memory.homeOf (m : Memory) (a : Nat) : Option UnitEntry :=
  if deviceRegion ≤ a then some ⟨0, nearFrames + (a - deviceRegion) / unitBytes, 0, 0, false, true, false, false, false⟩
  else m.entry (a / unitBytes)

/-! ## The cellar cache (R186, R187): sets of a partition by 8 x set + partition, frames most recent first -/

/-- The partition, key and frame of the cache that holds unit `u`. -/
def Memory.cacheOf (m : Memory) (u : Nat) : Option (Nat × CacheFrame) :=
  match m.caches.find? fun c => c.2.any fun x => x.unit == u with
  | some c => (c.2.find? fun x => x.unit == u).map fun x => (c.1, x)
  | none => none

/-- The frame that holds sector `sec` of unit `u`, where it is present. -/
def Memory.sectorFrame (m : Memory) (u sec : Nat) : Option Nat :=
  match m.cacheOf u with
  | some (_, x) => if x.valid.contains sec then some x.frame else none
  | none => none

/-- Change the cache frame of unit `u`. -/
def Memory.modCache (m : Memory) (u : Nat) (f : CacheFrame → CacheFrame) : Memory :=
  match m.cacheOf u with
  | some (k, _) => { m with caches := kmod m.caches k fun l => l.map fun x => if x.unit == u then f x else x }
  | none => m

/-- Tier and frame that answer for the line of address `a` of a backed unit: a present sector's frame, else home. -/
def Memory.source (m : Memory) (a : Nat) (e : UnitEntry) : Nat × Nat :=
  if e.tier = 1 then
    match m.sectorFrame (a / unitBytes) (lineLoc a) with
    | some f => (0, f)
    | none => (1, e.frame)
  else (e.tier, e.frame)

/-- The 64 bytes below the rim cache for the line of address `a`. -/
def Memory.lineBelow (m : Memory) (a : Nat) (e : UnitEntry) : Bytes :=
  m.tierRead (m.source a e).1 (m.source a e).2 (a % unitBytes / 64 * 64) 64

/-- Whether that line is uncorrectable. -/
def Memory.badBelow (m : Memory) (a : Nat) (e : UnitEntry) : Bool :=
  m.lineBad (m.source a e).1 (m.source a e).2 (a % unitBytes / 64)

/-- Write a whole line below the rim cache: to a present sector, which becomes dirty, else to the home tier; the line
is then under a valid code (R187, R192). -/
def Memory.storeBelow (m : Memory) (a : Nat) (e : UnitEntry) (b : Bytes) : Memory :=
  let p := m.source a e
  let n := (m.tierWrite p.1 p.2 (a % unitBytes / 64 * 64) b).setLineBad p.1 p.2 (a % unitBytes / 64) false
  if e.tier = 1 ∧ p.1 = 0 then
    n.modCache (a / unitBytes) fun x => { x with dirty := if x.dirty.contains (lineLoc a) then x.dirty else x.dirty ++ [lineLoc a] }
  else n

/-- Write back a line of a cache frame to the cellar frame: a line that cannot be read fails there too (R192, log 11). -/
def Memory.flushLine (m : Memory) (frame home : Nat) (l : Nat) : Memory :=
  (m.tierWrite 1 home (64 * l) (m.tierRead 0 frame (64 * l) 64)).setLineBad 1 home l (m.lineBad 0 frame l)

/-- Write back the dirty sectors of a cache frame to the unit's cellar frame. -/
def Memory.flushSectors (m : Memory) (x : CacheFrame) (home : Nat) : Memory :=
  x.dirty.foldl (fun m sec => (List.range 64).foldl (fun m l => m.flushLine x.frame home (64 * sec + l)) m) m

/-- Empty a unit from its cache: dirty sectors back to the cellar, the frame free again, `CACHED` clear (R187). -/
def Memory.uncache (m : Memory) (u : Nat) : Memory :=
  match m.cacheOf u, m.entry u with
  | some (k, x), some e =>
    let n := m.flushSectors x e.frame
    let n := { n with
      caches := kmod n.caches k fun l => l.filter fun y => y.unit != u
      cacheFree := kput n.cacheFree (k % 8) ((kget n.cacheFree (k % 8)).getD [] ++ [x.frame]) }
    n.setEntry u { e with cached := false }
  | _, _ => m

/-- Drop a unit from its cache without writing back: the unit is unmapped (R187). -/
def Memory.dropCache (m : Memory) (u : Nat) : Memory :=
  match m.cacheOf u with
  | some (k, x) => { m with
      caches := kmod m.caches k fun l => l.filter fun y => y.unit != u
      cacheFree := kput m.cacheFree (k % 8) ((kget m.cacheFree (k % 8)).getD [] ++ [x.frame]) }
  | none => m

/-- Allocate unit `u` in the cache of partition `p` with `S` sets: a free frame of the partition, or the least recent
of the set after its dirty sectors are written back (R186). -/
def Memory.allocCache (m : Memory) (p S u : Nat) : Memory :=
  let key := 8 * (u % S) + p
  let set := (kget m.caches key).getD []
  let m := if set.length < 8 then m else match set.getLast? with | some old => m.uncache old.unit | none => m
  match (kget m.cacheFree p).getD [], m.entry u with
  | f :: fs, some e =>
    let m := m.clearFrame 0 f
    let m := { m with
      cacheFree := kput m.cacheFree p fs
      caches := kput m.caches key (⟨u, f, [], []⟩ :: (kget m.caches key).getD []) }
    m.setEntry u { e with cached := true }
  | _, _ => m

/-- A tile of partition `p` reads a cellar-homed unit: it is allocated where it lies in no cache, its missing sector is
filled from the cellar unless a line of it is uncorrectable, and its frame becomes the most recent of the set (R187). -/
def Memory.cacheRead (m : Memory) (p quota a : Nat) (e : UnitEntry) : Memory :=
  let u := a / unitBytes
  let whole := (List.range 64).all fun l => !(m.lineBad 1 e.frame (64 * lineLoc a + l))
  if e.tier = 1 ∧ 8 ≤ quota ∧ whole then
    let m := if (m.cacheOf u).isNone then m.allocCache p (quota / 8) u else m
    match m.cacheOf u with
    | some (k, x) =>
      let m := if k % 8 = p ∧ !(x.valid.contains (lineLoc a)) then
          (m.tierWrite 0 x.frame (4096 * lineLoc a) (m.tierRead 1 e.frame (4096 * lineLoc a) 4096)).modCache u
            fun y => { y with valid := y.valid ++ [lineLoc a] }
        else m
      { m with caches := kmod m.caches k fun l => (l.filter fun y => y.unit == u) ++ l.filter fun y => y.unit != u }
    | none => m
  else m

/-! ## Filling and emptying the rim cache -/

/-- Evict a line: a dirty one is written below; lines of host-tier units go with the CXL.cache request of
Table 14.5, `DirtyEvict` or `CleanEvictNoData`. The second component is that request. -/
def Memory.evict (m : Memory) (l : RimLine) : Memory × List (Nat × Nat) :=
  let a := 64 * l.line
  match m.homeOf a with
  | some e =>
    let m' := if l.dirty then m.storeBelow a e l.data else m
    (m', if e.tier = 2 then [(if l.dirty then 3 else 4, l.line)] else [])
  | none => (m, [])

/-- Allocate a line, evicting what its way held (R172). -/
def Memory.allocLine (m : Memory) (a : Nat) (l : RimLine) : Memory × List (Nat × Nat) :=
  let w := match (m.rimAt a).find a with | some w => w | none => (m.rimAt a).victim
  let out := match (m.rimAt a).ways.getD w none with
    | some old => if old.line = l.line then (m, []) else m.evict old
    | none => (m, [])
  ((out.1.rimPut a w (some l)).rimTouch a, out.2)

/-- Drop the lines of unit `u` without writing back. -/
def Memory.dropLines (m : Memory) (u : Nat) : Memory :=
  { m with rim := m.rim.map fun r => (r.1, { r.2 with ways := r.2.ways.map fun w =>
      match w with | some l => if l.line / 1024 = u then none else some l | none => none }) }

/-- The rim lines of unit `u`. -/
def Memory.linesOf (m : Memory) (u : Nat) : List RimLine :=
  m.rim.flatMap fun r => r.2.ways.filterMap fun w => match w with
    | some l => if l.line / 1024 = u then some l else none
    | none => none

/-- Write every dirty line of unit `u` below and leave it clean (Table 6.6, step 2). -/
def Memory.cleanLines (m : Memory) (u : Nat) (e : UnitEntry) : Memory :=
  let n := ((m.linesOf u).filter fun l => l.dirty && !l.held).foldl (fun m l => m.storeBelow (64 * l.line) e l.data) m
  { n with rim := n.rim.map fun r => (r.1, { r.2 with ways := r.2.ways.map fun w =>
      match w with | some l => if l.line / 1024 = u && !l.held then some { l with dirty := false } else some l | none => none }) }

/-! ## Reading without a trace -/

/-- The byte that a read of device address `a` returns: the rim cache's line, else what lies below (R173); none where
the unit is unbacked or the line uncorrectable. -/
def Memory.viewLine (m : Memory) (a : Nat) : Option Bytes :=
  match m.rimLine a with
  | some l => if l.held then none else some l.data
  | none =>
    if deviceRegion ≤ a then some (m.tierRead 0 (nearFrames + (a - deviceRegion) / unitBytes) (a % unitBytes / 64 * 64) 64)
    else match m.entry (a / unitBytes) with
      | some e => if m.mapBad (a / unitBytes) || m.badBelow a e then none else some (m.lineBelow a e)
      | none => none

/-- `n` bytes from device address `a`, line by line. -/
def Memory.viewLines (m : Memory) (a : Nat) : Nat → Option Bytes
  | 0 => some []
  | k + 1 =>
    match m.viewLine a, m.viewLines (a + 64) k with
    | some x, some y => some (x ++ y)
    | _, _ => none

/-- `n` bytes from any device address. -/
def Memory.view (m : Memory) (a n : Nat) : Option Bytes :=
  if n = 0 then some []
  else (m.viewLines (a / 64 * 64) ((a % 64 + n + 63) / 64)).map fun b => slice b (a % 64) n

/-! ## Touches (R176, R177) -/

/-- A touch: `TOUCH` takes the low 24 bits of the age tick; `TCNT` of an unpinned unit on a lower tier rises when `TOUCH` changes. -/
def UnitEntry.touched (e : UnitEntry) (age : Nat) : UnitEntry :=
  { e with
    touch := age % 2 ^ 24
    tcnt := if e.touch ≠ age % 2 ^ 24 ∧ e.pin = false ∧ e.tier ≠ 0 then min 7 (e.tcnt + 1) else e.tcnt }

/-- A unit's age, never read above the cap of R176. -/
def UnitEntry.age (e : UnitEntry) (now : Nat) : Nat := min ((now % 2 ^ 24 + 2 ^ 24 - e.touch) % 2 ^ 24) 8388607

/-- Age bin (R177). -/
def ageBin (age : Nat) : Nat := if age ≤ 1 then 0 else Nat.log2 age

/-! ## Backing and releasing units -/

/-- The entry of a unit just backed (R164). -/
def newEntry (tier frame age : Nat) (nopromo : Bool) : UnitEntry where
  tier := tier
  frame := frame
  touch := age % 2 ^ 24
  tcnt := 0
  pin := false
  nopromo := nopromo
  dfail := false
  busy := false
  cached := false

/-- Back unit `u` with frame `f` of a tier: it reads as zero (R164), and its map line is written (R170). -/
def Memory.back (m : Memory) (u tier f age : Nat) (nopromo : Bool) : Memory :=
  (((m.clearFrame tier f).dropLines u).setEntry u (newEntry tier f age nopromo)).mendMap u

/-- Release unit `u`: its lines and cache sectors are dropped, its frame is free (R187, R195). -/
def Memory.unback (m : Memory) (u : Nat) : Memory :=
  let m := (m.dropCache u).dropLines u
  { m with
    map := kdel m.map u
    leaves := if m.map.any fun e => e.1 / 65536 == u / 65536 && e.1 != u then m.leaves else kdel m.leaves (u / 65536)
    utc := m.utc.map fun d => (d.1, d.2.filter (· != u))
    filter := m.filter.map fun d => (d.1, d.2.filter fun l => l / 1024 != u) }

/-- Units that some reference pins (R184). -/
def State.pinnedUnits (s : State) : List Nat := (s.mem.tmiPins ++ s.parts.flatMap fun p => p.2.pins).dedup

/-- Units that loads and swaps in progress are to pin (R159, R184). -/
def State.reservedPins (s : State) : List Nat :=
  s.parts.flatMap fun e => match e.2.job with
    | some j => (match j.res with | some r => r.pins | none => [])
    | none => []

/-- `PIN` of a unit follows the references that remain (R184). -/
def State.refreshPin (s : State) (u : Nat) : State :=
  match s.mem.entry u with
  | some e => { s with mem := s.mem.setEntry u { e with pin := s.pinnedUnits.contains u } }
  | none => s

/-- Largest number of pinned units: 75 % of the near tier (R184). -/
def pinLimit : Nat := 12582912

/-- A free frame of a tier: any of the free ones (log 5). -/
def State.freeFrame (s : State) (tier : Nat) : Nat := s.chooseFree (s.mem.totalFrames tier) (s.mem.usedFrames tier)

/-! ## Demotion marks (R178, R179) -/

/-- The low mark of a tier (R178). -/
def Cfg.low (c : Cfg) (tier : Nat) : Nat := if tier = 0 then c.nearLow else c.celLow

/-- The high mark of a tier. -/
def Cfg.high (c : Cfg) (tier : Nat) : Nat := if tier = 0 then c.nearHigh else c.celHigh

/-- Whether a tier demotes: it begins when its free frames fall below the low mark, and ends when they reach the high one. -/
def State.demoteOn (s : State) (tier : Nat) (was : Bool) : Bool :=
  decide (s.mem.freeFrames tier < s.cfg.low tier) || (was && decide (s.mem.freeFrames tier < s.cfg.high tier))

/-- Frames have been taken or freed, or the marks moved: whether each tier demotes now (R179). -/
def State.marks (s : State) : State :=
  { s with mem := { s.mem with demNear := s.demoteOn 0 s.mem.demNear, demCellar := s.demoteOn 1 s.mem.demCellar } }

/-! ## Decants (R181) -/

/-- Send CXL.cache requests: request name code of Table 14.5 and line. -/
def State.cxlCache (s : State) (l : List (Nat × Nat)) : State :=
  { s with out := { s.out with cxlCache := s.out.cxlCache ++ l } }

/-- Lines of unit `u` that the host-tracking filters hold (R409). -/
def State.trackedLines (s : State) (u : Nat) : List Nat := s.mem.filter.flatMap fun d => d.2.filter fun l => l / 1024 == u

/-- Start a decant of unit `u` to a tier: a free frame is taken, `BUSY` is set in both copies, and tracked lines are
called back (Table 6.6, steps 1 and 2; R409). -/
def State.startDecant (s : State) (u toTier : Nat) : State :=
  match s.mem.entry u with
  | some e =>
    let f := s.freeFrame toTier
    let m := s.mem.setEntry u { e with busy := true }
    let ls := s.trackedLines u
    State.marks { s.used with
      mem := { m with
        decants := m.decants ++ [⟨u, toTier, f, []⟩]
        biWait := m.biWait ++ ls.map fun l => (l, true, ⟨.decant, 3, 64 * l, .read⟩) }
      out := { s.out with biSnp := s.out.biSnp ++ ls.map fun l => (true, l) } }
  | none => s

/-- Decants in progress on the engine of unit `u`'s die (R181). -/
def Memory.engineLoad (m : Memory) (u : Nat) : Nat := (m.decants.filter fun d => d.unit % 4 == u % 4).length

/-- Whether a touch of unit `u` starts its promotion (R180, R181). -/
def State.promotes (s : State) (u : Nat) (e : UnitEntry) : Bool :=
  decide (0 < e.tier ∧ 0 < s.cfg.promote ∧ s.cfg.promote ≤ e.tcnt ∧ s.cfg.low (e.tier - 1) < s.mem.freeFrames (e.tier - 1)
    ∧ s.mem.engineLoad u < 32) && !e.nopromo && !e.dfail && !e.busy && (s.life.dev = .opened)

/-- A touch of a unit, and the promotion that it may start (R176, R180). A touch that changes the entry invalidates it in
the translation caches (R171). -/
def State.touchUnit (s : State) (u : Nat) : State :=
  match s.mem.entry u with
  | some e =>
    let e' := e.touched s.clk.age
    let t := if e' = e then s else { s with mem := s.mem.setEntry u e' }
    if s.promotes u e' then t.startDecant u (e.tier - 1) else t
  | none => s

/-- Copy 64 KiB from frame to frame, uncorrectable lines apart, which end a decant before this. -/
def Memory.copyFrame (m : Memory) (t0 f0 t1 f1 : Nat) : Memory :=
  (m.clearFrame t1 f1).tierWrite t1 f1 0 (m.tierRead t0 f0 0 unitBytes)

/-- Whether the rim cache holds a line of unit `u` that step 2 of a decant cannot write back (R194). -/
def Memory.stuck (m : Memory) (u : Nat) : Bool := (m.linesOf u).any fun l => l.held

/-- Steps 2 and 3 of Table 6.6: dirty rim lines go to the source frame, dirty cache sectors too, and the unit leaves its
cache. -/
def Memory.gather (m : Memory) (u : Nat) (e : UnitEntry) : Memory := (m.cleanLines u e).uncache u

/-- Whether a decant of unit `u` meets uncorrectable data in step 2, or in step 4 in what steps 2 and 3 leave (R192, R194). -/
def Memory.decantBad (m : Memory) (u : Nat) (e : UnitEntry) : Bool :=
  m.stuck u || (List.range 1024).any fun l => (m.gather u e).lineBad e.tier e.frame l

/-- Requests of a decant that touches the host tier: `RdCurr` per line not held, or `ItoMWr` per line (Table 14.5). -/
def Memory.decantRequests (m : Memory) (u fromTier toTier : Nat) : List (Nat × Nat) :=
  if fromTier = 2 then (List.range 1024).filterMap fun l =>
      if (m.rimLine (64 * (1024 * u + l))).isSome then none else some (5, 1024 * u + l)
  else if toTier = 2 then (List.range 1024).map fun l => (6, 1024 * u + l)
  else []

/-- Lines of a unit that leaves the host tier are held no longer under CXL.cache ownership (R174). -/
def Memory.disown (m : Memory) (u : Nat) : Memory :=
  { m with rim := m.rim.map fun r => (r.1, { r.2 with ways := r.2.ways.map fun w =>
      match w with | some l => if l.line / 1024 = u then some { l with owned := false } else some l | none => none }) }

/-- Steps 2 to 6 of Table 6.6 for a decant that meets no uncorrectable data: dirty rim lines and cache sectors go to
the source frame, 64 KiB are copied, the map names the new home, `TCNT` is 0, the source frame is free. -/
def Memory.moveUnit (m : Memory) (d : Decant) (e : UnitEntry) : Memory :=
  let m := ((m.gather d.unit e).copyFrame e.tier e.frame d.toTier d.frame).disown d.unit
  { m.setEntry d.unit { e with tier := d.toTier, frame := d.frame, tcnt := 0, busy := false, cached := false } with
    decants := m.decants.filter fun x => x.unit != d.unit }

/-- A decant abandoned before step 5: the unit stays, `DFAIL` is set, `BUSY` cleared, the destination frame is free. Where
step 2 could write every line back, steps 2 and 3 stand (R192). -/
def Memory.abandon (m : Memory) (u : Nat) (e : UnitEntry) : Memory :=
  let n := if m.stuck u then m else m.gather u e
  { n.setEntry u { e with dfail := true, busy := false, cached := e.cached && m.stuck u } with
    decants := m.decants.filter fun x => x.unit != u }

/-! ## Units to demote (R179) -/

/-- Whether a unit may be demoted from a tier. -/
def UnitEntry.eligible (e : UnitEntry) (tier : Nat) : Bool := e.tier == tier && !e.pin && !e.dfail && !e.busy

/-- The unit to demote from a tier: of the eligible ones in the oldest age bin, the next in unit number after the one
last selected, wrapping (R179). -/
def State.victim (s : State) (tier : Nat) : Option Nat :=
  let es := s.mem.map.filter fun e => e.2.eligible tier
  let top := (es.map fun e => ageBin (e.2.age s.clk.age)).foldl max 0
  let c := es.filter fun e => ageBin (e.2.age s.clk.age) == top
  let last := if tier = 0 then s.mem.lastNear else s.mem.lastCellar
  match last.bind fun l => c.find? fun e => decide (l < e.1) with
  | some e => some e.1
  | none => c.head?.map Prod.fst

/-- Remember the unit last selected for demotion in a tier. -/
def State.selected (s : State) (tier u : Nat) : State :=
  { s with mem := if tier = 0 then { s.mem with lastNear := some u } else { s.mem with lastCellar := some u } }

end Sys2Proof.Machine
end

