-- ==== Sys2Proof/Machine/ServeOps.lean ====
section
/-! DEFINITION. The serving engine's shared operations: output records and their room, pages, the prefix table, the end of a request. -/

namespace Sys2Proof.Machine

/-! ## Status codes of Table 7.4 -/

def svLimit : Nat := 0x0000
def svEnded : Nat := 0x0001
def svCancelled : Nat := 0x0002
def svDeadline : Nat := 0x0003
def svSwapped : Nat := 0x0004
def svDesc : Nat := 0x0010
def svSlotEmpty : Nat := 0x0011
def svNotLeader : Nat := 0x0012
def svKey : Nat := 0x0013
def svShape : Nat := 0x0014
def svTable : Nat := 0x0015
def svHandoffBusy : Nat := 0x0016
def svAborted : Nat := 0x0020
def svData : Nat := 0x0021
def svNar : Nat := 0x0022
def svResult : Nat := 0x0023
def svPool : Nat := 0x0024
def svPeer : Nat := 0x0025
def svReset : Nat := 0x0026
def svStale : Nat := 0x0027
def svGeometry : Nat := 0x0028
def svRing : Nat := 0x0029
def svHost : Nat := 0x002A
def svPausedHost : Nat := 0x0030
def svPausedSwap : Nat := 0x0031

/-! ## Pages (R214) -/

/-- Key of a page of partition `p`. -/
def pageKey (p page : Nat) : Nat := 2 ^ 24 * p + page

/-- Pages of partition `p` that are not `FREE`. -/
def Serving.usedPages (v : Serving) (p : Nat) : List Nat :=
  (v.pages.filter fun e => e.1 / 2 ^ 24 == p).map fun e => e.1 % 2 ^ 24

/-- Free pages of a pool. -/
def Serving.freePages (v : Serving) (p pool : Nat) : Nat := pool - (v.usedPages p).length

/-- One reference more. -/
def Serving.retain (v : Serving) (p page : Nat) : Serving :=
  { v with pages := kput v.pages (pageKey p page) (match kget v.pages (pageKey p page) with
      | some x => { x with count := x.count + 1 }
      | none => ⟨1, false, false⟩) }

/-- One reference less: at 0 the page returns to its free list, unless it is `RETIRED` or stranded (R214, R226). -/
def Serving.release (v : Serving) (p page : Nat) : Serving :=
  match kget v.pages (pageKey p page) with
  | some x =>
    if x.count ≤ 1 ∧ x.retired = false ∧ x.stranded = false then { v with pages := kdel v.pages (pageKey p page) }
    else { v with pages := kput v.pages (pageKey p page) { x with count := x.count - 1 } }
  | none => v

/-- Release a list of pages. -/
def Serving.releaseAll (v : Serving) (p : Nat) (l : List Nat) : Serving := l.foldl (fun v g => v.release p g) v

/-- Allocate a free page of the pool, any of them (log 5). -/
def State.allocPage (s : State) (p pool : Nat) : Nat × State :=
  let g := s.chooseFree pool (s.srv.usedPages p)
  (g, { s.used with srv := s.srv.retain p g })

/-- Allocate `n` pages. -/
def State.allocPages (s : State) (p pool : Nat) : Nat → List Nat × State
  | 0 => ([], s)
  | n + 1 =>
    let r := s.allocPage p pool
    let q := r.2.allocPages p pool n
    (r.1 :: q.1, q.2)

/-! ## The prefix table (R218 to R221) -/

/-- The partition bound to a model slot. -/
def State.partOfSlot (s : State) (slot : Nat) : Option (Nat × Partition) :=
  (s.parts.find? fun e => e.2.slot == slot).map fun e => e

/-- D of block −1: slot, prefix epoch, zeros (R218). -/
def chainStart (slot epoch : Nat) : Bytes := le 16 (slot + 256 * epoch)

/-- The digest of a block of 64 tokens after the digest `d` (R218). -/
def blockDigest (key : Nat) (d : Bytes) (tokens : List Nat) : Bytes :=
  kmac256 (le 32 key) (d ++ tokens.flatMap fun t => le 4 t) (ascii "PQT-PFX") 16

/-- The prefix epoch of a slot. -/
def Serving.epochOf (v : Serving) (slot : Nat) : Nat := (kget v.epochs slot).getD 0

/-- The set of a digest: D[16:0], of the digest read little-endian (R221; log 21). -/
def pfxSet (d : Bytes) : Nat := ofLe d % 131072

/-- The way of a set that matches digest, key index, slot and epoch (R221). -/
def Serving.pfxFind (v : Serving) (d : Bytes) (tkey slot : Nat) : Option Nat :=
  (List.range 8).find? fun w => match kget v.pfx (8 * pfxSet d + w) with
    | some e => e.digest.toNat == ofLe d && e.tkey == tkey && e.slot == slot && e.epoch == v.epochOf slot
    | none => false

/-- The on-chip cache takes an entry looked up or written, 32,768 at most (R196, R221). -/
def Serving.pfxCached (v : Serving) (k : Nat) : Serving :=
  if v.pfxCache.contains k then v else { v with pfxCache := (v.pfxCache ++ [k]).drop (v.pfxCache.length + 1 - 32768) }

/-- Remove the entry under a key and release its page in partition `p`. -/
def Serving.pfxRemove (v : Serving) (p k : Nat) : Serving :=
  match kget v.pfx k with
  | some e => ({ v with pfx := kdel v.pfx k, pfxCache := v.pfxCache.filter (· != k) }).release p e.page
  | none => v

/-- The entry under a key goes, and its page with it. -/
def State.pfxPurgeKey (s : State) (k : Nat) : State :=
  { s with srv := match (kget s.srv.pfx k).bind fun e => s.partOfSlot e.slot with
    | some q => s.srv.pfxRemove q.1 k
    | none => { s.srv with pfx := kdel s.srv.pfx k, pfxCache := s.srv.pfxCache.filter (· != k) } }

/-- Remove the entries that a test names; a page goes back to the pool of its slot's partition. -/
def State.pfxPurge (s : State) (pred : PfxEntry → Bool) : State :=
  (s.srv.pfx.filter fun e => pred e.2).foldl (fun s e => s.pfxPurgeKey e.1) s

/-- Whether the page of an entry has a count of 1, so that only the table holds it. -/
def Serving.soleRef (v : Serving) (p : Nat) (e : PfxEntry) : Bool :=
  match kget v.pages (pageKey p e.page) with | some x => x.count == 1 | none => false

/-- Whether a page that a prefix entry names is held by the table alone, in the pool of its slot's partition. -/
def State.soleEntry (s : State) (e : PfxEntry) : Bool :=
  match s.partOfSlot e.slot with
  | some q => s.srv.soleRef q.1 e
  | none => false

/-- How long ago an entry was last used, in ms (Table 7.13). -/
def PfxEntry.idle (e : PfxEntry) (now : Nat) : Nat := (now + 2 ^ 32 - e.lastUse) % 2 ^ 32

/-- The key whose entry has the oldest `LASTUSE` among those listed. -/
def oldestPfx (now : Nat) (l : List (Nat × PfxEntry)) : Option Nat :=
  (l.foldl (fun (b : Option (Nat × PfxEntry)) e => match b with
    | some x => if x.2.idle now < e.2.idle now then some e else some x
    | none => some e) none).map Prod.fst

/-- The way of a set that an insert takes: an invalid one first, else the one of oldest use, of whatever slot, whose page only
the table holds (R221). -/
def State.pfxWay (s : State) (set : Nat) : Option Nat :=
  let ways := (List.range 8).map fun w => 8 * set + w
  match ways.find? fun k => (kget s.srv.pfx k).isNone with
  | some k => some k
  | none => oldestPfx s.clk.age (ways.filterMap fun k => ((kget s.srv.pfx k).filter s.soleEntry).map fun e => (k, e))

/-- Insert a digest with a page (R220, R221): nothing where the digest is held or where no way is to be had. -/
def State.pfxInsert (s : State) (p tkey slot page : Nat) (d : Bytes) : State :=
  if (s.srv.pfxFind d tkey slot).isSome then s
  else match s.pfxWay (pfxSet d) with
    | some k =>
      let s := s.pfxPurgeKey k
      let v := s.srv
      { s with srv := ({ v with pfx := kput v.pfx k ⟨BitVec.ofNat 128 (ofLe d), page, tkey, slot, v.epochOf slot, s.clk.age⟩ }.retain p page).pfxCached k }
    | none => s

/-- Probe blocks from the first on: pages of the hits, the digest of the last block probed, the number of hits; a hit
raises the page's count and sets `LASTUSE` (R219). -/
def probe (p key tkey slot age : Nat) : Nat → Serving → Bytes → List Nat → List Nat × Bytes × Serving
  | 0, v, d, _ => ([], d, v)
  | n + 1, v, d, toks =>
    let d' := blockDigest key d (toks.take 64)
    match v.pfxFind d' tkey slot with
    | some w =>
      let k := 8 * pfxSet d' + w
      match kget v.pfx k with
      | some e =>
        let v' := ({ v with pfx := kput v.pfx k { e with lastUse := age } }.retain p e.page).pfxCached k
        let r := probe p key tkey slot age n v' d' (toks.drop 64)
        (e.page :: r.1, r.2.1, r.2.2)
      | none => ([], d', v)
    | none => ([], d', v)

/-- Rebuild a pool: every page `FREE`, every prefix entry of the slot gone, the slot's epoch one higher (R226, R235). -/
def State.rebuildPool (s : State) (p slot : Nat) : State :=
  let v := s.srv
  { s with srv := { v with
      pages := (v.pages.filter fun e => e.1 / 2 ^ 24 != p || e.2.retired).map fun (e : Nat × Page) =>
        (e.1, if e.1 / 2 ^ 24 = p then { e.2 with count := 0 } else e.2)
      pfx := v.pfx.filter fun e => e.2.slot != slot
      pfxCache := v.pfxCache.filter fun k => match kget v.pfx k with | some e => e.slot != slot | none => false
      epochs := kput v.epochs slot ((v.epochOf slot + 1) % 65536) } }

/-! ## Records (R197 to R199) -/

/-- An output record (Table 7.3). -/
def outRecord (tag ridx kind st token pos : Nat) : Bytes :=
  pack 16 [(0, 0, 32, tag), (4, 0, 13, ridx), (4, 13, 3, kind), (6, 0, 16, st), (8, 0, 32, token), (12, 0, 20, pos)]

/-- The CXL port that carries a serving ring: port 1 for rings 8 to 15 when the port is bifurcated (R396). -/
def State.ringPort (s : State) (ring : Nat) : Nat := if s.life.straps.cxlBif && 8 ≤ ring then 1 else 0

/-- Whether the link that carries a ring is up. -/
def State.ringLinked (s : State) (ring : Nat) : Bool := if s.ringPort ring = 1 then s.cxl.up1 else s.cxl.up0

/-- Records that requests hold reserved in an output ring (R199). -/
def State.reservedRoom (s : State) (ring : Nat) : Nat :=
  (s.srv.reqs.map fun e => if e.2.oring = ring then e.2.standing + e.2.room else 0).sum

/-- Records that an output ring can still take beyond what is reserved (R199). -/
def State.ringRoom (s : State) (ring : Nat) : Nat :=
  match kget s.srv.outs ring with
  | some r => 2 ^ r.log2n - 1 - (r.ptr + 2 ^ r.log2n - r.db) % 2 ^ r.log2n - s.reservedRoom ring
  | none => 0

/-- Raise a serving ring's vector on its port. -/
def State.ringVector (s : State) (ring vec : Nat) : State :=
  if s.ringPort ring = 1 then { s with out := { s.out with msix := s.out.msix ++ [(1, vec)] } } else s.msix vec

/-- The user of serving-engine transactions and requests that belong to no entry any more. -/
def engineUser : FabUser := .serving 8192

/-- What an entry has under way over the fabric goes on without it. -/
def Fabric.orphan (f : Fabric) (ridx : Nat) : Fabric :=
  let un := fun (u : FabUser) => match u with
    | .serving r | .shard r _ => if r = ridx then engineUser else u
    | .stream _ _ _ _ _ | .firmware | .barrier _ => u
  let req := fun (r : FabReq) => { r with user := un r.user }
  { f with
    txs := f.txs.map fun (t : FabTx) => { t with user := un t.user }
    waiting := f.waiting.map req
    holds := f.holds.map fun (h : Nat × List FabReq) => (h.1, h.2.map req)
    genHeld := f.genHeld.map fun (h : Nat × FabReq) => (h.1, req h.2) }

/-- Remove an entry: its page references are released, a handoff of it ends here (R201, R206). -/
def State.freeReq (s : State) (ridx : Nat) : State :=
  match kget s.srv.reqs ridx with
  | some r =>
    let v := s.srv.releaseAll r.part r.pages
    { s with fab := s.fab.orphan ridx, srv := { v with
        reqs := kdel v.reqs ridx
        handoffs := v.handoffs.filter fun h => h.ridx != ridx
        ship := v.ship.filter fun h => h.ridx != ridx
        allot := kdel v.allot ridx } }
  | none => s

/-- A failed write stops an output ring: `STOPPED`, the notice, every entry that names it becomes `FREE` without a
record, descriptors that name it are dropped, one `SERVICE` record gives both counts (R201). While the device corks in
service, the `FINAL` records so lost are counted (R382). -/
def State.stopOutRing (s : State) (ring : Nat) : State :=
  match kget s.srv.outs ring with
  | some r =>
    let t := { s with srv := { s.srv with outs := kput s.srv.outs ring { r with stopped := true } } }
    let t := t.ringError 6 ring 0
    let gone := (t.srv.reqs.filter fun e => e.2.oring == ring).map Prod.fst
    let names := fun (d : Bytes) => fld d 1 4 4 == ring
    let dropped := (t.srv.subs.map fun e => (e.2.taken.filter names).length).sum
    let t := gone.foldl State.freeReq t
    let t := { t with
      srv := { t.srv with subs := t.srv.subs.map fun (e : Nat × SRing) => (e.1, { e.2 with taken := e.2.taken.filter fun d => !names d }) }
      life := if t.life.corking.isSome then { t.life with finalLost := satAdd 32 t.life.finalLost gone.length } else t.life }
    t.stage 0x000D (pack 32 [(0, 0, 8, 4), (1, 0, 8, ring), (2, 0, 32, gone.length), (6, 0, 32, dropped)])
  | none => s

/-- Write a record to an output ring, then the status word that covers it, then raise its vector where enabled
(R197, R198). A write over a link that is down fails, which stops the ring (R201). A stopped ring takes nothing. -/
def State.writeRecord (s : State) (ring : Nat) (rec : Bytes) : State :=
  match kget s.srv.outs ring with
  | some r =>
    if r.stopped then s
    else if !(s.ringLinked ring) then s.stopOutRing ring
    else
      let p := (r.ptr + 1) % 2 ^ r.log2n
      let t := (s.hostWrite (s.ringPort ring) (r.base + 16 * r.ptr) rec).hostWrite (s.ringPort ring) r.sbase (le 8 p)
      let t := { t with srv := { t.srv with outs := kput t.srv.outs ring { r with ptr := p } } }
      if r.ven then t.ringVector ring r.vec else t
  | none => s

/-- Change an entry where it exists. -/
def State.modReq (s : State) (ridx : Nat) (f : Req → Req) : State :=
  { s with srv := { s.srv with reqs := kmod s.srv.reqs ridx f } }

/-- A request ends, `DONE` or `FAULTED`, with a status: its `FINAL` record is written and its references are released
(R206, R207). -/
def State.endReq (s : State) (ridx st : Nat) : State :=
  match kget s.srv.reqs ridx with
  | some r =>
    let t := s.modReq ridx fun r => { r with standing := 0, room := 0 }
    (t.writeRecord r.oring (outRecord r.tag ridx 2 st 0 0)).freeReq ridx
  | none => s

/-- The tick in µs, modulo 2^32 (R209). -/
def State.usNow (s : State) : Nat := s.clk.tick / ticksPerUs % 2 ^ 32

/-- Entries of a partition, in index order. -/
def State.entriesOf (s : State) (p : Nat) : List (Nat × Req) := s.srv.reqs.filter fun e => e.2.part == p

/-- Codes of Table 7.6. -/
def ReqState.code : ReqState → Nat
  | .admitted => 1
  | .prefill => 2
  | .handoff => 3
  | .decode => 4
  | .paused => 5
  | .done => 6
  | .faulted => 7

/-- Bytes of a list block (R215). -/
def listBlockBytes (ctxMax : Nat) : Nat := (1088 + 4 * (ctxMax / 64 + 8) + 255) / 256 * 256

/-- Device address of entry `ridx`'s list block (R215). -/
def listAddr (p : Partition) (ridx : Nat) : Nat := p.man.lista + (p.share.idxOf ridx) * listBlockBytes p.man.ctxMax

/-- Device address of page `g` (R213). -/
def pageAddr (p : Partition) (g : Nat) : Nat := p.man.pool + g * p.man.pageU * unitBytes

/-- The 64 bytes of an entry (Table 7.5). -/
def reqBytes (s : State) (ridx : Nat) (r : Req) : Bytes :=
  let plist := match kget s.parts r.part with | some p => s.nodeId * 2 ^ 48 + listAddr p ridx | none => 0
  pack 64 [(0, 0, 4, r.st.code), (0, 4, 2, r.cls), (0, 6, 3, r.part), (0, 9, 6, r.slot), (2, 0, 8, r.tkey), (3, 0, 8, r.tent),
    (4, 0, 20, r.c - 1), (4, 20, 1, b2n r.dlact), (4, 21, 1, b2n r.nodl), (4, 22, 1, b2n r.dlmiss), (4, 23, 1, b2n r.rdec),
    (4, 24, 2, r.aborts), (4, 26, 1, b2n r.solo), (4, 27, 1, b2n r.hrecv), (4, 28, 1, b2n r.canreq), (4, 29, 1, b2n r.paureq),
    (4, 30, 1, b2n r.resreq), (4, 31, 1, b2n r.phost), (8, 0, 64, plist), (16, 0, 24, r.pages.length), (20, 0, 32, r.deadline),
    (24, 0, 128, r.pchain.toNat), (40, 0, 32, r.tag), (44, 0, 32, r.tokbud), (48, 0, 21, r.limit), (52, 0, 16, r.pfxlen),
    (54, 0, 4, r.oring), (54, 4, 12, r.wait), (56, 0, 16, r.pnode), (58, 0, 13, r.pridx), (60, 0, 21, r.next)]

/-- A page of a pool becomes `RETIRED`: prefix entries that name it go, requests that hold it are to fault (R226). -/
def State.retirePage (s : State) (p page : Nat) : State :=
  let v := s.srv
  let bad := v.pfx.filter fun e => e.2.page == page && (match s.partOfSlot e.2.slot with | some q => q.1 == p | none => false)
  let v := bad.foldl (fun v e => v.pfxRemove p e.1) v
  let cnt := match kget v.pages (pageKey p page) with | some x => x.count | none => 0
  { s with srv := { v with
      pages := kput v.pages (pageKey p page) ⟨cnt, true, false⟩
      reqs := v.reqs.map fun e => (e.1, if e.2.part == p && e.2.pages.contains page then { e.2 with doom := some svData } else e.2) } }

/-- A page stays `USED` until the pool is rebuilt (R226). -/
def Serving.strand (v : Serving) (p page : Nat) : Serving :=
  { v with pages := kmod v.pages (pageKey p page) fun x => { x with stranded := true } }

/-- A line of a pool meets uncorrectable data, or a tier-error record names it: its page retires (R226). -/
def State.poolDataError (s : State) (a : Nat) : State :=
  s.parts.foldl (fun t e =>
    let m := e.2.man
    if m.pool ≤ a ∧ a < m.pool + m.poolPages * m.pageU * unitBytes then t.retirePage e.1 ((a - m.pool) / (m.pageU * unitBytes))
    else t) s

/-- The line at `off` of entry `ridx`'s list block cannot be read: the request is to fault, and the pages whose IDs lie in
the line stay `USED` (R226). -/
def State.listDataError (s : State) (pn ridx off : Nat) : State :=
  match kget s.srv.reqs ridx with
  | some r =>
    let ids := ((List.range 16).filterMap fun i => if 1088 ≤ off / 64 * 64 + 4 * i then r.pages[(off / 64 * 64 + 4 * i - 1088) / 4]? else none)
    let t := s.modReq ridx fun r => { r with doom := some svData }
    { t with srv := ids.foldl (fun v g => v.strand pn g) t.srv }
  | none => s

/-- A prefix-table line cannot be read: the engine writes it empty, and the pages of its two entries stay `USED`, counted
(R226). -/
def State.prefixLineEmptied (s : State) (line : Nat) : State :=
  [2 * line, 2 * line + 1].foldl (fun t k =>
    match kget t.srv.pfx k with
    | some e =>
      let v := match t.partOfSlot e.slot with | some q => t.srv.strand q.1 e.page | none => t.srv
      { t with srv := { v with
          pfx := kdel v.pfx k
          pfxCache := v.pfxCache.filter (· != k)
          strandedPages := v.strandedPages + 1 } }
    | none => t) s

/-- The page-allocator state of a partition cannot be read: every request of it is to fault, and the pool is rebuilt
(R226). -/
def State.allocatorLost (s : State) (pn : Nat) : State :=
  { s with
    parts := kmod s.parts pn fun p => { p with rebuild := true }
    srv := { s.srv with reqs := s.srv.reqs.map fun e => (e.1, if e.2.part = pn then { e.2 with doom := some svData } else e.2) } }

/-- What the engine does for uncorrectable data on the line of device address `a` (R226, Table 7.14). -/
def State.serveDataError (s : State) (a : Nat) : State :=
  if deviceRegion + 0x180000000 ≤ a ∧ a < deviceRegion + 0x1C0000000 then
    let k := Config.servingLine ((a - deviceRegion - 0x180000000) / 64)
    if k < 524288 then s.prefixLineEmptied k
    else if k < 524296 then s.allocatorLost (k - 524288)
    else s
  else
    (s.poolDataError a).parts.foldl (fun t e =>
      let p := e.2
      let m := p.man
      if m.lista ≤ a ∧ a < m.lista + p.share.length * listBlockBytes m.ctxMax then
        t.listDataError e.1 (p.share.getD ((a - m.lista) / listBlockBytes m.ctxMax) 8192) ((a - m.lista) % listBlockBytes m.ctxMax)
      else t) (s.poolDataError a)

end Sys2Proof.Machine
end

