-- ==== Sys2Proof/Machine/CaskOps.lean ====
section
/-! DEFINITION. Cask images and what a tile holds of them; draining and flushing; the stop, the abort of a step and the reset of a partition; corking in service. -/

namespace Sys2Proof.Machine

/-! ## The cask image (Tables 4.3 to 4.11) -/

def imgLines (b : Bytes) : Nat := fld b 0 0 16
def imgFmtv (b : Bytes) : Nat := fld b 2 0 8
def imgGraph (b : Bytes) : Nat := fld b 4 0 32
def imgUops (b : Bytes) : Nat := fld b 8 0 13
def imgParams (b : Bytes) : Nat := fld b 10 0 11
def imgQueues (b : Bytes) : Nat := fld b 12 0 7
def imgEdges (b : Bytes) : Nat := fld b 13 0 7
def imgPairs (b : Bytes) : Nat := fld b 14 0 6
def imgEngines (b : Bytes) : Nat := fld b 15 0 4
def imgWsBase (b : Bytes) : Nat := fld b 28 0 20
def imgWsLen (b : Bytes) : Nat := fld b 32 0 21
def imgVatBase (b : Bytes) : Nat := fld b 36 0 10
def imgVatLen (b : Bytes) : Nat := fld b 38 0 11
def imgShBase (b : Bytes) : Nat := fld b 40 0 20
def imgShLen (b : Bytes) : Nat := fld b 44 0 21

/-- Entry i of a section of the image: its line offset stands at byte `at_` of the header, entries have `n` bytes. -/
def imgEntry (b : Bytes) (at_ n i : Nat) : Bytes := slice b (64 * fld b at_ 0 16 + n * i) n

/-- Micro-operation word i (Table 4.4). -/
def imgUop (b : Bytes) (i : Nat) : Bytes := imgEntry b 16 8 i
/-- Parameter entry i. -/
def imgParam (b : Bytes) (i : Nat) : Bytes := imgEntry b 18 16 i
/-- Queue entry i (Table 4.6). -/
def imgQueue (b : Bytes) (i : Nat) : Bytes := imgEntry b 20 16 i
/-- Edge entry i (Table 4.7). -/
def imgEdge (b : Bytes) (i : Nat) : Bytes := imgEntry b 22 8 i
/-- Pair entry i (Table 4.11). -/
def imgPair (b : Bytes) (i : Nat) : Bytes := imgEntry b 24 8 i

/-- Whether the image uses stream engine e. -/
def imgUses (b : Bytes) (e : Nat) : Bool := imgEngines b / 2 ^ e % 2 == 1

/-- Position of engine e's descriptors in the stream section: engines in ascending order. -/
def imgEngineIdx (b : Bytes) (e : Nat) : Nat := ((List.range e).filter fun k => imgUses b k).length

/-- Active descriptor of engine e (R99, R134). -/
def imgActive (b : Bytes) (e : Nat) : Bytes := slice b (64 * fld b 26 0 16 + 128 * imgEngineIdx b e) 64
/-- Shadow descriptor of engine e. -/
def imgShadow (b : Bytes) (e : Nat) : Bytes := slice b (64 * fld b 26 0 16 + 128 * imgEngineIdx b e + 64) 64

/-! ### Fields of entries -/

def qeBase (e : Bytes) : Nat := fld e 0 0 20
def qeLines (e : Bytes) : Nat := fld e 0 20 4 + 1
def qeSlots (e : Bytes) : Nat := fld e 4 0 16
def qeThr (e : Bytes) : Nat := fld e 6 0 5
def qeCtrl (e : Bytes) : Bool := fld e 7 0 1 == 1
def qePtile (e : Bytes) : Nat := fld e 8 0 11
def qePcask (e : Bytes) : Nat := fld e 10 0 2
def qePedge (e : Bytes) : Nat := fld e 10 2 6
def eeTile (e : Bytes) : Nat := fld e 0 0 11
def eeQid (e : Bytes) : Nat := fld e 2 0 8
def eeCls (e : Bytes) : Nat := fld e 3 0 2
/-- The stream engine that serves an edge (Table 4.7). -/
def eeEng (e : Bytes) : Nat := fld e 3 2 2
def eeCredits (e : Bytes) : Nat := fld e 4 0 9
def sdDirn (d : Bytes) : Nat := fld d 0 0 1
def sdPersist (d : Bytes) : Bool := fld d 0 1 1 == 1
def sdValid (d : Bytes) : Bool := fld d 0 2 1 == 1
def sdFab (d : Bytes) : Bool := fld d 0 3 1 == 1
def sdExit (d : Bytes) : Nat := fld d 0 4 3
def sdCls (d : Bytes) : Nat := fld d 0 7 2
def sdRbase (d : Bytes) : Nat := fld d 4 0 20
def sdSlots (d : Bytes) : Nat := fld d 4 20 4 + 1
def sdClines (d : Bytes) : Nat := fld d 8 0 6 + 1
def sdSlines (d : Bytes) : Nat := fld d 9 0 5
def sdRimpf (d : Bytes) : Nat := fld d 10 0 8
def sdCount0 (d : Bytes) : Nat := fld d 12 0 32
def sdAddr (d : Bytes) : Nat := fld d 16 0 64
def sdSaddr (d : Bytes) : Nat := fld d 24 0 64
def sdStride0 (d : Bytes) : Int := ofTwos 32 (fld d 32 0 32)
def sdSstride0 (d : Bytes) : Int := ofTwos 32 (fld d 36 0 32)
def sdCount1 (d : Bytes) : Nat := fld d 40 0 32
def sdStride1 (d : Bytes) : Int := ofTwos 32 (fld d 44 0 32)
def sdSstride1 (d : Bytes) : Int := ofTwos 32 (fld d 48 0 32)

/-- Slots of a whole stream (R135). -/
def sdTotal (d : Bytes) : Nat := sdCount0 d * sdCount1 d

/-- Set or clear `VALID` of a descriptor. -/
def sdSetValid (d : Bytes) (v : Bool) : Bytes :=
  modAt d 0 fun b => if v then b ||| 4 else b &&& 0xFB

/-! ## What a tile holds of a cask -/

/-- A queue with no token. -/
def Queue.fresh : Queue where
  head := 0
  seqs := []
  part := none
  uncounted := 0

/-- A stream engine at the start of its stream. -/
def Stream.fresh (act shadow : Bytes) : Stream where
  active := act
  shadow := shadow
  issue := 0
  iwrap := false
  head := 0
  hwrap := false
  remain := sdTotal act
  slots := []
  outstanding := 0
  seq := 0
  waits := []
  ahead := []

/-- Bytes written into a list of bytes. -/
def putBytes (b : Bytes) (off : Nat) (v : Bytes) : Bytes := b.take off ++ v ++ b.drop (off + v.length)

/-- Parameter entry i of an image takes 16 bytes. -/
def putParam (b : Bytes) (i : Nat) (v : Bytes) : Bytes := putBytes b (64 * fld b 18 0 16 + 16 * i) v

/-- The context of an image just written: queues empty, credits full, numbering from 0 (R123, R125). -/
def CaskCtx.fresh (b : Bytes) : CaskCtx where
  image := b
  uptr := 0
  issued := none
  queues := (List.range (imgQueues b)).map fun i => (i, Queue.fresh)
  edges := (List.range (imgEdges b)).map fun i => (i, ⟨eeCredits (imgEdge b i), 0⟩)
  steered := []
  streams := ((List.range 4).filter (imgUses b)).map fun e => (e, Stream.fresh (imgActive b e) (imgShadow b e))
  bank := []
  stepDone := false

/-- A slot `EMPTY`. -/
def Slot.fresh : Slot where
  st := .empty
  drained := false
  fromCuvee := false
  still := none

/-- Slot c of a partition. -/
def Partition.slotAt (p : Partition) (c : Nat) : Slot := p.slots.getD c Slot.fresh

/-- Change slot c. -/
def Partition.modSlot (p : Partition) (c : Nat) (f : Slot → Slot) : Partition := { p with slots := modAt p.slots c f }

/-- Whether the fold schedule names slot c. -/
def Partition.names (p : Partition) (c : Nat) : Bool := p.sched.any fun k => k.cask == c

/-- The image of slot c on a tile. -/
def State.image (s : State) (t c : Nat) : Option Bytes := ((s.tile t).cask c).map CaskCtx.image

/-- Whether an image holds `STEP_END` (R101). -/
def imgHasStepEnd (b : Bytes) : Bool := (List.range (imgUops b)).any fun i => fld (imgUop b i) 0 0 8 == 0xF0

/-- Tiles of a partition whose active casks contain `STEP_END` (R113). -/
def State.stepTiles (s : State) (p : Partition) : List Nat :=
  p.tiles.filter fun t => (List.range 4).any fun c => p.names c && (match s.image t c with | some b => imgHasStepEnd b | none => false)

/-- Drop a cask from a tile, with what the tile's units hold of it (R117: an emptying returns no credit). -/
def Tile.dropCask (x : Tile) (c : Nat) : Tile :=
  { x with
    casks := kdel x.casks c
    pipe := x.pipe.filter fun o => o.cask != c
    shaperIn := x.shaperIn.filter fun v => v.1 != c
    shaperOut := x.shaperOut.filter fun v => v.1 != c }

/-- Change every tile of a list. -/
def State.modTiles (s : State) (ts : List Nat) (f : Nat → Tile → Tile) : State :=
  ts.foldl (fun s t => s.modTile t (f t)) s

/-- Slot c of a partition becomes `EMPTY` on every tile (Table 4.2). -/
def State.emptySlot (s : State) (p c : Nat) : State :=
  match s.part p with
  | some x => (s.modTiles x.tiles fun _ t => t.dropCask c).modPart p fun x => x.modSlot c fun _ => Slot.fresh
  | none => s

/-! ## Draining and flushing (R118, R120) -/

/-- Whether cask c is drained on one tile: no token queued, its edges' credits back, nothing tagged with it under way
(R118). -/
def Tile.drained (x : Tile) (c : Nat) : Bool :=
  match x.cask c with
  | some k =>
    k.queues.all (fun q => q.2.seqs.isEmpty && q.2.part.isNone && q.2.uncounted == 0)
      && k.edges.all (fun e => e.2.credits == eeCredits (imgEdge k.image e.1))
      && k.streams.all (fun e => e.2.outstanding == 0)
      && k.steered.isEmpty && (x.pipe.all fun o => o.cask != c)
      && (x.shaperIn.all fun v => v.1 != c) && (x.shaperOut.all fun v => v.1 != c)
      && (x.inject.all fun f => f.2.cask != c) && (x.eject.all fun f => f.cask != c)
  | none => true

/-- Whether every edge into cask c has its credits back at its producer on tile t's queues (R118). -/
def State.feedersBack (s : State) (t c : Nat) : Bool :=
  match (s.tile t).cask c with
  | some k => k.queues.all fun q =>
      let e := imgQueue k.image q.1
      match (s.tile (qePtile e)).cask (qePcask e) with
      | some kp => match kget kp.edges (qePedge e) with
        | some ed => ed.credits == eeCredits (imgEdge kp.image (qePedge e))
        | none => true
      | none => true
  | none => true

/-- Whether the router of a tile holds no flit of cask c that a tile of partition `p` sent (R118). -/
def State.routerClear (s : State) (p : Partition) (t c : Nat) : Bool :=
  (List.range 5).all fun o => (s.link (inKey t o)).buf.all fun b => b.flit.cask != c || !p.owns b.flit.src

/-- Whether slot c of a partition is drained now, on every tile (R118). -/
def State.slotDrained (s : State) (p : Partition) (c : Nat) : Bool :=
  p.tiles.all fun t => (s.tile t).drained c && s.routerClear p t c && s.feedersBack t c

/-- Tokens that cask c holds over a partition: queued ones, and data tokens that its steering unit has popped and not
sent. -/
def State.queuedTokens (s : State) (p : Partition) (c : Nat) : Nat :=
  (p.tiles.map fun t => match (s.tile t).cask c with
    | some k => (k.queues.map fun q => q.2.seqs.length).sum + k.steered.length
    | none => 0).sum

/-- Give credits back to a producer's edge, capped by its `CREDITS`. -/
def State.creditEdge (s : State) (t c e n : Nat) : State :=
  match (s.tile t).cask c with
  | some k => s.setTile t ((s.tile t).setCask c { k with edges := kmod k.edges e fun ed =>
      { ed with credits := min (ed.credits + n) (eeCredits (imgEdge k.image e)) } })
  | none => s

/-- Flush one queue: its slots are freed and their credits return to the producer (R117, R120). -/
def State.flushQueue (s : State) (t c q : Nat) : State :=
  match (s.tile t).cask c with
  | some k =>
    match kget k.queues q with
    | some x =>
      let e := imgQueue k.image q
      let n := x.seqs.length
      let y := { x with head := (x.head + n) % (max 1 (qeSlots e)), seqs := [] }
      (s.setTile t ((s.tile t).setCask c { k with queues := kput k.queues q y })).creditEdge (qePtile e) (qePcask e) (qePedge e) n
    | none => s
  | none => s

/-- Drop the data tokens that wait in a cask's steering unit on one tile. -/
def Tile.dropSteered (x : Tile) (c : Nat) : Tile :=
  match x.cask c with | some k => x.setCask c { k with steered := [] } | none => x

/-- Flush a closed cask: every token left is discarded, one record gives the number, the partition's count and the
pending commit's count rise by it (R120, R337). -/
def State.flushCask (s : State) (pn c : Nat) : State :=
  match s.part pn with
  | some p =>
    let n := s.queuedTokens p c
    let t := p.tiles.foldl (fun s t => (List.range 64).foldl (fun s q => s.flushQueue t c q) s) s
    let t := t.modTiles p.tiles fun _ x => x.dropSteered c
    let t := t.stage 0x000D (pack 32 [(0, 0, 8, 0), (1, 0, 8, pn), (2, 0, 8, c), (3, 0, 32, n)])
    let t := { t with flushStats := modAt t.flushStats (2 * pn) fun v => (v + n) % 2 ^ 32 }
    t.modPart pn fun p => { p with commit := p.commit.map fun k => { k with flushed := k.flushed + n } }
  | none => s

/-! ## Aborting a step (R22, R224) -/

/-- One request of an aborted step: `ABORTS` rises, a first abort makes it `SOLO`, a second ends it. -/
def State.abortReq (s : State) (ridx : Nat) : State :=
  match kget s.srv.reqs ridx with
  | some r =>
    if 2 ≤ r.aborts + 1 then (s.modReq ridx fun r => { r with aborts := 2 }).endReq ridx svAborted
    else s.modReq ridx fun r => { r with aborts := r.aborts + 1, solo := true, room := 0 }
  | none => s

/-- The step in progress of a partition is aborted: no token of it is written. -/
def State.abortStep (s : State) (pn : Nat) : State :=
  match s.part pn with
  | some p =>
    match p.cur with
    | some st => (st.batch.foldl (fun s b => s.abortReq b.ridx) s).modPart pn fun p => { p with cur := none, stepEnds := [] }
    | none => s
  | none => s

/-! ## Releasing a partition (R321, R227) -/

/-- Clear the journal entry of a command on a partition (R393). -/
def State.clearJournal (s : State) (pn : Nat) : State :=
  { s with life := { s.life with journal := s.life.journal.filter fun j => j.part != pn } }

/-- Every entry of a partition ends with a status (R227). -/
def State.endEntries (s : State) (pn st : Nat) : State :=
  (s.entriesOf pn).foldl (fun s e => s.endReq e.1 st) s

/-- Release the pins that a partition holds (R185). -/
def State.dropPins (s : State) (pn : Nat) : State :=
  match s.part pn with
  | some p => p.pins.foldl State.refreshPin (s.modPart pn fun p => { p with pins := [] })
  | none => s

/-- Write back and free the cellar cache of a partition (R186). -/
def State.dropCacheUnits (s : State) (pn : Nat) : State :=
  let us := s.mem.caches.flatMap fun c => if c.1 % 8 = pn then c.2.map CacheFrame.unit else []
  let m := us.foldl Memory.uncache s.mem
  { s with mem := { m with cacheFree := kdel m.cacheFree pn, caches := m.caches.filter fun c => c.1 % 8 != pn } }

/-- Pool and prefix entries of a partition's slot are released (R227). -/
def State.dropPool (s : State) (pn slot : Nat) : State :=
  { s with srv := { s.srv with
      pages := s.srv.pages.filter fun e => e.1 / 2 ^ 24 != pn
      pfx := s.srv.pfx.filter fun e => e.2.slot != slot
      pfxCache := s.srv.pfxCache.filter fun k => match kget s.srv.pfx k with | some e => e.slot != slot | none => false } }

/-- A tile that leaves its partition: every slot empty, nothing in flight. -/
def Tile.release (x : Tile) : Tile :=
  { x with casks := [], rings := [], pipe := [], shaperIn := [], shaperOut := [], tallyReq := none, work := none, inject := [], eject := [],
           refused := [], lastNar := none, idle := false, idleSent := false, running := 0, switchTo := none }

/-- A load, swap or unload that ends early leaves no unit backed that it backed itself (R158, R159). -/
def State.dropBacked (s : State) (pn : Nat) : State :=
  match (s.part pn).bind Partition.job with
  | some j => { s with mem := j.backed.foldl Memory.unback s.mem }
  | none => s

/-- Complete the commands in progress on a partition: loads, cask loads, pending commits (R321, R343). -/
def State.endCommands (s : State) (pn st : Nat) : State :=
  match s.part pn with
  | some p =>
    let s := match p.job with | some j => s.finishRun j.cmd st [] | none => s
    let s := match p.caskJob with | some j => s.finishRun j.cmd st [] | none => s
    match p.commit with | some k => s.finishRun k.cmd st (le 4 k.flushed) | none => s
  | none => s

/-- Empty a partition: entries end with a status, slots empty, columns, counters, share, slot, pins and cache are
released, its transaction ends (R158, R227, R321). -/
def State.releasePart (s : State) (pn st : Nat) : State :=
  match s.part pn with
  | some p =>
    let s := (((s.endEntries pn st).dropPins pn).dropCacheUnits pn).dropBacked pn
    let s := s.dropPool pn p.slot
    let s := s.modTiles p.tiles fun _ t => t.release
    let s := s.clearJournal pn
    { s with
      parts := kdel s.parts pn
      tally := { s.tally with counters := p.counters.foldl (fun m c => kdel m c.phys) s.tally.counters } }
  | none => s

/-- A partition reset (R321): commands in progress complete `ABORTED_RESET`, then the partition is emptied. -/
def State.resetPart (s : State) (pn : Nat) : State := (s.endCommands pn stAbortedReset).releasePart pn svReset

/-! ## Corking in service (R382) -/

/-- An in-service fault: every partition is reset, the `FINAL` records follow into their reserved room, and the device
enters `CORKED` when the 10 ms end (CORK_FINAL_TIMER). Only an `OPEN` device corks in service. -/
def State.inServiceCork (s : State) (stage unit ukind : Nat) : State :=
  if s.life.dev = .opened ∧ s.life.corking.isNone then
    let s := { s with life := { s.life with corking := some (stage, unit, ukind), finalLost := 0 } }
    (s.parts.map Prod.fst).foldl State.resetPart s
  else s

/-! ## Stopping the fold clock (R55, R114) -/

/-- The fold clock of a partition stops: no schedule flit follows, its tiles complete only what they have issued, and each
reports its idling once it has (R55). -/
def State.stopClock (s : State) (pn : Nat) : State :=
  match s.part pn with
  | some p =>
    if (p.st = .running ∨ p.st = .swapping) ∧ p.idled.isNone = true then
      let s := (s.modTiles p.tiles fun _ t => { t with idle := true, idleSent := false, switchTo := none }).modPart pn fun p =>
        { p with st := if p.st = .running then .stopped else p.st, idled := some [] }
      p.tiles.foldl State.idleReport s
    else s
  | none => s

end Sys2Proof.Machine
end

