-- ==== Sys2Proof/Machine/Access.lean ====
section
/-! DEFINITION. Accesses at the rim: the structures of the device region, the order of a line, the controllers, how an access is served, how a failing one is reported, and the end of a decant. -/

namespace Sys2Proof.Machine

/-! ## Requesters (Table 6.10) -/

/-- The `REQ` code. -/
def Requester.code : Requester → Nat
  | .tile .. => 0
  | .host _ => 1
  | .peer .. => 2
  | .decant => 3
  | .scrubber => 4
  | .serving => 5
  | .firmware => 6

/-- Whether an access of this requester is a touch: decants and scrubbing are not (R176). -/
def Requester.touches : Requester → Bool
  | .decant | .scrubber => false
  | _ => true

/-- Whether the requester reaches the device region (R164). -/
def Requester.reachesDevice : Requester → Bool
  | .serving | .firmware => true
  | _ => false

/-- Whether the host is snooped before this requester is served on a tracked line (R409). -/
def Requester.snoops : Requester → Bool
  | .host _ | .scrubber => false
  | _ => true

/-- Whether the access changes the line. -/
def AccKind.writes : AccKind → Bool
  | .read | .prefetch => false
  | .write .. | .atomic .. => true

/-- Whether the access replaces all 64 bytes. -/
def AccKind.whole : AccKind → Bool
  | .write off d => off == 0 && d.length == 64
  | _ => false

/-- The line after the access. -/
def AccKind.apply (k : AccKind) (b : Bytes) : Bytes :=
  match k with
  | .read | .prefetch => b
  | .write off d => b.take off ++ d ++ b.drop (off + d.length)
  | .atomic off w v _ => b.take off ++ le w (ofLe (slice b off w) + v) ++ b.drop (off + w)

/-- What the access returns of the line as it was. -/
def AccKind.answer (k : AccKind) (b : Bytes) : Bytes :=
  match k with
  | .read => b
  | .atomic off w _ true => slice b off w
  | _ => []

/-! ## Failures (R192, R193) -/

/-- Body of a tier-error record (Table 6.10). -/
def tierErrorBody (s : State) (a : Access) (cause loc : Nat) : Bytes :=
  let tc := match a.req with | .tile t c _ _ _ => (t, c) | _ => (0x7FF, 0)
  let pn := match a.req with | .tile t _ _ _ _ => s.partOf t | _ => none
  let node := match a.req with | .peer n _ => n | _ => 0
  pack 32 [(0, 0, 11, tc.1), (0, 11, 2, tc.2), (2, 0, 4, cause), (2, 4, 4, a.req.code), (3, 0, 8, loc), (4, 0, 48, a.addr / 64 * 64),
    (10, 0, 3, pn.getD 7), (10, 3, 1, b2n pn.isNone), (12, 0, 16, node), (16, 0, 64, s.clk.tick)]

/-- The tier-error record and its notice; a page of a pool that it names retires (R192, R226). -/
def State.tierError (s : State) (a : Access) (cause loc : Nat) : State :=
  let b := tierErrorBody s a cause loc
  (s.report 0x0005 b 0x0004 (b.take 16)).poolDataError a.addr

/-- The request flits of a stream engine's access (R77). -/
def engineFlit (c e seq : Nat) (f : Flit) : Bool := f.qid == 64 * c + e && f.seq == seq && decide (f.kind ≤ 1)

/-- The rim answers a tile: the flits of the request leave their buffers, and a read returns its data, a write its
acknowledgement, by the attach link of the request (R78, R79, R173). -/
def State.answerTile (s : State) (t c e seq exit : Nat) (a : Access) (b : Bytes) : State :=
  let s := s.freeRim t exit (engineFlit c e seq)
  let flit := fun (kind : Nat) => mkFlit (exitTile t exit) t 0 a.cls c kind (64 * c + e) seq true
  match a.kind with
  | .read => s.rimSend t exit (flit 2 b)
  | .prefetch => s
  | .write .. | .atomic .. => s.rimSend t exit (flit 3 [])

/-- The answer of a rim to a requester. Host answers leave over CXL.mem, where a failed read returns poison and a failed
write is dropped (R192, R408). -/
def State.answer (s : State) (a : Access) (failed : Option Nat) (b : Bytes) : State :=
  match a.req with
  | .tile t c e seq exit => s.answerTile t c e seq exit a b
  | .host _ => { s with out := { s.out with memResp := s.out.memResp ++ [(a.addr / 64, b, failed.isSome && !a.kind.writes)] } }
  | .peer .. | .decant | .scrubber | .serving | .firmware => { s with mem := { s.mem with resp := s.mem.resp ++ [⟨a, failed, b⟩] } }

/-- A tile's failed access, by the `SEQ` of its request: no answer is awaited any longer, its outstanding-read count drops by
the line, the fold clock stops as for a trap, the step is aborted (R192). -/
def State.tileFailed (s : State) (t c e seq : Nat) (read : Bool) : State :=
  let s := s.modTile t fun x => { x with casks := kmod x.casks c fun k => { k with streams := kmod k.streams e fun g => { g with
    waits := g.waits.filter fun w => w.1 != seq, outstanding := if read then g.outstanding - 1 else g.outstanding } } }
  match s.partOf t with
  | some pn => (s.stopClock pn).abortStep pn
  | none => s

/-- A failing access: the record, the notice and what its requester suffers (R192). -/
def State.failAccess (s : State) (a : Access) (cause loc : Nat) : State :=
  let s := s.tierError a cause loc
  match a.req with
  | .tile t c e seq exit =>
    (s.freeRim t exit (engineFlit c e seq)).tileFailed t c e seq (match a.kind with | .read => true | _ => false)
  | .serving => (s.serveDataError a.addr).answer a (some cause) []
  | .decant | .scrubber => s
  | .host _ | .peer .. | .firmware => s.answer a (some cause) []

/-! ## Corrections (R189, R190) -/

/-- Count a correction: stack, channel or rim cache. -/
def State.countCorrected (s : State) (i : Nat) : State :=
  { s with mem := { s.mem with corrected := modAt s.mem.corrected i fun n => satAdd 32 n 1 } }

/-- The first correction of a whole device of a rank is recorded and noticed (R190). -/
def State.deviceCorrected (s : State) (channel rank dev : Nat) : State :=
  if s.mem.devices.contains (channel, rank, dev) then s
  else
    let b := pack 32 [(0, 0, 8, channel), (1, 0, 8, rank), (2, 0, 8, dev)]
    ({ s with mem := { s.mem with devices := s.mem.devices ++ [(channel, rank, dev)] } }).report 0x000B b 0x000A (b.take 16)

/-- What the code of a line says where a device of the cellar rank is already known to have failed: a second one makes the
data uncorrectable (R190). -/
def State.verdict (s : State) (tier loc : Nat) (found : Ecc) : Ecc :=
  match found with
  | .device r d => if tier = 1 ∧ s.mem.devices.any (fun x => x.1 == loc && x.2.1 == r && x.2.2 != d) = true then .uncorrectable 0 else found
  | .clean | .corrected | .uncorrectable _ => found

/-- What the code of a tier said on a read of tier 0 or 1 at stack or channel `loc`. -/
def State.noteEcc (s : State) (tier loc : Nat) (found : Ecc) : State :=
  match found with
  | .corrected => if tier < 2 then s.countCorrected (16 * tier + loc) else s
  | .device r d => if tier = 1 then (s.countCorrected (16 + loc)).deviceCorrected loc r d else s
  | .clean | .uncorrectable _ => s

/-! ## The structures of the device region (R165) -/

/-- The 32 bytes of a prefix entry (Table 7.13); zeros where there is none. -/
def Serving.pfxBytes (v : Serving) (k : Nat) : Bytes :=
  match kget v.pfx k with
  | some e => pack 32 [(0, 0, 128, e.digest.toNat), (16, 0, 24, e.page), (16, 24, 8, e.tkey), (20, 0, 6, e.slot), (22, 0, 16, e.epoch),
      (24, 0, 32, e.lastUse), (28, 0, 1, 1)]
  | none => List.replicate 32 0

/-- The prefix entry that 32 bytes spell; none where `VALID` is 0. -/
def pfxOf (b : Bytes) : Option PfxEntry :=
  if fld b 28 0 1 = 1 then
    some ⟨BitVec.ofNat 128 (fld b 0 0 128), fld b 16 0 24, fld b 16 24 8, fld b 20 0 6, fld b 22 0 16, fld b 24 0 32⟩
  else none

/-- The line at address `a` of the device region where it shows a structure that the state holds: the unit map in either copy,
the prefix table, the page allocator's state, the directory of the cellar cache (Table 6.3; log 11). -/
def State.structLine (s : State) (a : Nat) : Option Bytes :=
  let o := a - deviceRegion
  if a < deviceRegion then none
  else if o < 0x180000000 then
    let p := o % 0xC0000000 / 64
    match s.mem.groupAt p with
    | some g => some ((List.range 8).flatMap fun i => s.mem.entryBytes (8 * g + i))
    | none => some (payload64 (Config.mapDirectory s.mem.slices p))
  else if o < 0x1C0000000 then
    let k := Config.servingLine ((o - 0x180000000) / 64)
    if k < 524288 then some (s.srv.pfxBytes (2 * k) ++ s.srv.pfxBytes (2 * k + 1))
    else if k < 524296 then
      some (payload64 (Config.allocatorLine ((s.srv.pages.filter fun e => e.1 / 2 ^ 24 == k - 524288).map
        fun e => (e.1, e.2.count, e.2.retired)) ((o - 0x180000000) / 64)))
    else none
  else if o < 0x1E0000000 then
    some (payload64 (Config.cacheDirectory (s.mem.caches.flatMap fun c => c.2.map fun x => (c.1, x.unit, x.frame, x.valid, x.dirty))
      ((o - 0x1C0000000) / 64)))
  else none

/-- Write one map entry, in both copies (R170). -/
def Memory.putEntry (m : Memory) (u : Nat) (b : Bytes) : Memory :=
  match entryOf b with
  | some e => m.setEntry u e
  | none => if (m.entry u).isSome then m.unback u else m

/-- A line of a structure is written: the entries of the unit map or of the prefix table become those written. What a write
changes in the structures that no rule lays out is nothing (log 11). -/
def State.putStruct (s : State) (a : Nat) (b : Bytes) : State :=
  let o := a - deviceRegion
  if a < deviceRegion then s
  else if o < 0x180000000 then
    match s.mem.groupAt (o % 0xC0000000 / 64) with
    | some g => { s with mem := (List.range 8).foldl (fun m i => m.putEntry (8 * g + i) (slice b (8 * i) 8)) s.mem }
    | none => s
  else if o < 0x1C0000000 then
    let k := Config.servingLine ((o - 0x180000000) / 64)
    if k < 524288 then
      { s with srv := { s.srv with pfx := [0, 1].foldl (fun m i => match pfxOf (slice b (32 * i) 32) with
        | some e => kput m (2 * k + i) e
        | none => kdel m (2 * k + i)) s.srv.pfx } }
    else s
  else s

/-- The bytes that a read of the line at `a` returns, where it can be read (R165, R173). -/
def State.viewLine (s : State) (a : Nat) : Option Bytes :=
  match s.structLine a with
  | some b => some b
  | none => s.mem.viewLine a

/-! ## Serving one line -/

/-- Cellar-cache quota of the tile that reads: its partition and `CACHE_UNITS` (R187). -/
def State.quotaOf (s : State) (a : Access) : Option (Nat × Nat) :=
  match a.req, a.kind with
  | .tile t _ _ _ _, .read | .tile t _ _ _ _, .prefetch =>
    (s.parts.find? fun e => e.2.owns t).map fun e => (e.1, e.2.cacheUnits)
  | _, _ => none

/-- After an access is served: the unit is touched, which may start its promotion (R176, R180). -/
def State.afterAccess (s : State) (a : Access) : State :=
  if a.req.touches && decide (a.addr < deviceRegion) then s.touchUnit (a.addr / unitBytes) else s

/-- A line enters the host-tracking filter of its die; where the 16 ways of its set are taken, the oldest line of the set
leaves with a `BISnpInv` (R409; the set is a free function of the line, log 5). -/
def State.track (s : State) (addr : Nat) : State :=
  let die := lineDie addr
  let l := addr / 64
  let f := (kget s.mem.filter die).getD []
  let set := f.filter fun x => Config.filterSet x % 65536 == Config.filterSet l % 65536
  if f.contains l then s
  else match set with
    | old :: _ =>
      if set.length < 16 then { s with mem := { s.mem with filter := kput s.mem.filter die (f ++ [l]) } }
      else { s with
        mem := { s.mem with filter := kput s.mem.filter die (f.filter (· != old) ++ [l]) }
        out := { s.out with biSnp := s.out.biSnp ++ [(true, old)] } }
    | [] => { s with mem := { s.mem with filter := kput s.mem.filter die (f ++ [l]) } }

/-- The filter follows a read that the host keeps (R409). -/
def State.trackFor (s : State) (a : Access) : State :=
  match a.req, a.kind with
  | .host true, .read => s.track a.addr
  | _, _ => s

/-- Perform an access on a line whose bytes are `b`: the line takes the result, the requester its answer. A line of a structure
shows what the structure holds, and a write changes the structure (R165). -/
def State.perform (s : State) (a : Access) (l : RimLine) : State :=
  let b := (s.structLine a.addr).getD l.data
  let shown := (s.structLine a.addr).isSome
  let s := if a.kind.writes then s.putStruct a.addr (a.kind.apply b) else s
  let out := s.mem.allocLine a.addr { l with data := a.kind.apply b, dirty := !shown && (l.dirty || a.kind.writes), held := false }
  let s := ({ s with mem := out.1 }).cxlCache out.2
  ((s.answer a none (a.kind.answer b)).trackFor a).afterAccess a

/-- A rim-cache line turns out uncorrectable: it is held; a fifth held line of a set corks the device (R194). -/
def State.holdLine (s : State) (a : Access) (w : Nat) (l : RimLine) : State :=
  let s := { s with mem := s.mem.rimPut a.addr w (some { l with held := true }) }
  let t := s.failAccess a 2 (lineDie a.addr)
  if 4 < s.mem.heldCount a.addr then t.inServiceCork 17 (lineDie a.addr) 2 else t

/-- Serve an access that hits (R173, R192, R194). A whole-line write reads nothing. -/
def State.serveHit (s : State) (a : Access) (w : Nat) (l : RimLine) (found : Ecc) : State :=
  if a.kind.whole then s.perform a l
  else if l.held then (s.failAccess a 2 (lineDie a.addr)).afterAccess a
  else match found with
    | .uncorrectable _ => (s.holdLine a w l).afterAccess a
    | .corrected => (s.countCorrected (32 + lineDie a.addr)).perform a l
    | _ => s.perform a l

/-- The controller reads a line homed on the near tier or the cellar, which missed the rim cache (R172, R187, R190, R192). -/
def State.serveMiss (s : State) (a : Access) (e : UnitEntry) (found : Ecc) : State :=
  let place := s.mem.source a.addr e
  let sub := a.addr % unitBytes / 64
  let s := match s.verdict place.1 (stackOf a.addr) found with
    | .uncorrectable _ => { s with mem := s.mem.setLineBad place.1 place.2 sub true }
    | f => s.noteEcc place.1 (stackOf a.addr) f
  if s.mem.lineBad place.1 place.2 sub then (s.failAccess a place.1 (stackOf a.addr)).afterAccess a
  else
    let b := s.mem.lineBelow a.addr e
    let s := match s.quotaOf a with
      | some (p, q) => { s with mem := s.mem.cacheRead p q a.addr e }
      | none => s
    s.perform a ⟨a.addr / 64, false, false, false, b⟩

/-- The CXL.cache request that an access to a host-tier line needs first (Table 14.5): its request code. -/
def hostRequest (l : Option RimLine) (k : AccKind) : Option Nat :=
  match l with
  | some x => if k.writes && !x.owned then some 2 else none
  | none => some (if k.whole then 2 else if k.writes then 1 else 0)

/-! ## The order of a line, and the controllers (R173, R304, R305) -/

/-- Whether an access is one to a line. -/
def onLine (line : Nat) (a : Access) : Bool := a.addr / 64 == line

/-- Key of a controller queue: of the tier and the stack or channel that a line is read from. -/
def Memory.ctlKey (m : Memory) (a : Nat) : Nat :=
  match m.homeOf a with
  | some e => 16 * (m.source a e).1 + stackOf a
  | none => 0

/-- A controller's queue, oldest first. -/
def Memory.queue (m : Memory) (k : Nat) : List (Access × Ecc) := (kget m.ctl k).getD []

/-- Accesses that wait for a decant (R182). -/
def Memory.decantWaits (m : Memory) : List Access := m.decants.flatMap Decant.waiting

/-- Entries of a controller's queue in use: an access that waits for a decant keeps its own (R182). -/
def Memory.ctlUsed (m : Memory) (k : Nat) : Nat := (m.queue k).length + (m.decantWaits.filter fun a => m.ctlKey a.addr == k).length

/-- Whether a controller has an entry for an access of a class: 128 for a stack, of which 16 are reserved for classes 0 and 1;
64 for a channel, of which 8 are (R305). -/
def Memory.ctlRoom (m : Memory) (k cls : Nat) : Bool :=
  let n := if k < 16 then 128 else 64
  decide (m.ctlUsed k < if cls < 2 then n else n - n / 8)

/-- Accesses in progress on a line: they wait for the host, for a snoop, for a decant, or in a controller. -/
def Memory.inProgress (m : Memory) (line : Nat) : Nat :=
  (m.cacheWait.filter (onLine line)).length
    + (m.biWait.filter fun x => onLine line x.2.2 && x.2.2.req != Requester.decant).length
    + (m.decantWaits.filter (onLine line)).length
    + ((m.ctl.flatMap fun q => q.2).filter fun x => onLine line x.1).length

/-- Accesses ordered on a line. -/
def Memory.ordered (m : Memory) (line : Nat) : Nat := m.inProgress line + (m.order.filter fun x => onLine line x.1).length

/-- Of some waiting accesses, oldest first, the oldest of the lowest class number. -/
def firstOf : List (Access × Ecc) → Option (Access × Ecc)
  | [] => none
  | x :: l => some (l.foldl (fun b y => if y.1.cls < b.1.cls then y else b) x)

/-- Whether the line is tracked by the filter of its die. -/
def Memory.tracked (m : Memory) (addr : Nat) : Bool := ((kget m.filter (lineDie addr)).getD []).contains (addr / 64)

/-- The map is looked up for a line: in the translation cache of its die, or by a read of the unit's map line, which the rim
cache then holds (R170, R171). What the codes of the two copies say comes with the row. -/
def State.lookUp (s : State) (a : Nat) (ea eb : Ecc) : State :=
  let u := a / unitBytes
  let m := s.mem.mapAddr u
  if deviceRegion ≤ a ∨ ((kget s.mem.utc (lineDie a)).getD []).contains u = true then s
  else
    let bad := fun (e : Ecc) => match e with | .uncorrectable _ => true | .clean | .corrected | .device .. => false
    let s := if (s.mem.rimLine m).isSome then s
      else
        let s := s.noteEcc 0 (stackOf m) ea
        { s with mem := s.mem.readMap u (bad ea) (bad eb) }
    if s.mem.mapBad u then s
    else
      let out := s.mem.allocLine m ⟨m / 64, false, false, false, (s.structLine m).getD []⟩
      ({ s with mem := out.1.translate (lineDie a) u }).cxlCache out.2

/-- A host-tier access asks the host for its line and waits, unless the host can no longer be asked (R402, R406). -/
def State.askHost (s : State) (a : Access) (code : Nat) : State :=
  if s.cxl.flushed then (s.failAccess a 3 0xFF).afterAccess a
  else { s.cxlCache [(code, a.addr / 64)] with mem := { s.mem with cacheWait := s.mem.cacheWait ++ [a] } }

/-- An access whose line is to be read takes an entry of the line's controller; without one it stays the first of its line
(R305). -/
def State.enqueue (s : State) (a : Access) (found : Ecc) : State :=
  let k := s.mem.ctlKey a.addr
  if s.mem.ctlRoom k a.cls then { s with mem := { s.mem with ctl := kput s.mem.ctl k (s.mem.queue k ++ [(a, found)]) } }
  else { s with mem := { s.mem with order := (a, found) :: s.mem.order } }

/-- Serve the access whose turn it is on its line (R173). `clear`: the host has answered for the line. In order: an unbacked
address fails (R193), a unit map uncorrectable in both copies fails (R170), a decant is waited for (R182), a tracked line is
snooped (R409), a host-tier line is asked of the host (R402); then the rim cache answers, or the line's controller reads. A
whole-line write reads nothing. -/
def State.serve (s : State) (a : Access) (found : Ecc) (clear : Bool) : State :=
  let u := a.addr / unitBytes
  if deviceRegion ≤ a.addr && !a.req.reachesDevice then s.failAccess a 4 0xFF
  else match s.mem.homeOf a.addr with
    | none => s.failAccess a 4 0xFF
    | some e =>
      if a.addr < deviceRegion ∧ s.mem.mapBad u then s.failAccess a 5 0xFF
      else if e.busy then
        { s with mem := { s.mem with decants := s.mem.decants.map fun d =>
            if d.unit = u then { d with waiting := d.waiting ++ [a] } else d } }
      else if a.req.snoops && !clear && s.mem.tracked a.addr then
        { s with
          mem := { s.mem with biWait := s.mem.biWait ++ [(a.addr / 64, a.kind.writes, a)] }
          out := { s.out with biSnp := s.out.biSnp ++ [(a.kind.writes, a.addr / 64)] } }
      else match (s.mem.rimAt a.addr).find a.addr, s.mem.rimLine a.addr with
        | some w, some l =>
          match (if e.tier = 2 then hostRequest (some l) a.kind else none) with
          | some code => s.askHost a code
          | none => if e.tier = 2 ∧ s.cxl.flushed then (s.failAccess a 3 0xFF).afterAccess a else s.serveHit a w l found
        | _, _ =>
          if e.tier = 2 then s.askHost a ((hostRequest none a.kind).getD 0)
          else if a.kind.whole then s.perform a ⟨a.addr / 64, false, false, false, List.replicate 64 0⟩
          else s.enqueue a found

/-- Accesses at the rim's input join the order of a line in class order, within a class the oldest first, while fewer than 4
are ordered there (R304). The last argument bounds how many. -/
def State.refill (s : State) (line : Nat) : Nat → State
  | 0 => s
  | n + 1 =>
    if s.mem.ordered line < 4 then
      match firstOf (s.mem.input.filter fun x => onLine line x.1) with
      | some x => State.refill { s with mem := { s.mem with input := s.mem.input.erase x, order := s.mem.order ++ [x] } } line n
      | none => s
    else s

/-- The accesses ordered on a line are served in turn, each once the one before it has ended (R173). The last argument bounds
how many. -/
def State.advance (s : State) (line : Nat) : Nat → State
  | 0 => s
  | n + 1 =>
    let s := s.refill line 4
    if 0 < s.mem.inProgress line then s
    else match s.mem.order.find? fun x => onLine line x.1 with
      | some x => (State.serve { s with mem := { s.mem with order := s.mem.order.erase x } } x.1 x.2 false).advance line n
      | none => s

/-- How many accesses could be served on a line. -/
def Memory.backlog (m : Memory) : Nat := m.order.length + m.input.length + 1

/-- Whatever has become the turn on a line is served. -/
def State.proceed (s : State) (line : Nat) : State := s.advance line s.mem.backlog

/-- A controller's queued access is carried out: its line is read where the unit now lies. -/
def State.readOut (s : State) (x : Access × Ecc) : State :=
  match s.mem.homeOf x.1.addr with
  | some e => if e.tier < 2 then s.serveMiss x.1 e x.2 else s.serve x.1 x.2 true
  | none => s.failAccess x.1 4 0xFF

/-- A controller issues the oldest command of the lowest class number, and the line goes on (R305). -/
def State.issueOne (s : State) (k : Nat) : State :=
  match firstOf (s.mem.queue k) with
  | some x =>
    let s := State.readOut { s with mem := { s.mem with ctl := kput s.mem.ctl k ((s.mem.queue k).erase x) } } x
    ((x.1.addr / 64) :: s.mem.order.map fun y => y.1.addr / 64).dedup.foldl State.proceed s
  | none => s

/-- A controller issues what its timing allows: all that waits. The last argument bounds how many. -/
def State.issueAll (s : State) (k : Nat) : Nat → State
  | 0 => s
  | n + 1 => if (s.mem.queue k).isEmpty then s else (s.issueOne k).issueAll k n

/-- How many commands a controller could issue. -/
def Memory.commands (m : Memory) : Nat := (m.ctl.flatMap fun q => q.2).length + m.backlog

/-- What is ordered on a line is served, and its controller issues. -/
def State.settleAt (s : State) (a : Nat) : State :=
  let s := s.proceed (a / 64)
  s.issueAll (s.mem.ctlKey a) s.mem.commands

/-- An access reaches the rim of its line's die and joins the order of its line, or waits at the rim's input while 4 are ordered
there (R173, R304). `held`: the DRAM's timing does not let the line's controller issue now (R305). -/
def State.access (s : State) (a : Access) (found : Ecc) (held : Bool) : State :=
  let line := a.addr / 64
  let s := s.lookUp a.addr .clean .clean
  let s := if 4 ≤ s.mem.ordered line then { s with mem := { s.mem with input := s.mem.input ++ [(a, found)] } }
    else { s with mem := { s.mem with order := s.mem.order ++ [(a, found)] } }
  if held then s.proceed line else s.settleAt a.addr

/-- Accesses that found no controller entry are looked at again. -/
def State.issueWaiting (s : State) : State := ((s.mem.order.map fun y => y.1.addr).dedup).foldl State.settleAt s

/-- Accesses whose wait for a decant has ended, each the first of its line, in their order. -/
def State.resume (s : State) (l : List Access) : State :=
  l.foldl (fun s a => (s.serve a .clean false).settleAt a.addr) s

/-- The host's answer for a line of the host tier: the line is filled or owned, and the access that waited is served, or it
fails with `CAUSE` 3 (R404). -/
def State.hostData (s : State) (addr : Nat) (r : HostRead) : State :=
  match s.mem.cacheWait.find? (onLine (addr / 64)) with
  | none => s
  | some a =>
    let s := { s with mem := { s.mem with cacheWait := s.mem.cacheWait.erase a } }
    let held := s.mem.rimLine addr
    let noData := (hostRequest held a.kind).getD 0 == 2
    let data := match r with | .ok d => (d ++ List.replicate 64 0).take 64 | .poison | .cxlError => List.replicate 64 0
    let good := match r with | .ok _ => true | .poison => noData | .cxlError => false
    let s := if good then
        let l : RimLine := match held with
          | some l => { l with owned := true }
          | none => ⟨addr / 64, false, false, a.kind.writes, data⟩
        let out := s.mem.allocLine addr l
        (({ s with mem := out.1 }).cxlCache out.2).serve a .clean true
      else (s.failAccess a 3 0xFF).afterAccess a
    s.settleAt addr

/-- The host's answer to a back-invalidate snoop: the line leaves the filter, or stays in it as shared after
`BISnpData`; the access that waited is served, and the line goes on (R409). -/
def State.snoopDone (s : State) (addr : Nat) : State :=
  match s.mem.biWait.find? fun x => x.1 == addr / 64 with
  | none => s
  | some x =>
    let s := { s with mem := { s.mem with
      biWait := s.mem.biWait.erase x
      filter := if x.2.1 then kmod s.mem.filter (lineDie addr) fun f => f.filter (· != addr / 64) else s.mem.filter } }
    match x.2.2.req with
    | .decant => s
    | .tile .. | .host _ | .peer .. | .scrubber | .serving | .firmware => (s.serve x.2.2 .clean true).settleAt addr

/-! ## The end of a decant (Table 6.6) -/

/-- The first line of a unit that a decant cannot copy, with the cause (R192, R194). -/
def Memory.firstBad (m : Memory) (u : Nat) (e : UnitEntry) : Nat × Nat × Nat :=
  match (m.linesOf u).find? fun l => l.held with
  | some l => (64 * l.line, 2, lineDie (64 * l.line))
  | none =>
    match (List.range 1024).find? fun l => (m.gather u e).lineBad e.tier e.frame l with
    | some l => (unitBytes * u + 64 * l, e.tier, l / 64)
    | none => (unitBytes * u, e.tier, 0)

/-- What the code of line `l` of the source frame says when a decant reads it (R189, R190, R192). -/
def State.decantRead (s : State) (e : UnitEntry) (l : Nat) (found : Ecc) : State :=
  match s.verdict e.tier (l / 64) found with
  | .uncorrectable _ => { s with mem := s.mem.setLineBad e.tier e.frame l true }
  | f => s.noteEcc e.tier (l / 64) f

/-- A decant ends: its unit moves, or it is abandoned for uncorrectable data or, after a global persistent flush, for a
host that can no longer be asked (R192, R406); then what waited on it proceeds (R182). `found` is what the code said of line
`l` of the unit. -/
def State.endDecant (s : State) (d : Decant) (l : Nat) (found : Ecc) : State :=
  match s.mem.entry d.unit with
  | none => { s with mem := { s.mem with decants := s.mem.decants.filter fun x => x.unit != d.unit } }
  | some e =>
    let s := s.decantRead e (l % 1024) found
    let hostGone := s.cxl.flushed && (e.tier == 2 || d.toTier == 2)
    let hostErr := hostGone || (e.tier == 2 && match found with | .uncorrectable _ => true | .clean | .corrected | .device .. => false)
    let s :=
      if hostErr then
        { s.tierError ⟨.decant, 3, unitBytes * d.unit + 64 * (l % 1024), .read⟩ 3 0xFF with mem := s.mem.abandon d.unit e }
      else if s.mem.decantBad d.unit e then
        let b := s.mem.firstBad d.unit e
        { s.tierError ⟨.decant, 3, b.1, .read⟩ b.2.1 b.2.2 with mem := s.mem.abandon d.unit e }
      else { s.cxlCache (s.mem.decantRequests d.unit e.tier d.toTier) with mem := s.mem.moveUnit d e }
    (s.marks.resume d.waiting).issueWaiting

/-- The decant of a unit, where one is in progress. -/
def State.decantOf (s : State) (u : Nat) : Option Decant := s.mem.decants.find? fun d => d.unit == u

/-- A command that waits for a unit's decant within its own row (R183; log 15). -/
def State.settle (s : State) (u : Nat) : State :=
  match s.decantOf u with
  | some d =>
    let m := { s.mem with biWait := s.mem.biWait.filter fun x => x.1 / 1024 != u || x.2.2.req != Requester.decant }
    let m := { m with filter := m.filter.map fun (f : Nat × List Nat) => (f.1, f.2.filter fun l => l / 1024 != u) }
    ({ s with mem := m }).endDecant d 0 .clean
  | none => s

/-- Move a unit at once to tier `t` where a command of firmware waits for it within its row (log 15): tracked lines are
called back, then the decant ends as any does, abandoned where its data is bad. -/
def State.relocate (s : State) (u t : Nat) : State :=
  match s.mem.entry u with
  | some e =>
    if e.tier = t then s
    else
      let ls := s.trackedLines u
      let s := { s with
        out := { s.out with biSnp := s.out.biSnp ++ ls.map fun l => (true, l) }
        mem := { s.mem with filter := s.mem.filter.map fun (f : Nat × List Nat) => (f.1, f.2.filter fun l => l / 1024 != u) } }
      s.used.endDecant ⟨u, t, s.freeFrame t, []⟩ 0 .clean
  | none => s

/-! ## Lines read and written by firmware within a command's row (log 15) -/

/-- What is in progress on a line ends: the host answers what it was asked, well, and the controller issues. The last argument
bounds how many accesses. -/
def State.drainLine (s : State) (a : Nat) : Nat → State
  | 0 => s
  | n + 1 =>
    if s.mem.ordered (a / 64) = 0 then s
    else
      let s := if s.mem.cacheWait.any (onLine (a / 64)) then
          s.hostData a (.ok (match s.mem.homeOf a with | some e => s.mem.lineBelow a e | none => []))
        else if s.mem.biWait.any fun x => x.1 == a / 64 then s.snoopDone a
        else s.settleAt a
      s.drainLine a n

/-- Make a line servable at once: no decant, nothing before it on the line, not tracked, a host-tier line held as the access
needs it. -/
def State.settleLine (s : State) (a : Nat) (writes : Bool) : State :=
  let s := s.settle (a / unitBytes)
  let s := s.drainLine a (3 * s.mem.ordered (a / 64) + 3 * s.mem.input.length)
  let s := if s.mem.tracked a then
      { s with
        out := { s.out with biSnp := s.out.biSnp ++ [(writes, a / 64)] }
        mem := { s.mem with filter := if writes then kmod s.mem.filter (lineDie a) fun f => f.filter (· != a / 64) else s.mem.filter } }
    else s
  match s.mem.homeOf a with
  | some e =>
    if e.tier = 2 ∧ s.cxl.flushed = false then
      let k : AccKind := if writes then .write 0 (List.replicate 64 0) else .read
      match hostRequest (s.mem.rimLine a) k with
      | some code =>
        let l : RimLine := match s.mem.rimLine a with
          | some l => { l with owned := true }
          | none => ⟨a / 64, false, false, writes, s.mem.lineBelow a e⟩
        let out := s.mem.allocLine a l
        (({ s with mem := out.1 }).cxlCache [(code, a / 64)]).cxlCache out.2
      | none => s
    else s
  | none => s

/-- Whether a firmware access to this line fails (R192, R193). -/
def State.lineFails (s : State) (a : Nat) (whole : Bool) : Bool :=
  match s.mem.homeOf a with
  | none => true
  | some e =>
    (decide (a < deviceRegion) && s.mem.mapBad (a / unitBytes))
      || (e.tier == 2 && s.cxl.flushed)
      || (!whole && (match s.mem.rimLine a with | some l => l.held | none => s.mem.badBelow a e))

/-- A firmware access to one line: served, or reported as failing. The answer queue is not used. -/
def State.fwLine (s : State) (a : Access) : State :=
  let t := (((s.settleLine a.addr a.kind.writes).lookUp a.addr .clean .clean).serve a .clean true).settleAt a.addr
  { t with mem := { t.mem with resp := t.mem.resp.filter fun r => r.access != a } }

/-- Firmware or the serving engine writes bytes from device address `a`, line by line: whether every line took them, and
the state after. It stops at the first line that fails. The last argument is at least the number of lines. -/
def State.fwWrite (s : State) (q : Requester) (a : Nat) (b : Bytes) : Nat → Bool × State
  | 0 => (true, s)
  | n + 1 =>
    if b.isEmpty then (true, s)
    else
      let k := min (64 - a % 64) b.length
      let line := a / 64 * 64
      let whole := k == 64
      let bad := (s.settle (line / unitBytes)).lineFails line whole
      let t := s.fwLine ⟨q, 0, line, .write (a % 64) (b.take k)⟩
      if bad then (false, t) else t.fwWrite q (a + k) (b.drop k) n

/-- Firmware or the serving engine reads `k` lines from device address `a` on: the bytes where every line is good. It stops
at the first line that fails. -/
def State.fwRead (s : State) (q : Requester) (a : Nat) : Nat → Option Bytes × State
  | 0 => (some [], s)
  | n + 1 =>
    let s := s.settleLine a false
    let v := s.viewLine a
    let t := s.fwLine ⟨q, 0, a, .read⟩
    match v with
    | some x => if s.lineFails a false then (none, t) else
        let r := t.fwRead q (a + 64) n
        (r.1.map fun y => x ++ y, r.2)
    | none => (none, t)

/-- Lines that a range of bytes touches. -/
def lineCount (a n : Nat) : Nat := if n = 0 then 0 else (a % 64 + n + 63) / 64

/-- Read `n` bytes from any device address; none where a line fails. -/
def State.readBytes (s : State) (q : Requester) (a n : Nat) : Option Bytes × State :=
  let r := s.fwRead q (a / 64 * 64) (lineCount a n)
  (r.1.map fun b => slice b (a % 64) n, r.2)

/-- Write bytes to any device address. -/
def State.writeBytes (s : State) (q : Requester) (a : Nat) (b : Bytes) : Bool × State := s.fwWrite q a b (lineCount a b.length)

end Sys2Proof.Machine
end

