-- ==== Sys2Proof/Machine/FabricOps.lean ====
section
/-! DEFINITION. Dvoriq: link plans and paths, ports and charters, tags and transactions, packets sent and answered. -/

namespace Sys2Proof.Machine

/-! ## Link plans (R238 to R241) -/

/-- A plan record in which every slot gives `c` ports to every other. -/
def planRecord (nslot up c : Nat) : Bytes :=
  let pairs := (List.range nslot).flatMap fun a => (List.range nslot).filterMap fun b =>
    if a = b then none else some (16, 2 * (16 * a + b), 2, c)
  pack 128 ([(0, 0, 5, nslot), (1, 0, 5, up)] ++ pairs)

/-- `NSLOT` of a plan record (Table 8.2). -/
def planNslot (r : Bytes) : Nat := fld r 0 0 5
/-- `UPPORTS`. -/
def planUp (r : Bytes) : Nat := fld r 1 0 5
/-- c(a, b), the ports that slot a gives to slot b. -/
def planC (r : Bytes) (a b : Nat) : Nat := fld r 16 (2 * (16 * a + b)) 2

/-- Whether a custom record is valid (R239). -/
def planValid (r : Bytes) : Bool :=
  let n := planNslot r
  let ix := List.range 16
  r.length == 128 && decide (2 ≤ n ∧ n ≤ 16 ∧ planUp r ≤ 17) && reservedZero r [(0, 0, 5), (1, 0, 5), (16, 0, 512)]
    && ix.all (fun a => ix.all fun b =>
      planC r a b == planC r b a && (a != b || planC r a b == 0) && (decide (a < n ∧ b < n) || planC r a b == 0))
    && ix.all fun a => decide ((ix.map (planC r a)).sum + planUp r ≤ 18)

/-- The plan that straps `DVQ_PLAN` choose (R238). -/
def planOf (strap : Nat) (custom : Option Bytes) : Option Bytes :=
  match strap with
  | 0 => some (planRecord 16 3 1)
  | 1 => some (planRecord 8 4 2)
  | 2 => custom.filter planValid
  | _ => none

/-- The link plan in force. -/
def State.plan (s : State) : Option Bytes := planOf s.life.straps.plan s.fab.custom

/-- The link plan digest (R239). -/
def planDigest (r : Bytes) : Bytes := shake256 r 8

/-- Hop number of the uplinks. -/
def uplinkHop : Nat := 16
/-- Hop number of the chip itself (R244). -/
def selfHop : Nat := 17

/-- The next hop of each port of slot x, in ascending order (R240); ports beyond the list are unused. -/
def portHops (r : Bytes) (x : Nat) : List Nat :=
  let n := planNslot r
  ((List.range (n - 1)).flatMap fun j =>
    let p := (x + j + 1) % n
    List.replicate (planC r x p) p) ++ List.replicate (planUp r) uplinkHop

/-- Ports of the chip toward a hop, in the order of R240. -/
def State.portsToward (s : State) (hop : Nat) : List Nat :=
  match s.plan with
  | some r => ((portHops r s.life.straps.slotId).zipIdx.filter fun e => e.1 == hop).map Prod.snd
  | none => []

/-- The hop that a port leads to. -/
def State.hopOf (s : State) (port : Nat) : Option Nat := s.plan.bind fun r => (portHops r s.life.straps.slotId)[port]?

/-- The far-end port that R240 predicts for a board port. -/
def State.farPort (s : State) (port : Nat) : Option Nat :=
  match s.plan, s.hopOf port with
  | some r, some p =>
    let i := (s.portsToward p).idxOf port
    (((portHops r p).zipIdx.filter fun e => e.1 == s.life.straps.slotId).map Prod.snd)[i]?
  | _, _ => none

/-! ## Ports -/

/-- A port; one not listed is as just reset. -/
def State.port (s : State) (k : Nat) : Port := (kget s.fab.ports k).getD Port.reset

/-- Change a port. -/
def State.modPort (s : State) (k : Nat) (f : Port → Port) : State :=
  { s with fab := { s.fab with ports := kput s.fab.ports k (f (s.port k)) } }

/-- Ports toward a hop that are `OPEN`, in order. -/
def State.openPorts (s : State) (hop : Nat) : List Nat := (s.portsToward hop).filter fun k => (s.port k).st == .opened

/-- Count a packet against a port (R245, R250, R260). -/
def State.countDiscard (s : State) (k : Nat) : State := s.modPort k fun p => { p with discards := satAdd 32 p.discards 1 }

/-- The change of the set of `OPEN` ports toward a hop: new requests are held while any transaction to it is
outstanding (R281). -/
def State.portsChanged (s : State) (hop : Nat) : State :=
  if (kget s.fab.holds hop).isNone ∧ (s.fab.txs.any fun t => t.hop == hop) then
    { s with fab := { s.fab with holds := kput s.fab.holds hop [] } }
  else s

/-- `CCLASS` of the running image (Table 15.2). -/
def State.cclass (s : State) : Nat := fld (s.life.banks.getD s.life.bank []) 6 0 16

/-- The charter that a port sends (Table 9.4). -/
def State.charter (s : State) (k : Nat) : Bytes :=
  pack 32 [(0, 0, 8, 1), (1, 0, 5, k), (2, 0, 16, s.nodeId), (4, 0, 16, s.cclass), (6, 0, 16, s.fab.gen),
    (8, 0, 64, ofLe (match s.plan with | some r => planDigest r | none => []))]

/-- A port begins a charter exchange: it sends its charter and awaits the far one (R278). -/
def State.sendCharter (s : State) (k : Nat) : State :=
  s.modPort k fun p => { p with st := .charter, sent := s.charter k, mine := none, far := none }

/-- The checks of Table 9.5 on a charter received by port `k`: the cause of the first that fails (R279). -/
def State.charterCheck (s : State) (k : Nat) (c : Bytes) : Nat :=
  let up := s.hopOf k == some uplinkHop
  if fld c 0 0 8 ≠ 1 ∨ reservedZero c [(0, 0, 8), (1, 0, 5), (2, 0, 16), (4, 0, 16), (6, 0, 16), (8, 0, 64)] = false then 1
  else if fld c 4 0 16 ≠ s.cclass then 2
  else if up then (if fld c 2 0 16 ≠ 0xFFFF ∨ fld c 1 0 5 ≠ 31 then 3 else 0)
  else if fld c 2 0 16 ≠ (s.hopOf k).getD 0 + s.nodeId / 16 * 16 ∨ some (fld c 1 0 5) ≠ s.farPort k then 3
  else if fld c 8 0 64 ≠ ofLe (match s.plan with | some r => planDigest r | none => []) then 4
  else if fld c 6 0 16 ≠ s.fab.gen then 5
  else 0

/-- A port leaves its state for `DOWN` and starts a training attempt at once, unless temperature keeps it down (R277).
Packets at its egress are gone; their transactions time out (log 13). -/
def State.portDown (s : State) (k : Nat) : State :=
  let was := (s.port k).st == .opened
  let s := s.modPort k fun p => { p with
    st := if p.hot then .down else .training, mine := none, far := none, egress := [], resend := [], replay := [], replaying := [] }
  if was then match s.hopOf k with | some h => s.portsChanged h | none => s else s

/-! ## Job blocks (R273) -/

/-- A fabric partition record in range, with the chip's own node in its block. -/
def inAxis (v first extent size : Nat) : Bool := decide (0 < size ∧ (v + size - first % size) % size ≤ extent)

/-- Whether a node lies in the block of a record (R273). -/
def inBlock (r : Bytes) (nslot node : Nat) : Bool :=
  inAxis (node % 16) (fld r 2 0 4) (fld r 2 4 4) nslot
    && inAxis (node / 16 % 64) (fld r 4 0 6) (fld r 5 0 6) (fld r 8 0 7)
    && inAxis (node / 1024 % 64) (fld r 6 0 6) (fld r 7 0 6) (fld r 9 0 7)

/-- `NSLOT` of the plan in force. -/
def State.nslot (s : State) : Nat := match s.plan with | some r => planNslot r | none => 0

/-- Whether a node lies in the chip's block; with `GEN` 0 none does. -/
def State.inMyBlock (s : State) (node : Nat) : Bool := s.fab.gen != 0 && inBlock s.fab.block s.nslot node

/-! ## Status codes (Table 8.7) -/

def fsOk : Nat := 0
def fsData : Nat := 1
def fsUnbacked : Nat := 2
def fsAlignment : Nat := 3
def fsStale : Nat := 4
def fsTimeout : Nat := 5
def fsNoRoute : Nat := 6
def fsKv : Nat := 7
def fsBarUnknown : Nat := 8
def fsBarRound : Nat := 9
def fsBarDuplicate : Nat := 10
def fsType : Nat := 11

/-! ## Paths (R245, R246) -/

/-- The next hop toward a node, none where no path exists. -/
def State.hopTo (s : State) (node : Nat) : Option Nat :=
  match s.plan with
  | some r =>
    if node / 16 = s.nodeId / 16 then
      if planNslot r ≤ node % 16 then none
      else if 0 < planC r s.life.straps.slotId (node % 16) then some (node % 16)
      else if 0 < planUp r then some uplinkHop else none
    else if 0 < planUp r then some uplinkHop else none
  | none => none

/-- The path hash. -/
def pathHash (dst addr : Nat) : Nat :=
  (dst ^^^ (addr / 2 ^ 12 % 65536)) ^^^ ((addr / 2 ^ 28 % 65536) ^^^ (addr / 2 ^ 44 % 16))

/-- The port that a packet to `dst` takes among the open ports of its hop. -/
def State.pathPort (s : State) (hop dst addr : Nat) : Option Nat :=
  let ps := s.openPorts hop
  if ps.isEmpty then none else ps[pathHash dst addr % ps.length]?

/-! ## Packets and trailers (R247 to R249) -/

/-- The header of a packet (Tables 8.4 and 8.5). -/
def Packet.header (p : Packet) : Bytes :=
  let head := [(0, 0, 5, p.ptype), (0, 5, 2, p.cls), (0, 7, 5, p.len), (0, 12, 1, b2n p.last), (0, 13, 3, p.pidx), (2, 0, 16, p.dst),
    (4, 0, 16, p.src), (6, 0, 16, p.tag), (8, 0, 16, p.gen)]
  pack 16 (head ++ if p.ptype / 16 % 2 = 1 then [(10, 0, 8, p.status)] else [(10, 0, 48, p.addr)])

/-- The CRC-32 of a trailer: over its packet, where there is one, and what else it carries (R247, R463; log 13). -/
def Trailer.check (t : Trailer) (p : Option Packet) : Nat :=
  crc32 ((match p with | some p => p.header ++ p.payload | none => [])
    ++ Config.trailerBytes t.seq t.ack t.credits t.replay t.reserved)

/-! ## Egress -/

/-- Put a packet into the egress of a port (R262). -/
def State.toEgress (s : State) (k : Nat) (p : Packet) : State :=
  let s := s.modPort k fun q => { q with egress := q.egress ++ [⟨p, s.fab.order⟩] }
  { s with fab := { s.fab with order := s.fab.order + 1 } }

/-- Whether a type is one of the responses of Table 8.6. -/
def isResponse (t : Nat) : Bool := decide (0x11 ≤ t ∧ t ≤ 0x16)

/-- Whether a type is one of the requests of Table 8.6. -/
def isRequest (t : Nat) : Bool := decide (0x01 ≤ t ∧ t ≤ 0x0A)

/-! ## Transactions of this chip -/

/-- An outstanding transaction by tag. -/
def State.txOf (s : State) (tag : Nat) : Option FabTx := s.fab.txs.find? fun t => t.tag == tag

/-- Whether a response type answers a request type (Table 8.6, R260). -/
def answersType (req resp : Nat) : Bool :=
  resp == 0x16 || (match req with
    | 0x01 => resp == 0x11
    | 0x02 | 0x03 | 0x04 | 0x09 | 0x0A => resp == 0x12
    | 0x05 | 0x06 => resp == 0x13
    | 0x07 => resp == 0x14
    | 0x08 => resp == 0x15
    | _ => false)

/-- The flits of a stream engine's fabric request (R77). -/
def fabricFlit (c e seq : Nat) (f : Flit) : Bool := f.qid == 64 * c + e && f.seq == seq && f.kind == 10

/-- The rim forwards data or a completion to the tile whose request it answers, on VC1 (R78, R79, R259): `KIND` 2 for data,
`KIND` 3 else (log 27). -/
def State.forward (s : State) (u : FabUser) (cls : Nat) (data : Option Bytes) : State :=
  match u with
  | .stream t c e seq exit =>
    let flit := fun (kind : Nat) => mkFlit (exitTile t exit) t 0 cls c kind (64 * c + e) seq true
    match data with
    | some b => (payloads b).foldl (fun s p => s.rimSend t exit (flit 2 p)) s
    | none => s.rimSend t exit (flit 3 [])
  | .serving _ | .shard _ _ | .firmware | .barrier _ => s

/-- A fabric request no longer waits at its rim: its flits leave their buffers (R258). -/
def State.freeRequest (s : State) (u : FabUser) : State :=
  match u with
  | .stream t c e seq exit => s.freeRim t exit (fabricFlit c e seq)
  | .serving _ | .shard _ _ | .firmware | .barrier _ => s

/-- A transaction leaves the list and its tag is free; its requester is told (R251, R260). A tile that gets an error is
treated as a failed tile read (R254). -/
def State.endTx (s : State) (t : FabTx) (st : Nat) (data : Bytes) : State :=
  let s := { s with fab := { s.fab with
    txs := s.fab.txs.filter fun x => x.tag != t.tag
    done := s.fab.done ++ [⟨t.user, st, if st = fsOk then data else []⟩] } }
  match t.user with
  | .stream tl c e seq _ =>
    if st = fsOk then s.forward t.user t.cls (if t.ptype = 0x01 ∨ t.ptype = 0x05 ∨ t.ptype = 0x06 then some data else none)
    else s.tileFailed tl c e seq (t.ptype == 0x01)
  | .serving _ | .shard _ _ | .firmware | .barrier _ => s

/-! ## Barrier arrivals of this chip (R269, R286, R288) -/

/-- Key of a participant's round. -/
def roundKey (home id : Nat) : Nat := 1024 * home + id

/-- The round of this participant at a barrier. -/
def State.roundOf (s : State) (home id : Nat) : Nat := (kget s.fab.rounds (roundKey home id)).getD 0

/-- The end of a tile's arrival is told to the tile. -/
def State.forwardArrival (s : State) (u : FabUser) (cls st : Nat) : State :=
  match u with
  | .stream t c e seq _ => if st = fsOk then s.forward u cls none else s.tileFailed t c e seq false
  | .serving _ | .shard _ _ | .firmware | .barrier _ => s

/-- A pending arrival completes to its requester with a status; released, the round advances and the tick is captured;
broken, the round is 0. -/
def State.endArrival (s : State) (a : Arrival) (st : Nat) : State :=
  let released := st == fsOk
  let broken := [fsBarUnknown, fsStale, fsTimeout, fsNoRoute].contains st
  State.forwardArrival { s with fab := { s.fab with
    arrivals := s.fab.arrivals.filter fun x => x != a
    rounds := if released then kput s.fab.rounds (roundKey a.home a.id) ((a.round + 1) % 65536)
      else if broken then kdel s.fab.rounds (roundKey a.home a.id) else s.fab.rounds
    captured := if released then s.fab.captured ++ [(a.id, s.clk.tick)] else s.fab.captured
    done := s.fab.done ++ [⟨a.user, st, if released then le 8 s.clk.tick else []⟩] } } a.user a.cls st

/-- The arrival that a transaction of type `BAR_ARRIVE` belongs to. -/
def State.arrivalOf (s : State) (t : FabTx) : Option Arrival :=
  s.fab.arrivals.find? fun a => a.home == t.node && a.id == t.addr % 1024 && a.round == t.addr / 1024 % 65536

/-- What an answer to a first arrive or to a keepalive does to the pending arrival (R269, Table 9.6). -/
def State.arrivalAnswer (s : State) (a : Arrival) (st : Nat) : State :=
  if st = fsOk then { s with fab := { s.fab with arrivals := s.fab.arrivals.map fun x => if x = a then { x with acked := true } else x } }
  else if a.acked ∧ st = fsBarDuplicate then s
  else if a.acked ∧ st = fsBarRound then s.endArrival a fsOk
  else s.endArrival a st

/-- The end of a `BAR_ARRIVE` transaction: its tag is free and the arrival takes the answer. -/
def State.endArrive (s : State) (t : FabTx) (st : Nat) : State :=
  let s' := { s with fab := { s.fab with txs := s.fab.txs.filter fun x => x.tag != t.tag } }
  match s.arrivalOf t with
  | some a => s'.arrivalAnswer a st
  | none => s'

/-- A transaction ends with a status, whatever its type. -/
def State.closeTx (s : State) (t : FabTx) (st : Nat) (data : Bytes) : State :=
  if t.ptype = 0x09 then s.endArrive t st
  else if t.ptype = 0x0A then { s with fab := { s.fab with txs := s.fab.txs.filter fun x => x.tag != t.tag } }
  else s.endTx t st data

/-- A response reaches the requester's rim (R249, R254, R260). The pieces of a read of the serving engine or of firmware fill
its buffer; a tile reads one line, whose data goes on to it at once (R259). -/
def State.takeResponse (s : State) (t : FabTx) (p : Packet) : State :=
  if p.ptype = 0x16 then s.closeTx t p.status []
  else if p.ptype = 0x11 then
    let pieces := if t.pieces.any fun x => x.1 == p.pidx then t.pieces else t.pieces ++ [(p.pidx, p.payload)]
    if pieces.length < (t.granules + 3) / 4 then
      { s with fab := { s.fab with txs := s.fab.txs.map fun x => if x.tag = t.tag then { x with pieces := pieces } else x } }
    else
      s.closeTx t fsOk ((List.range ((t.granules + 3) / 4)).flatMap fun i => match pieces.find? fun x => x.1 == i with | some x => x.2 | none => [])
  else s.closeTx t fsOk p.payload

/-! ## Answers of this chip to a request -/

/-- Send a response, by the rule of R246 with the requester as `DST`; to the chip itself it goes at once (R244). A response
with no open port toward the requester is lost (log 13). -/
def State.respond (s : State) (req : Packet) (ptype st pidx : Nat) (last : Bool) (payload : Bytes) : State :=
  let p : Packet := ⟨ptype, req.cls, payload.length / 64, last, pidx, req.src, s.nodeId, req.tag, s.fab.gen, 0, st, payload⟩
  if req.src = s.nodeId then
    match s.txOf req.tag with | some t => s.takeResponse t p | none => s
  else match (s.hopTo req.src).bind fun h => s.pathPort h req.src (if req.ptype = 0x09 ∨ req.ptype = 0x0A then 0 else req.addr) with
    | some k => s.toEgress k p
    | none => s

/-- Refuse a request. -/
def State.respondErr (s : State) (req : Packet) (st : Nat) : State := s.respond req 0x16 st 0 true []

/-- The checks of R274 on a request; the chip's own requests are not checked against itself (R244). -/
def State.staleRequest (s : State) (p : Packet) : Bool :=
  p.src != s.nodeId && (s.fab.gen == 0 || p.gen != s.fab.gen || !(inBlock s.fab.block s.nslot p.src))

/-- Whether a packet waits in the ingress buffer of a port. -/
def State.inIngress (s : State) (p : Packet) : Bool := s.fab.ports.any fun e => e.2.ingress.any fun x => x.1 == p

/-- A packet leaves its port's ingress buffer: its credit is owed back in kind (R261). -/
def State.leaveIngress (s : State) (p : Packet) : State :=
  match s.fab.ports.find? fun e => e.2.ingress.any fun x => x.1 == p with
  | some (k, q) =>
    let kind := match q.ingress.find? fun x => x.1 == p with | some x => x.2 | none => false
    s.modPort k fun q => { q with
      ingress := q.ingress.eraseP fun x => x.1 == p
      owed := q.owed ++ [(if isResponse p.ptype then 1 else 0, kind)] }
  | none => s

/-! ## Performing requests of peers -/

/-- The request in progress that a line answer belongs to. -/
def PeerOp.isFor (o : PeerOp) (a : Access) : Bool :=
  match a.req with
  | .peer n g => o.req.src == n && o.req.tag == g && decide (o.req.addr / 64 * 64 ≤ a.addr ∧ a.addr < o.req.addr / 64 * 64 + 2048)
      && (o.req.ptype != 0x07 || decide (a.addr < o.req.addr + 256))
  | _ => false

/-- One line's answer taken into its request. -/
def PeerOp.take (o : PeerOp) (r : RimResp) : PeerOp :=
  { o with
    left := o.left - 1
    status := if o.status ≠ 0 then o.status else match r.failed with | none => 0 | some 4 => fsUnbacked | some _ => fsData
    data := o.data ++ [(r.access.addr, r.data)] }

/-- The payload granules of piece i of a read, from the lines answered. -/
def PeerOp.piece (o : PeerOp) (i : Nat) : Bytes :=
  let n := min 4 (o.req.len + 1 - 4 * i)
  (List.range n).flatMap fun j => match o.data.find? fun x => x.1 == o.req.addr + 256 * i + 64 * j with | some x => x.2 | none => []

/-- One 256-byte packet of a page was performed: the page's last one is acknowledged and the window takes the next page
allotted (R265, R266). -/
def State.shipPerformed (s : State) (o : PeerOp) : State :=
  if o.status ≠ 0 then s.respondErr o.req o.status
  else match s.srv.ship.find? fun e => e.node == o.req.src && e.got.contains o.req.addr with
    | some _ => s
    | none =>
      let pick := s.srv.ship.find? fun e => e.node == o.req.src && (match kget s.srv.reqs e.ridx with
        | some r => (match kget s.parts r.part with
          | some q => decide (pageAddr q e.page ≤ o.req.addr ∧ o.req.addr < pageAddr q e.page + q.man.pageU * unitBytes)
          | none => false)
        | none => false)
      match pick with
      | some e =>
        let size := match kget s.srv.reqs e.ridx with
          | some r => (match kget s.parts r.part with | some q => q.man.pageU * 256 | none => 1)
          | none => 1
        let e' := { e with got := e.got ++ [o.req.addr], tag := o.req.tag }
        if e'.got.length < size then
          { s with srv := { s.srv with ship := s.srv.ship.map fun x => if x = e then e' else x } }
        else
          let next := (kget s.srv.allot e.ridx).getD []
          let fresh := match next with | g :: _ => [(⟨e.ridx, g, e.node, 0, []⟩ : ShipEntry)] | [] => []
          let s := { s with srv := { s.srv with
            ship := (s.srv.ship.filter fun x => x != e) ++ fresh
            allot := kput s.srv.allot e.ridx (next.drop 1)
            handoffs := s.srv.handoffs.map fun (h : Handoff) => if h.ridx = e.ridx ∧ h.source = false then { h with shipped := h.shipped + 1 } else h } }
          s.respond o.req 0x14 0 0 true []
      | none => s

/-- A request whose lines have all answered: its response leaves (R253 to R255). -/
def State.peerDone (s : State) (o : PeerOp) : State :=
  match o.req.ptype with
  | 0x01 =>
    if o.status ≠ 0 then s.respondErr o.req o.status
    else
      let n := (o.req.len + 4) / 4
      (List.range n).foldl (fun s i => s.respond o.req 0x11 0 i (i + 1 == n) (o.piece i)) s
  | 0x05 | 0x06 =>
    if o.status ≠ 0 then s.respondErr o.req o.status
    else
      let b := (o.data.flatMap Prod.snd)
      s.respond o.req 0x13 0 0 true ((b ++ List.replicate 64 0).take 64)
  | 0x07 => s.shipPerformed o
  | _ => if o.status ≠ 0 then s.respondErr o.req o.status else s.respond o.req 0x12 0 0 true []

/-- Answer every request of a peer that is complete. -/
def State.flushOps (s : State) : State :=
  let ready := s.fab.ops.filter fun o => o.closed && o.left == 0
  ready.foldl State.peerDone { s with fab := { s.fab with ops := s.fab.ops.filter fun o => !(o.closed && o.left == 0) } }

/-- Take the rims' answers to peers out of the answer list and complete what they complete. -/
def State.takeAnswers (s : State) : State :=
  let isPeer := fun (r : RimResp) => match r.access.req with | .peer _ _ => true | _ => false
  let mine := s.mem.resp.filter isPeer
  let ops := mine.foldl (fun (ops : List PeerOp) r =>
    match ops.findIdx? fun o => o.isFor r.access with
    | some i => modAt ops i fun o => o.take r
    | none => ops) s.fab.ops
  ({ s with
    mem := { s.mem with resp := s.mem.resp.filter fun r => !isPeer r }
    fab := { s.fab with ops := ops } }).flushOps

/-- Perform lines for a peer: each goes to the rim of its die (R253). -/
def State.runLines (s : State) (l : List Access) : State := l.foldl (fun s a => s.access a .clean false) s

/-- Whether two requests come from one node, in one class, to one 4 KiB granule, so that the later one is performed after the
earlier (R257, order 3). -/
def PeerOp.before (o r : PeerOp) : Bool :=
  o.req.src == r.req.src && o.req.cls == r.req.cls && o.req.addr / 4096 == r.req.addr / 4096

/-- The first request whose lines may begin: none before it must be performed first (R257). -/
def nextOp : List PeerOp → List PeerOp → Option PeerOp
  | _, [] => none
  | past, o :: l => if !o.todo.isEmpty && !past.any fun x => x.before o then some o else nextOp (past ++ [o]) l

/-- The rims' answers are taken, and the requests of peers whose turn has come go on. The last argument bounds how many. -/
def State.servePeers (s : State) : Nat → State
  | 0 => s
  | n + 1 =>
    let s := s.takeAnswers
    match nextOp [] s.fab.ops with
    | some o => (State.runLines { s with fab := { s.fab with ops := s.fab.ops.map fun x => if x = o then { o with todo := [] } else x } } o.todo).servePeers n
    | none => s

/-- What the rims have answered to peers is passed on (R253, R257). -/
def State.settlePeers (s : State) : State := s.servePeers (s.fab.ops.length + 1)

/-- The accesses of a packet's lines: `k` lines from `addr`, writing the payload where it has one. -/
def peerLines (p : Packet) (addr k : Nat) (write : Bool) : List Access :=
  (List.range k).map fun i =>
    ⟨.peer p.src p.tag, p.cls, addr + 64 * i, if write then .write 0 (slice p.payload (64 * i) 64) else .read⟩

/-- Register a request and perform its lines. -/
def State.startOp (s : State) (o : PeerOp) (l : List Access) : State :=
  State.settlePeers { s with fab := { s.fab with ops := s.fab.ops ++ [{ o with left := o.left + l.length, todo := l }] } }

/-- A read or write packet breaks R252. -/
def spanBad (addr bytes : Nat) : Bool := addr % 64 != 0 || decide (4096 < addr % 4096 + bytes)

/-- `RD` at its destination (R252 to R254). -/
def State.serveRd (s : State) (p : Packet) : State :=
  if s.staleRequest p then s.respondErr p fsStale
  else if spanBad p.addr (64 * (p.len + 1)) then s.respondErr p fsAlignment
  else s.startOp ⟨p, 0, [], true, 0, []⟩ (peerLines p p.addr (p.len + 1) false)

/-- What is wrong with the packets of a write, in the order in which they came (R251, R252, R274): stale, a `LEN` out of range,
an alignment or a numbering that breaks R252. -/
def State.writeBad (s : State) (l : List Packet) : Nat :=
  if l.any s.staleRequest then fsStale
  else if l.any fun p => p.len = 0 ∨ 4 < p.len then fsType
  else if l.zipIdx.any (fun x => x.1.pidx ≠ x.2 ∨ (x.1.last = false ∧ x.1.len ≠ 4))
      ∨ spanBad (match l with | p :: _ => p.addr | [] => 0) (64 * (l.map Packet.len).sum) = true then fsAlignment
  else 0

/-- `WR` at its destination: once the last packet is here the write is refused, or performed packet by packet in `PIDX` order;
packet i carries the bytes from `ADDR` + 256 i on (R252, R253; log 22). One answer follows. -/
def State.serveWr (s : State) (p : Packet) : State :=
  let mine := fun (q : Packet) => q.src == p.src && q.tag == p.tag
  let l := s.fab.writes.filter mine ++ [p]
  if p.last then
    let s := { s with fab := { s.fab with writes := s.fab.writes.filter fun q => !mine q } }
    let bad := s.writeBad l
    if bad = 0 then
      s.startOp ⟨l.headD p, 0, [], true, 0, []⟩ (l.flatMap fun q => peerLines q (q.addr + 256 * q.pidx) q.len true)
    else s.respondErr p bad
  else { s with fab := { s.fab with writes := s.fab.writes ++ [p] } }

/-- An atomic at its destination: width in bytes, whether the old value returns (R255). -/
def State.serveAtomic (s : State) (p : Packet) (w : Nat) (fetch : Bool) : State :=
  if s.staleRequest p then s.respondErr p fsStale
  else if p.len ≠ 1 then s.respondErr p fsType
  else if p.addr % w ≠ 0 then s.respondErr p fsAlignment
  else
    let line := p.addr / 64 * 64
    s.startOp ⟨p, 0, [], true, 0, []⟩ [⟨.peer p.src p.tag, p.cls, line, .atomic (p.addr % 64) w (ofLe (slice p.payload 0 w)) fetch⟩]

/-- `KVSHIP` at the receiver: a page held in a window for its source takes the 256 bytes (R265, R266). -/
def State.serveShip (s : State) (p : Packet) : State :=
  let held := s.srv.ship.any fun e => e.node == p.src && (match kget s.srv.reqs e.ridx with
    | some r => (match kget s.parts r.part with
      | some q => decide (pageAddr q e.page ≤ p.addr ∧ p.addr + 256 ≤ pageAddr q e.page + q.man.pageU * unitBytes)
      | none => false)
    | none => false)
  if s.staleRequest p then s.respondErr p fsStale
  else if p.len ≠ 4 then s.respondErr p fsType
  else if !held then s.respondErr p fsKv
  else if p.addr % 256 ≠ 0 then s.respondErr p fsAlignment
  else s.startOp ⟨p, 0, [], true, 0, []⟩ (peerLines p p.addr 4 true)

/-! ## Barriers homed on the chip (R268, R269) -/

/-- `ADDR` of a barrier packet. -/
def barAddr (id round : Nat) : Nat := id % 1024 + 1024 * (round % 65536)

/-- A free tag, any of them that no outstanding transaction holds and that is not withheld (R258, R260). -/
def State.freeTag (s : State) : Nat := s.chooseFree 65536 (s.fab.txs.map FabTx.tag ++ s.fab.withheld.map Prod.fst)

/-- Whether a request of a class finds a tag (R258). -/
def State.tagAvailable (s : State) (cls : Nat) : Bool :=
  decide (s.fab.txs.length + s.fab.withheld.length < 65536)
    && (decide (cls < 2)
      || decide ((s.fab.txs.filter fun t => decide (2 ≤ t.cls)).length + (s.fab.withheld.filter fun w => decide (2 ≤ w.2.2)).length < 61440))

/-- A participant's rim takes a release: the pending arrival completes, or there is none and it is counted (R269). -/
def State.takeRelease (s : State) (home id round : Nat) : Bool × State :=
  match s.fab.arrivals.find? fun a => a.home == home && a.id == id && a.round == round with
  | some a => (true, s.endArrival a fsOk)
  | none => (false, { s with fab := { s.fab with strayRel := s.fab.strayRel + 1 } })

/-- Whether two users are one requester: a tile's stream engine, the serving engine or firmware (R257, R269). -/
def FabUser.sameRequester : FabUser → FabUser → Bool
  | .stream t c e _ _, .stream t' c' e' _ _ => t == t' && c == c' && e == e'
  | .serving _, .serving _ => true
  | .serving _, .shard _ _ => true
  | .shard _ _, .serving _ => true
  | .shard _ _, .shard _ _ => true
  | .firmware, .firmware => true
  | _, _ => false

/-- Whether an earlier request of the same requester waits at the rim, which keeps one requester's order (R257). -/
def State.userWaits (s : State) (u : FabUser) : Bool :=
  (s.fab.waiting.any fun r => u.sameRequester r.user) || (s.fab.arriveWait.any fun r => u.sameRequester r.user)
    || (s.fab.genHeld.any fun e => u.sameRequester e.2.user) || (s.fab.holds.any fun e => e.2.any fun r => u.sameRequester r.user)

/-- What the rim does with a request: it waits for the end of a change, of a hold or for a tag, ends at the rim (`ended`), or is
issued to its next hop (`issue`), which for the chip's own node is its own rim (R244, R245, R258, R274, R275, R281, R282). -/
def State.routeReq (s : State) (r : FabReq) (ended : Nat → State) (issue : Nat → State) : State :=
  if s.fab.change.isSome then { s with fab := { s.fab with waiting := s.fab.waiting ++ [r] } }
  else if s.inMyBlock r.node = false then ended fsNoRoute
  else if r.node = s.nodeId then
    if s.tagAvailable r.cls then issue selfHop else { s with fab := { s.fab with waiting := s.fab.waiting ++ [r] } }
  else match s.hopTo r.node with
    | none => ended fsNoRoute
    | some h =>
      match kget s.fab.holds h with
      | some l => { s with fab := { s.fab with holds := kput s.fab.holds h (l ++ [r]) } }
      | none =>
        if (s.openPorts h).isEmpty then
          if (s.portsToward h).all fun k => (s.port k).st == .quarantined && (s.port k).cause == 5 then
            { s with fab := { s.fab with genHeld := s.fab.genHeld ++ [(s.clk.tick, r)] } }
          else ended fsNoRoute
        else if s.tagAvailable r.cls then issue h
        else { s with fab := { s.fab with waiting := s.fab.waiting ++ [r] } }

/-- Send one barrier packet of this chip with a new tag as an outstanding transaction. -/
def State.sendOne (s : State) (user : FabUser) (ptype cls node addr hop : Nat) : State :=
  match s.pathPort hop node 0 with
  | some k =>
    let tag := s.freeTag
    let t : FabTx := ⟨tag, user, ptype, cls, node, addr, 0, hop, some (s.clk.tick, s.cfg.timeoutUs), []⟩
    ({ s.used with fab := { s.fab with txs := s.fab.txs ++ [t] } }).toEgress k ⟨ptype, cls, 0, true, 0, node, s.nodeId, tag, s.fab.gen, addr, 0, []⟩
  | none => s

/-- The home releases a completed round: one `BAR_RELEASE` to each listed node, its own rim at once (R269, step 3). -/
def State.releaseBarrier (s : State) (id : Nat) (b : Barrier) : State :=
  let s := { s with fab := { s.fab with barriers := kput s.fab.barriers id { b with round := (b.round + 1) % 65536, list := [] } } }
  b.list.foldl (fun s e =>
    if e.1 = s.nodeId then (s.takeRelease s.nodeId id b.round).2
    else s.routeReq ⟨.barrier id, 0x0A, b.cls, e.1, barAddr id b.round, 0, []⟩ (fun _ => s)
      (s.sendOne (.barrier id) 0x0A b.cls e.1 (barAddr id b.round))) s

/-- `BAR_ARRIVE` at the home (R269, steps 2 and 3). -/
def State.serveArrive (s : State) (p : Packet) : State :=
  let id := p.addr % 1024
  if s.staleRequest p then s.respondErr p fsStale
  else if p.len ≠ 0 then s.respondErr p fsType
  else match kget s.fab.barriers id with
    | none => s.respondErr p fsBarUnknown
    | some b =>
      if p.addr / 1024 % 65536 ≠ b.round then s.respondErr p fsBarRound
      else if b.list.any fun e => e.1 == p.src then s.respondErr p fsBarDuplicate
      else
        let b' := { b with list := b.list ++ [(p.src, p.tag)], oldest := if b.list.isEmpty then s.clk.tick else b.oldest }
        let s := ({ s with fab := { s.fab with barriers := kput s.fab.barriers id b' } }).respond p 0x12 0 0 true []
        if b'.list.length = b'.n then s.releaseBarrier id b' else s

/-- `BAR_RELEASE` at a participant (R269, steps 4 and 5). -/
def State.serveRelease (s : State) (p : Packet) : State :=
  if s.staleRequest p then s.respondErr p fsStale
  else if p.len ≠ 0 then s.respondErr p fsType
  else
    let r := s.takeRelease p.src (p.addr % 1024) (p.addr / 1024 % 65536)
    if r.1 then r.2.respond p 0x12 0 0 true [] else r.2.respondErr p fsBarUnknown

/-- A request packet at its destination. Serving-engine messages come as rows of their own. -/
def State.serveRequest (s : State) (p : Packet) : State :=
  match p.ptype with
  | 0x01 => s.serveRd p
  | 0x02 => s.serveWr p
  | 0x03 => s.serveAtomic p 4 false
  | 0x04 => s.serveAtomic p 8 false
  | 0x05 => s.serveAtomic p 4 true
  | 0x06 => s.serveAtomic p 8 true
  | 0x07 => s.serveShip p
  | 0x09 => s.serveArrive p
  | 0x0A => s.serveRelease p
  | _ => s

/-! ## Requests of this chip -/

/-- Bytes in chunks of 256. -/
def chunks : Nat → Bytes → List Bytes
  | 0, _ => []
  | n + 1, b => if b.isEmpty then [] else b.take 256 :: chunks n (b.drop 256)

/-- The packets of a transaction (R252, R265, Table 8.6). -/
def packetsOf (s : State) (r : FabReq) (tag : Nat) : List Packet :=
  let mk := fun (len : Nat) (last : Bool) (pidx addr : Nat) (pl : Bytes) =>
    (⟨r.ptype, r.cls, len, last, pidx, r.node, s.nodeId, tag, s.fab.gen, addr, 0, pl⟩ : Packet)
  match r.ptype with
  | 0x01 => [mk (r.granules - 1) true 0 r.addr []]
  | 0x02 =>
    let cs := chunks 8 r.data
    cs.zipIdx.map fun c => mk ((c.1.length + 63) / 64) (c.2 + 1 == cs.length) c.2 r.addr c.1
  | 0x07 => (chunks (r.data.length / 256 + 1) r.data).zipIdx.map fun c => mk 4 false 0 (r.addr + 256 * c.2) c.1
  | 0x09 | 0x0A => [mk 0 true 0 r.addr []]
  | _ => [mk ((r.data.length + 63) / 64) true 0 r.addr r.data]

/-- Whether a request is the keepalive of a pending arrival (R286). -/
def FabReq.keepalive (r : FabReq) : Bool := r.ptype == 0x09 && match r.user with | .barrier _ => true | _ => false

/-- A request ends at its own rim with a status (R251). -/
def State.endLocal (s : State) (r : FabReq) (st : Nat) : State :=
  let t : FabTx := ⟨65536, r.user, r.ptype, r.cls, r.node, r.addr, r.granules, selfHop, none, []⟩
  let s := s.freeRequest r.user
  if r.keepalive then s.endArrive t st else if r.ptype = 0x0A then s else s.endTx t st []

/-- A request's arrival becomes pending (R269, step 1). -/
def State.pendArrival (s : State) (r : FabReq) : State :=
  if r.ptype = 0x09 ∧ r.keepalive = false then
    { s with fab := { s.fab with arrivals := s.fab.arrivals ++
      [⟨r.node, r.addr % 1024, r.addr / 1024 % 65536, false, r.cls, r.user⟩] } }
  else s

/-- The rim issues a request: a tag is assigned, its packets go into the egress of their ports, or for the chip itself to
its own rim (R244, R246, R258). -/
def State.issue (s : State) (r : FabReq) (hop : Nat) : State :=
  let tag := s.freeTag
  let t : FabTx := ⟨tag, r.user, r.ptype, r.cls, r.node, r.addr, r.granules, hop,
    if hop = selfHop then none else some (s.clk.tick, s.cfg.timeoutUs), []⟩
  let s1 := (({ s.used with fab := { s.fab with txs := s.fab.txs ++ [t] } }).freeRequest r.user).pendArrival r
  (packetsOf s r tag).foldl (fun s p =>
    if hop = selfHop then s.serveRequest p
    else match s.pathPort hop r.node (if r.ptype = 0x09 ∨ r.ptype = 0x0A then 0 else p.addr) with
      | some k => s.toEgress k p
      | none => s) s1

/-- A request with its barrier round filled in by the rim (R269). -/
def State.withRound (s : State) (r : FabReq) : FabReq :=
  if r.ptype = 0x09 ∧ r.keepalive = false then { r with addr := barAddr r.addr (s.roundOf r.node (r.addr % 1024)) } else r

/-- The rim takes up a request that is the first of its requester's (R244, R245, R252, R258, R269, R274, R275, R281,
R282). -/
def State.fabTakeUp (s : State) (r : FabReq) : State :=
  let q := s.withRound r
  if (r.ptype = 0x01 ∧ (r.granules = 0 ∨ 32 < r.granules)) ∨ (r.ptype = 0x02 ∧ (r.data.isEmpty ∨ 2048 < r.data.length ∨ r.data.length % 64 ≠ 0)) then
    s.endLocal r fsAlignment
  else if r.ptype = 0x09 ∧ r.keepalive = false ∧ 256 ≤ s.fab.arrivals.length then
    { s with fab := { s.fab with arriveWait := s.fab.arriveWait ++ [r] } }
  else s.routeReq r (s.endLocal r) (s.issue q)

/-- A fabric request reaches the requester's rim: it waits behind an earlier request of its requester that waits there
(R257). -/
def State.fabRequest (s : State) (r : FabReq) : State :=
  if s.userWaits r.user then { s with fab := { s.fab with waiting := s.fab.waiting ++ [r] } } else s.fabTakeUp r

/-- Try again every request that waits at the rim for a tag or for the end of a change, in order (R258, R275). -/
def State.rimRetry (s : State) : State :=
  s.fab.waiting.foldl State.fabRequest { s with fab := { s.fab with waiting := [] } }

/-- Try again every arrive that waits for a place among the pending ones (R269). -/
def State.arriveRetry (s : State) : State :=
  s.fab.arriveWait.foldl State.fabTakeUp { s with fab := { s.fab with arriveWait := [] } }

/-- The requests held for a generation are looked at again when the ports of a hop change (R282). -/
def State.genRetry (s : State) (hop : Nat) : State :=
  let l := s.fab.genHeld
  let mine := fun (e : Nat × FabReq) => s.hopTo e.2.node == some hop
  if (s.portsToward hop).all fun k => (s.port k).st == .quarantined && (s.port k).cause == 5 then s
  else ((l.filter mine).foldl (fun (s : State) e => s.fabTakeUp e.2) { s with fab := { s.fab with genHeld := l.filter fun e => !mine e } }).rimRetry

/-- After transactions ended: what waited for their tags goes on. -/
def State.afterTx (s : State) : State := s.arriveRetry.rimRetry

/-- A port has changed its state: requests held for a generation may go on or end (R282). -/
def State.portMoved (s : State) (k : Nat) : State :=
  match s.hopOf k with
  | some h => s.genRetry h
  | none => s

/-- A port opens: the set of `OPEN` ports toward its hop changes (R279, R281). -/
def State.portOpens (s : State) (k : Nat) : State :=
  let t := s.modPort k fun p => { p with st := .opened, cause := 0 }
  match s.hopOf k with
  | some h => (t.portsChanged h).genRetry h
  | none => t

/-- A quarantine: its notice, and for causes 1 to 4 one record with both charters (R280). -/
def State.quarantine (s : State) (k cause : Nat) : State :=
  let s := s.modPort k fun p => { p with st := .quarantined, cause := cause }
  let p := s.port k
  let t := if cause = 5 ∨ cause = 0 then s
    else s.stageGroup [(0x0009, false, pack 32 [(0, 0, 8, 0), (1, 0, 8, k), (2, 0, 8, cause)]), (0x0009, true, p.sent), (0x0009, true, p.got)]
  t.notice 0x0008 (if cause = 5 ∨ cause = 0 then 0xFFFFFFFF else if t.evr.nextSeq = s.evr.nextSeq then 0xFFFFFFFF
    else (t.evr.nextSeq + 2 ^ 32 - 3) % 2 ^ 32) []

/-- Both verdicts are in: the port opens, or both ends are quarantined with their own causes (R279). -/
def State.judge (s : State) (k : Nat) : State :=
  let p := s.port k
  match p.mine, p.far with
  | some true, some true => s.portOpens k
  | some m, some _ => if p.st = .quarantined then s else (s.quarantine k (if m then 0 else p.cause)).portMoved k
  | _, _ => s

/-- A charter exchange starts again on a board port that is `OPEN` or quarantined (R275, R280). -/
def State.recharter (s : State) (k : Nat) : State :=
  let p := s.port k
  if p.st = .opened then
    let h := s.hopOf k
    let s := s.sendCharter k
    match h with | some h => s.portsChanged h | none => s
  else if p.st = .quarantined then s.modPort k fun p => { p with sent := s.charter k, mine := none, far := none }
  else s

end Sys2Proof.Machine
end

