-- ==== Sys2Proof/Machine/PowerOps.lean ====
section
/-! DEFINITION. The power controller and Metrizor: ceilings and changes of state, dips, throttles, the stop of the core clocks, planning and applying a vintage (R346 to R372). -/

namespace Sys2Proof.Machine

/-- `VINTAGE_UNKNOWN`. -/
def stVintage : Nat := 0x0601

/-! ## Ceilings (R347, R351) -/

/-- The power controller changes states once tasting stage 3 has brought the root up, while the core clocks run (R378, R364). -/
def State.pwrActive (s : State) : Bool :=
  !s.pwr.stopped && !s.life.waiting && (s.life.dev == .opened || s.life.dev == .corked || (s.life.dev == .tasting && decide (3 < s.life.stage)))

/-- The lowest of the ceilings that act whether or not a dip holds: thermal, brake, vintage (Table 12.3). -/
def Power.hardCeiling (p : Power) : Nat := max (max p.cThm (if p.brake then 4 else 0)) p.cVin

/-- The state that the ceilings ask for. During a dip and the 50 µs after it the power ceiling begins no change and
nothing rises (R358). -/
def Power.goal (p : Power) : Nat :=
  if p.dip || p.calm.isSome then max p.cur p.hardCeiling else max p.cPow p.hardCeiling

/-- Begin the change that the ceilings ask for: one change at a time, but a lowering abandons a rise (R347). -/
def Power.follow (p : Power) : Power :=
  match p.target with
  | none => if p.goal = p.cur then p else { p with target := some p.goal }
  | some t => if t < p.cur ∧ t < p.goal then { p with target := some p.goal } else p

/-- The ceilings have changed. -/
def State.follow (s : State) : State := if s.pwrActive then { s with pwr := s.pwr.follow } else s

/-! ## Dips (R355 to R359) -/

/-- Nominal voltages in mV (Table 12.2). -/
def nominalMv (rail : Nat) : Nat := [1800, 1200, 900, 3300].getD rail 1

/-- Warning levels in mV (Table 12.2). -/
def warningMv (rail : Nat) : Nat := [1710, 1140, 855, 3135].getD rail 0

/-- Whether a reading lies lower relative to nominal than the lowest so far. -/
def lowerThan (mv rail mv' rail' : Nat) : Bool := decide (mv * nominalMv rail' < mv' * nominalMv rail)

/-- A reading of a rail during an episode. -/
def DipReport.see (e : DipReport) (rail mv : Nat) : DipReport :=
  if lowerThan mv rail e.lowMv e.lowRail then { e with lowMv := mv, lowRail := rail } else e

/-- A rail fell below its warning level during an episode. -/
def DipReport.cross (e : DipReport) (rail mv : Nat) : DipReport :=
  { e.see rail mv with rails := e.rails ||| 2 ^ rail }

/-- Two reports in one: every rail, the lowest voltage, the longest episode, the sum of episodes (Table 12.5). -/
def DipReport.merge (a b : DipReport) : DipReport :=
  { (a.see b.lowRail b.lowMv) with rails := a.rails ||| b.rails, durUs := max a.durUs b.durUs, merged := a.merged + b.merged }

/-- Bytes 16 to 31 of Table 12.5. -/
def DipReport.bytes (e : DipReport) : Bytes :=
  pack 16 [(0, 0, 4, e.rails), (2, 0, 16, e.lowMv), (4, 0, 32, e.durUs), (8, 0, 32, e.merged)]

/-- Body of a dip record. -/
def DipReport.body (e : DipReport) : Bytes := le 1 0 ++ e.bytes

/-- Ticks in a second. -/
def ticksPerSec : Nat := 100000000

/-- The record and the notice of a dip are sent. -/
def State.sendDip (s : State) (e : DipReport) : State :=
  State.report { s with pwr := { s.pwr with merged := none, dipNotice := some s.clk.tick } } 0x0007 e.body 0x0006 e.bytes

/-- An episode has ended: reported now, or merged where it began within 1 s of the last notice (R359). -/
def State.endEpisode (s : State) (e : DipReport) (began : Nat) : State :=
  let m := match s.pwr.merged with | some x => x.merge e | none => e
  match s.pwr.dipNotice with
  | some n =>
    if began < n + ticksPerSec ∧ s.clk.tick < n + ticksPerSec then { s with pwr := { s.pwr with merged := some m } } else s.sendDip m
  | none => s.sendDip m

/-- A merged record still waiting is staged before a reset with warm reach; its notice is discarded (R359). -/
def State.flushDip (s : State) : State :=
  match s.pwr.merged with
  | some e => State.stage { s with pwr := { s.pwr with merged := none } } 0x0007 e.body
  | none => s

/-! ## Throttles (R362) -/

/-- The summary of Table 12.7. -/
def thermalBytes (p : Power) (begin_ : Bool) (src where_ : Nat) (temp : Int) : Bytes :=
  pack 16 [(0, 0, 1, b2n begin_), (0, 1, 2, src), (1, 0, 8, where_), (2, 0, 16, toTwos 16 temp), (4, 0, 3, p.cur)]

/-- The largest of a list of temperatures with its place, the first of equals. -/
def hottest (l : List Int) : Nat × Int :=
  l.zipIdx.foldl (fun a e => if a.2 < e.1 then (e.2, e.1) else a) (0, l.headD 0)

/-- Junction sensors on each die (R360). -/
def sensorsPerDie : Nat := 16

/-- The hottest sensor: its die and its temperature. -/
def hottestDie (l : List Int) : Nat × Int := ((hottest l).1 / sensorsPerDie, (hottest l).2)

/-- What a notice names: the hottest die sensor, or the hottest stack where no die reaches its limit (Table 12.7). -/
def Power.source (p : Power) (dieLimit : Int) : Nat × Nat × Int :=
  let d := hottestDie p.tj
  let k := hottest p.stk
  if dieLimit ≤ d.2 then (0, d.1, d.2) else (1, k.1, k.2)

/-- The thermal ceiling takes a value; a throttle begins when it leaves `P0` and ends when it returns (R362). -/
def State.setThermal (s : State) (c : Nat) (src : Nat × Nat × Int) : State :=
  let was := s.pwr.cThm
  let t := State.follow { s with pwr := { s.pwr with cThm := c, throttle := decide (0 < c) } }
  if was = 0 ∧ 0 < c then
    let b := thermalBytes s.pwr true src.1 src.2.1 src.2.2
    t.report 0x0008 b 0x0007 b
  else if 0 < was ∧ c = 0 then
    let b := thermalBytes s.pwr false src.1 src.2.1 src.2.2
    t.report 0x0008 b 0x0007 b
  else t

/-- A lowering under Table 12.6 to state `c`, counted where it lowers the ceiling. -/
def State.lowerThermal (s : State) (c : Nat) (src : Nat × Nat × Int) : State :=
  if s.pwr.cThm < c then State.setThermal { s with pwr := { s.pwr with nThm := satAdd 32 s.pwr.nThm 1 } } c src else s

/-! ## The stop of the core clocks (R363, R364) -/

/-- The core clocks stop, every link drops and every Dvoriq port is `IDLE`; the manager core saves the operating time
and writes the record (R364, R429). -/
def State.stopCore (s : State) (body : Bytes) : State :=
  State.stage { s with
    pwr := { s.pwr with stopped := true, target := none }
    cxl := { s.cxl with up0 := false, up1 := false }
    fab := { s.fab with ports := s.fab.ports.map fun (e : Nat × Port) => (e.1, { e.2 with st := PortState.idle }) }
    clk := { s.clk with opSaved := s.clk.opSec } } 0x0007 body

/-- Whether a low pulse of a filtered pin acts: shorter than 40 ns never, 100 ns or longer always, between them either
way (R453; log 5). -/
def State.pulseActs (s : State) (ns : Nat) : Bool :=
  if ns < 40 then false else if ns < 100 then Config.freeBit s.free else true

/-! ## Samples of the monitors (R365 to R367) -/

/-- Insert into a rising list. -/
def insertInt (x : Int) : List Int → List Int
  | [] => [x]
  | y :: ys => if x ≤ y then x :: y :: ys else y :: insertInt x ys

/-- A list in rising order. -/
def sortInts (l : List Int) : List Int := l.foldr insertInt []

/-- Twice the median of a list: of an even count the mean of the middle two. -/
def median2 (l : List Int) : Int :=
  let m := sortInts l
  m.getD ((l.length - 1) / 2) 0 + m.getD (l.length / 2) 0

/-- Whether monitor m is a ring oscillator (R365). -/
def isRo (m : Nat) : Bool := decide (192 ≤ m % 256)

/-- Twice the median drift of a die's ring oscillators in a sample. -/
def roMedian2 (drifts : List Int) (die : Nat) : Int := median2 ((drifts.drop (256 * die + 192)).take 64)

/-- Whether a replica's sample is invalid (R367). -/
def Metrizor.bad (z : Metrizor) (ro2 : Int) (m : Nat) (x : Int) : Bool :=
  decide (x < -200 ∨ 2000 < x ∨ 600 < (2 * x - ro2).natAbs)
    || (match (kget z.hist m).getD [] with | y :: _ => decide (100 < (x - y).natAbs) | [] => false)

/-- Take one monitor's sample: a valid one joins the last six; a replica is left out until three in a row are valid. -/
def Metrizor.takeOne (z : Metrizor) (ro2 : Int) (m : Nat) (x : Int) : Metrizor :=
  if isRo m then z
  else if z.bad ro2 m x then { z with invalid := kput z.invalid m 0 }
  else { z with
    hist := kput z.hist m ((x :: (kget z.hist m).getD []).take 6)
    invalid := match kget z.invalid m with
      | some n => if 3 ≤ n + 1 then kdel z.invalid m else kput z.invalid m (n + 1)
      | none => z.invalid }

/-- Take a sample of every monitor. -/
def Metrizor.take (z : Metrizor) (drifts : List Int) : Metrizor :=
  let ros := (List.range 4).map (roMedian2 drifts)
  { drifts.zipIdx.foldl (fun z e => z.takeOne (ros.getD (e.2 / 256) 0) e.2 e.1) z with last := drifts, deferred := none }

/-- Seconds between samples (R366). -/
def samplePeriod : Nat := 600

/-- Whether a sample deferred earlier can no longer be taken: its 600 s are over. -/
def Metrizor.late (z : Metrizor) : Bool :=
  match z.deferred with | some d => decide (d + samplePeriod ≤ z.openSec) | none => false

/-! ## Planning (R368, R369) -/

/-- Operating hours that Metrizor counts: time in `OPEN` (R429). -/
def Metrizor.hours (z : Metrizor) : Nat := z.openSec / 3600

/-- Invalid replicas of a die. -/
def Metrizor.invalidOn (z : Metrizor) (die : Nat) : Nat := (z.invalid.filter fun e => e.1 / 256 == die).length

/-- The larger of a list of integers; 0 for none. -/
def maxInts (l : List Int) : Int := match l with | [] => 0 | x :: xs => xs.foldl max x

/-- Twice w of a die: the largest median of the last six valid drifts over its valid replicas. With no replica sampled
yet it is 0 (log 14). -/
def Metrizor.worst2 (z : Metrizor) (die : Nat) : Int :=
  maxInts ((z.hist.filter fun e => e.1 / 256 == die && (kget z.invalid e.1).isNone).map fun e => median2 e.2)

/-- Highest base voltage of a die in a state over the four domains, in µV (R346). -/
def topBase (die st : Nat) : Nat := ((List.range 4).map fun v => Config.baseUv die v st).foldl max 0

/-- 0.850 V (R350). -/
def vMaxUv : Nat := 850000

/-- Twenty times need in µV: 10.0 mV + k · w / 10 with w doubled. -/
def need20 (die st : Nat) (w2 : Int) : Int := 200000 + Config.driftUv die st * w2

/-- A guard band in 0.1 mV: need rounded up to 2.5 mV, no less than the current one, at most 50.0 mV (R368). -/
def guardOf (need : Int) (cur : Nat) : Nat := min 500 (max cur (25 * ((need + 49999) / 50000).toNat))

/-- The largest guard band that fits under 0.850 V, in 0.1 mV, by steps of 2.5 mV. -/
def fitting (die st : Nat) : Nat := min 500 (25 * ((vMaxUv - topBase die st) / 2500))

/-- One die and state of a plan: guard band, retired, exhausted. -/
def planCell (z : Metrizor) (die st : Nat) : Nat × Bool × Bool :=
  let w2 := z.worst2 die
  let n := need20 die st w2
  let g := if 32 < z.invalidOn die then 500 else guardOf n (z.current.guard.getD (5 * die + st) 100)
  let out := decide (vMaxUv < topBase die st + 100 * g) || decide (1000000 < n)
  if st = 4 then (if out then min g (fitting die 4) else g, false, out) else (g, out, false)

/-- Square root rounded down, of a number below 2^(2 n): bit by bit from the top. -/
def isqrtGo (v : Nat) : Nat → Nat → Nat
  | 0, r => r
  | n + 1, r => if (r + 2 ^ n) * (r + 2 ^ n) ≤ v then isqrtGo v n (r + 2 ^ n) else isqrtGo v n r

/-- Square root rounded down. -/
def isqrt (v : Nat) : Nat := isqrtGo v (v.log2 / 2 + 1) 0

/-- t^0.25 in units of 2^-16, rounded down. -/
def fourthRoot (t : Nat) : Nat := isqrt (isqrt (t * 2 ^ 64))

/-- The planning drifts of a die: hours and doubled w, of the vintages held and of the one being planned. -/
def Metrizor.points (z : Metrizor) (die : Nat) : List (Nat × Int) :=
  ((z.current :: z.planned.toList ++ z.past).filter fun v => v.epoch != 0).map (fun v => (v.planHrs, v.worst.getD die 0))
    ++ [(z.hours, z.worst2 die)]

/-- Remaining margin of a die and state in hours: the fit w = a t^0.25 by least squares, solved for the t at which need
reaches its limit (R369; fractions rounded down, log 14). -/
def Metrizor.remain (z : Metrizor) (die st : Nat) : Nat :=
  let ps := z.points die
  let wr : Int := (ps.map fun p => p.2 * (fourthRoot p.1 : Int)).sum
  let rr : Nat := (ps.map fun p => fourthRoot p.1 * fourthRoot p.1).sum
  let lim : Int := (min 50000 (vMaxUv - topBase die st) : Nat)
  let num : Int := (lim - 10000) * 20 * rr
  let den : Int := Config.driftUv die st * 65536 * wr
  if den ≤ 0 then 1000000
  else min 1000000 (num.toNat ^ 4 / den.toNat ^ 4 - z.hours)

/-- The monitors' states at planning (R365). -/
def monitors : List Nat := List.range 1024

/-- The new vintage (R368). -/
def Metrizor.newVintage (z : Metrizor) (epoch : Nat) : Vintage :=
  let cells := (List.range 20).map fun i => planCell z (i / 5) (i % 5)
  { epoch := epoch
    planHrs := z.hours
    exhaust := cells.any fun c => c.2.2
    invalid := z.invalid.length
    skipped := z.skipped
    guard := cells.map fun c => c.1
    retired := (List.range 4).map fun d => ((List.range 5).map fun st => if (cells.getD (5 * d + st) (0, false, false)).2.1 then 2 ^ st else 0).sum
    remain := (List.range 20).map fun i => z.remain (i / 5) (i % 5)
    worst := (List.range 4).map z.worst2
    drift := z.last
    bad := z.invalid.map fun e => e.1 }

/-- Epoch of the next plan: one above the last (R368). -/
def Metrizor.nextEpoch (z : Metrizor) : Nat := ((match z.planned with | some v => v.epoch | none => z.current.epoch) + 1) % 2 ^ 32

/-- Body of a vintage record. -/
def vintageBody (sub epoch die : Nat) : Bytes := packArgs 32 [(1, sub), (4, epoch), (1, die)]

/-- A record that names no die carries a free byte there (log 5). -/
def State.vintageRecord (s : State) (sub epoch : Nat) : State := s.used.stage 0x000E (vintageBody sub epoch (s.freshNat % 256))

/-- Past vintages kept: eight records in flash with the current and the planned one (R372). -/
def pastKept : Nat := 6

/-- A new plan takes the place of an older one not applied, and is recorded (R368, R370). -/
def State.recordPlan (s : State) : State :=
  let z := s.mtz
  let e := z.nextEpoch
  State.vintageRecord { s with mtz := { z with
    planned := some (z.newVintage e), past := (z.planned.toList ++ z.past).take pastKept, planAt := z.hours, skipped := 0 } } 0 e

/-- Plan a vintage: records, and the notice (R368). -/
def State.planVintage (s : State) : State :=
  let z := s.mtz
  let e := z.nextEpoch
  let t := s.recordPlan
  let seq := evseqOf s t
  let t := ((List.range 4).filter fun d => decide (32 < z.invalidOn d)).foldl (fun t d => t.stage 0x000E (vintageBody 2 e d)) t
  let t := match (List.range 4).find? fun d => (planCell z d 4).2.2 with
    | some d => t.stage 0x000E (vintageBody 3 e d)
    | none => t
  t.notice 0x000E seq []

/-- The vintage ceiling of a plan: the highest state retired on no die (R351, R370). -/
def Vintage.ceiling (v : Vintage) : Nat :=
  ((List.range 4).find? fun st => v.retired.all fun r => r / 2 ^ st % 2 == 0).getD 4

/-- Apply the planned vintage where there is one, and set the vintage ceiling; a retired current state is left before
anything goes on (R370, R381). -/
def State.applyVintage (s : State) : State :=
  match s.mtz.planned with
  | some v =>
    let t := { s with
      mtz := { s.mtz with current := v, planned := none, past := (s.mtz.current :: s.mtz.past).take (pastKept + 1) }
      pwr := { s.pwr with
        cVin := v.ceiling
        cur := max s.pwr.cur v.ceiling
        target := if s.pwr.cur < v.ceiling then none else s.pwr.target } }
    (t.vintageRecord 1 v.epoch).follow
  | none => State.follow { s with pwr := { s.pwr with cVin := s.mtz.current.ceiling } }

end Sys2Proof.Machine
end

