-- ==== Sys2Proof/Machine/Firmware.lean ====
section
/-! DEFINITION. Firmware images and banks: validity, the bank selector, measurements, and the commands that write and select a bank (R385 to R390, R420 to R423). -/

namespace Sys2Proof.Machine

/-- `IMAGE_INVALID`. -/
def stImage : Nat := 0x0600

/-! ## Images (R420, R421) -/

/-- Fields of the image header (Table 15.2). -/
def imageFields : List (Nat × Nat × Nat) :=
  [(0, 0, 32), (4, 0, 16), (6, 0, 16), (8, 0, 32), (12, 0, 32), (16, 0, 7), (16, 7, 1), (24, 0, 512)]

/-- Bytes of the header. -/
def headerBytes : Nat := 256

/-- Bytes of an ML-DSA-65 signature. -/
def sigBytes : Nat := 3309

def imgCclass (b : Bytes) : Nat := fld b 6 0 16
def imgVersion (b : Bytes) : Nat := fld b 8 0 32
def imgSvn (b : Bytes) : Nat := fld b 16 0 7
def imgOwnSig (b : Bytes) : Bool := fld b 16 7 1 == 1

/-- Bytes that the Sceolanex signature covers: header and body. -/
def imgSigned (b : Bytes) : Nat := headerBytes + fld b 12 0 32

/-- The length that the header gives. -/
def imgLength (b : Bytes) : Nat := imgSigned b + sigBytes + if imgOwnSig b then sigBytes else 0

/-- The owner co-signature is there and verifies under the current owner key. -/
def imgCosigned (b : Bytes) (owner : Option Bytes) : Bool :=
  match owner with
  | some k =>
    imgOwnSig b && slice b 24 64 == shake256 k 64
      && Config.verify k (ascii "PQT-FW-OWN") (b.take (imgSigned b + sigBytes)) (slice b (imgSigned b + sigBytes) sigBytes)
  | none => false

/-- Whether an image is valid (R421). -/
def imageValid (b : Bytes) (floor : Nat) (cosign : Bool) (owner : Option Bytes) : Bool :=
  decide (headerBytes ≤ b.length) && fld b 0 0 32 == 0x57465150 && fld b 4 0 16 == 1 && reservedZero (b.take headerBytes) imageFields
    && b.length == imgLength b
    && Config.verify Config.firmwareKey (ascii "PQT-FW") (b.take (imgSigned b)) (slice b (imgSigned b) sigBytes)
    && decide (floor ≤ imgSvn b) && (!cosign || imgCosigned b owner)

/-- The image in a bank. -/
def State.bankImage (s : State) (b : Nat) : Bytes := s.life.banks.getD b []

/-- Whether the image in a bank is valid now. -/
def State.bankValid (s : State) (b : Nat) : Bool := imageValid (s.bankImage b) s.life.svnFloor s.ident.cosign s.ident.owner

/-! ## The bank selector (R386) -/

/-- `AOK` or `BOK`. -/
def Selector.ok (x : Selector) (b : Nat) : Bool := if b = 0 then x.aok else x.bok

/-- Set or clear `AOK` or `BOK`. -/
def Selector.setOk (x : Selector) (b : Nat) (v : Bool) : Selector := if b = 0 then { x with aok := v } else { x with bok := v }

/-- Bytes 0 to 59 of a copy (Table 13.7). -/
def Selector.body (x : Selector) : Bytes :=
  pack 60 [(0, 0, 32, x.sseq), (4, 0, 1, x.next), (4, 1, 1, b2n x.trial), (4, 2, 2, x.tries), (4, 4, 1, b2n x.aok), (4, 5, 1, b2n x.bok)]

/-- A copy as it lies in flash. -/
def Selector.bytes (x : Selector) : Bytes := x.body ++ le 4 x.crc

/-- Whether the `CRC` of a copy checks (R463). -/
def Selector.checks (x : Selector) : Bool := x.crc == crc32 x.body

/-- A copy with the `CRC` of its bytes. -/
def Selector.sealed (x : Selector) : Selector := { x with crc := crc32 x.body }

/-- The copy in use becomes the one whose `CRC` checks and whose `SSEQ` is higher. -/
def Life.pickSel (x : Life) : Life :=
  if x.selOld.checks && (!x.sel.checks || decide (x.sel.sseq < x.selOld.sseq)) then { x with sel := x.selOld, selOld := x.sel } else x

/-- Change the selector: the other copy is written with `SSEQ` one higher. -/
def State.writeSel (s : State) (x : Selector) : State :=
  let new := Selector.sealed { x with sseq := (s.life.sel.sseq + 1) % 2 ^ 32 }
  { s with life := { s.life with sel := new, selOld := s.life.sel } }

/-! ## Records and information words -/

/-- Body of a `FIRMWARE` record about a bank (Table 15.7). -/
def State.firmwareBody (s : State) (sub b : Nat) : Bytes :=
  packArgs 32 [(1, sub), (1, b), (4, imgVersion (s.bankImage b)), (1, imgSvn (s.bankImage b))]

/-- `CTL_FWINFO` of the running bank (Table 16.6). -/
def State.fwInfo (s : State) : BitVec 32 :=
  BitVec.ofNat 32 (ofLe (pack 4 [(0, 0, 1, s.life.bank), (0, 1, 1, b2n s.life.trial), (0, 2, 1, b2n s.life.fallback), (0, 3, 7, s.life.svnFloor),
    (2, 0, 16, imgCclass (s.bankImage s.life.bank))]))

/-- `CTL_FWINFO` follows what it shows. -/
def State.showFw (s : State) : State := { s with regs := { s.regs with fwinfo := s.fwInfo } }

/-- The measurements of a bank about to run (Table 15.3); what the spec does not encode is left open (log 8). -/
def State.measure (s : State) (b : Nat) : List Bytes :=
  let img := s.bankImage b
  [Config.managerRom,
    img.take (imgSigned img),
    Config.firmwareKey ++ (if imgOwnSig img then s.ident.owner.getD [] else []),
    Config.securityBytes b s.life.svnFloor s.ident.owner.isSome s.ident.cosign s.life.straps,
    s.plan.getD Config.noPlan].map fun m => shake256 m 64

/-! ## Stage 1: the choice of the bank (R387) -/

/-- Run a bank: its version and information words, and the measurements. -/
def State.runBank (s : State) (b : Nat) (fallback : Bool) : State :=
  let s := { s with life := { s.life with bank := b, fallback := fallback, trial := s.life.sel.trial && s.life.sel.next == b && !fallback } }
  { s with
    regs := { s.regs with fwver := BitVec.ofNat 32 (imgVersion (s.bankImage b)), fwinfo := s.fwInfo }
    ident := { s.ident with measurements := s.measure b } }

/-- A bank that may run: marked complete, and valid now. -/
def State.bankRuns (s : State) (b : Nat) : Bool := s.life.sel.ok b && s.bankValid b

/-- A bank marked complete that fails now loses its mark (R387). -/
def State.markBad (s : State) (b : Nat) : State := if s.life.sel.ok b then s.writeSel (s.life.sel.setOk b false) else s

/-- The bank tried first, and whether it is already the fallback, with what is written about the trial. -/
def State.firstBank (s : State) : Nat × Bool × State :=
  let x := s.life.sel
  if x.trial ∧ 2 ≤ x.tries then (1 - x.next, true, s.writeSel { x with trial := false, tries := 0, next := 1 - x.next })
  else if x.trial then (x.next, false, s.writeSel { x with tries := x.tries + 1 })
  else (x.next, false, s)

/-- Choose the bank, by the copy of the selector that R386 names; the flag tells whether one runs. -/
def State.chooseBank (s : State) : Bool × State :=
  match State.firstBank { s with life := s.life.pickSel } with
  | (b, fb, s) =>
    if s.bankRuns b then (true, s.runBank b fb)
    else
      let s := s.markBad b
      if s.bankRuns (1 - b) then (true, s.runBank (1 - b) true) else (false, s.markBad (1 - b))

/-! ## FW_BANK_WRITE and FW_BANK_SELECT (R336, R388, R390) -/

/-- The bank that is not running. -/
def State.otherBank (s : State) : Nat := 1 - s.life.bank

/-- `FW_BANK_WRITE` after the common checks: one at a time; the image is read, the bank's mark is cleared, the bank
erased and programmed. Its check follows (BANK_WRITE_COMPLETION). -/
def doFwBankWrite (c : Cmd) (s : State) : State :=
  if s.life.writing.isSome then refuse c stBusy s
  else match c.data with
    | .ok d =>
      let n := fld c.desc 16 0 24
      let img := (d ++ List.replicate n 0).take n
      let b := s.otherBank
      let t := s.writeSel (s.life.sel.setOk b false)
      State.keepRunning { t with life := { t.life with banks := setAt t.life.banks b img, writing := some (c.running s, b, img) } } c
    | _ => refuse c stBuffer s

/-- FW_BANK_WRITE (R390). -/
def execFwBankWrite (c : Cmd) (s : State) : Host.Outcome State Fault Refusal := .next (runCmd 0x0604 c doFwBankWrite s)

/-- The bank is read back: a valid image sets its mark and is recorded, any other leaves it marked invalid. -/
def State.bankWritten (s : State) (r : Running) (b : Nat) : State :=
  let s := { s with life := { s.life with writing := none } }
  if s.bankValid b then
    let t := s.writeSel (s.life.sel.setOk b true)
    let u := t.stage 0x0011 (t.firmwareBody 0 b)
    u.finishRec r stOk (evseqOf t u) (le 1 b)
  else s.finishRun r stImage []

/-- BANK_WRITE_COMPLETION (R390). -/
def execBankWriteCompletion (s : State) : Host.Outcome State Fault Refusal :=
  match s.life.writing with
  | some (r, b, _) => .next (s.bankWritten r b)
  | none => .next s

/-- The selector that a selection of bank `b` writes (R388). -/
def State.selectBank (s : State) (b : Nat) : State :=
  if b = s.life.bank then s.writeSel { s.life.sel with next := b, trial := false }
  else s.writeSel { s.life.sel with next := b, trial := true, tries := 0 }

/-- `FW_BANK_SELECT` after the common checks. -/
def doFwBankSelect (c : Cmd) (s : State) : State :=
  let b := fld c.desc 16 0 1
  if b ≠ s.life.bank ∧ s.life.writing.isSome = true then refuse c stBusy s
  else if b ≠ s.life.bank ∧ s.life.sel.ok b = false then refuse c stImage s
  else
    let t := s.selectBank b
    doneFrom c [] t (t.stage 0x0011 (t.firmwareBody 1 b))

/-- FW_BANK_SELECT (R388). -/
def execFwBankSelect (c : Cmd) (s : State) : Host.Outcome State Fault Refusal := .next (runCmd 0x0605 c doFwBankSelect s)

end Sys2Proof.Machine
end

