-- ==== Sys2Proof/Machine/Mailbox.lean ====
section
/-! DEFINITION. The mailbox interface: doorbells, fetching and starting commands, promotion, moderation, held notices, and the device and ring commands of Table 11.6. -/

namespace Sys2Proof.Machine

/-! ## Doorbells (R309, R443) -/

/-- A doorbell write that is dropped counts (R443). -/
def State.dropDoorbell (s : State) : State := { s with regs := { s.regs with dbDrop := satAdd 32 s.regs.dbDrop 1 } }

/-- Whether pair `n` is live: created, or armed for pair 0, in a state in which it is served (R443, R441). -/
def State.pairLive (s : State) (n : Nat) : Bool :=
  (kget s.tmi.pairs n).isSome && (if n = 0 then s.regs.armed && (s.life.dev == .opened || s.life.dev == .corked) else s.life.dev == .opened)

/-- The new command tail of a pair; commands added by it wait under this doorbell's place in the order (R309, R312). -/
def Pair.ring (p : Pair) (tail order : Nat) : Pair :=
  { p with tail := tail, rings := if tail = p.tail then p.rings else p.rings ++ [(tail, order)] }

/-- A command doorbell with index `v` on a live pair; `value` is what was written. -/
def State.ringCommand (s : State) (n v value : Nat) : State :=
  match kget s.tmi.pairs n with
  | some p =>
    if p.n ≤ v then s.ringError 0 n value
    else { s with tmi := { s.tmi with pairs := kput s.tmi.pairs n (p.ring v s.tmi.order), order := s.tmi.order + 1 } }
  | none => s

/-- A completion doorbell with index `v` on a live pair. -/
def State.ringCompletion (s : State) (n v value : Nat) : State :=
  match kget s.tmi.pairs n with
  | some p =>
    if p.n ≤ v then s.ringError 1 n value
    else { s with tmi := { s.tmi with pairs := kput s.tmi.pairs n { p with qhead := v } } }
  | none => s

/-- A write of a command doorbell: held for pair 0 in `TASTING`, the last value kept; dropped and counted on a pair that
is not live (R443). The index stands in bits [11:0] (R442). -/
def State.commandDoorbell (s : State) (n value : Nat) : State :=
  if n = 0 ∧ s.life.dev = .tasting then { s with regs := { s.regs with heldCdb := some value } }
  else if s.pairLive n then s.ringCommand n (value % 4096) value
  else s.dropDoorbell

/-- A write of a completion doorbell (R442, R443). -/
def State.completionDoorbell (s : State) (n value : Nat) : State :=
  if n = 0 ∧ s.life.dev = .tasting then { s with regs := { s.regs with heldQdb := some value } }
  else if s.pairLive n then s.ringCompletion n (value % 4096) value
  else s.dropDoorbell

/-- The doorbells of pair 0 held during `TASTING` are acted on at the verdict, the completion head first (R442, R443). -/
def State.heldDoorbells (s : State) : State :=
  let q := s.regs.heldQdb
  let c := s.regs.heldCdb
  let t := { s with regs := { s.regs with heldQdb := none, heldCdb := none } }
  let t := match q with | some v => t.completionDoorbell 0 v | none => t
  match c with | some v => t.commandDoorbell 0 v | none => t

/-- COMMAND_DOORBELL (R309, R443). -/
def execCommandDoorbell (pair : Nat) (value : BitVec 32) (s : State) : Host.Outcome State Fault Refusal :=
  if s.life.dev = .off then .next s else .next (s.commandDoorbell pair value.toNat)

/-- COMPLETION_DOORBELL (R309, R443). -/
def execCompletionDoorbell (pair : Nat) (value : BitVec 32) (s : State) : Host.Outcome State Fault Refusal :=
  if s.life.dev = .off then .next s else .next (s.completionDoorbell pair value.toNat)

/-! ## Fetching and starting (R311, R312, R314) -/

/-- Whether firmware fetches a command from pair `n` now (R311, R314, R325). -/
def State.mayFetch (s : State) (n : Nat) : Bool :=
  tmiServed (.pair n) s && decide (1 ≤ s.freeEntries n ∧ s.inProgress n < 32 ∧ s.inProgressAll < 256)
    && (match kget s.tmi.pairs n with | some p => !p.stopped && !p.closing && p.chead != p.tail | none => false)

/-- A fetched descriptor waits for its start; `CHEAD` moves on and the status word is written (R310). -/
def State.fetched (s : State) (n : Nat) (d : Bytes) : State :=
  State.writeStatus { s with tmi := { s.tmi with pairs := kmod s.tmi.pairs n fun p =>
    { p with chead := (p.chead + 1) % p.n, fetched := p.fetched ++ [⟨(d ++ List.replicate 64 0).take 64, p.cls⟩] } } } n

/-- A failed fetch stops the pair; a stopped pair 0 raises `P0STOP` (R314, R439). -/
def State.stopPair (s : State) (n : Nat) : State :=
  let t := State.writeStatus { s with tmi := { s.tmi with pairs := kmod s.tmi.pairs n fun p => { p with stopped := true } } } n
  let t := t.ringError 4 n 0
  (if n = 0 then t.devInt 4 else t).settlePairs

/-- COMMAND_FETCH (R311, R314). -/
def execCommandFetch (pair : Nat) (r : HostRead) (s : State) : Host.Outcome State Fault Refusal :=
  if s.mayFetch pair then
    match r with
    | .ok d => .next (s.fetched pair d)
    | .cxlError | .poison => .next (s.stopPair pair)
  else .next s

/-- The class by which a pair's oldest unstarted command is ordered: promotion lifts it, never above `INTERACTIVE` (R298). -/
def Pair.effective (p : Pair) : Nat := if p.cls ≤ 1 then p.cls else max 1 (p.cls - p.promoted)

/-- Whether the oldest fetched command of a pair may start: one with `FENCE` waits for every earlier command (R312). -/
def State.mayStart (s : State) (n : Nat) (p : Pair) : Bool :=
  tmiServed (.pair n) s && match p.fetched with
    | f :: _ => fld f.desc 2 0 1 == 0 || !(s.tmi.running.any fun r => r.src == .pair n)
    | [] => false

/-- Rank of a pair among those that may start: class, then its oldest unstarted doorbell (R312). -/
def Pair.rank (p : Pair) : Nat × Nat := (p.effective, match p.rings with | r :: _ => r.2 | [] => 0)

/-- The better ranked of two pairs. -/
def betterPair (a b : Nat × Pair) : Nat × Pair :=
  if b.2.rank.1 < a.2.rank.1 ∨ (b.2.rank.1 = a.2.rank.1 ∧ b.2.rank.2 < a.2.rank.2) then b else a

/-- The pair whose command starts next (R312). -/
def State.nextPair (s : State) : Option (Nat × Pair) :=
  match s.tmi.pairs.filter fun e => s.mayStart e.1 e.2 with
  | [] => none
  | e :: es => some (es.foldl betterPair e)

/-- A pair after its oldest fetched command has started: doorbells whose commands have all started leave the order. -/
def Pair.started (p : Pair) (rest : List Fetched) : Pair :=
  { p with
    fetched := rest
    promoted := 0
    rings := match p.rings with
      | r :: rs => if r.1 = (p.chead + p.n - rest.length) % p.n then rs else r :: rs
      | [] => [] }

/-- Start a fetched command: the checks of R318 run; the first that fails completes it; else it is in progress. -/
def State.startFetched (s : State) (n : Nat) (f : Fetched) (rest : List Fetched) : State :=
  let c : Cmd := ⟨.pair n, f.desc, .ok [], .ok⟩
  let t := { s with tmi := { s.tmi with pairs := kmod s.tmi.pairs n fun p => p.started rest } }
  match tmiCheck c t with
  | some st => refuse c st t
  | none => { t with tmi := { t.tmi with running := t.tmi.running ++ [c.running t] } }

/-- A control core is free for a command of a class: one of the 16 is idle or holds work of a lower class, which it leaves at the
end of its slice (R16, R303, R312). Each command in progress holds one core (log 15). -/
def State.coreFree (s : State) (cls : Nat) : Bool := decide ((s.tmi.running.filter fun r => r.cls ≤ cls).length < controlCores)

/-- COMMAND_START (R312, R318). -/
def execCommandStart (s : State) : Host.Outcome State Fault Refusal :=
  match s.nextPair with
  | some (n, p) =>
    match p.fetched with
    | f :: rest => if s.coreFree p.effective then .next (s.startFetched n f rest) else .next s
    | [] => .next s
  | none => .next s

/-- CLASS_PROMOTION (R298): the pair's oldest unstarted command rises one class. -/
def execClassPromotion (pair : Nat) (s : State) : Host.Outcome State Fault Refusal :=
  match kget s.tmi.pairs pair with
  | some p =>
    if 1 < p.effective ∧ (p.fetched ≠ [] ∨ p.chead ≠ p.tail) then
      .next { s with tmi := { s.tmi with pairs := kput s.tmi.pairs pair { p with promoted := p.promoted + 1 } } }
    else .next s
  | none => .next s

/-- VECTOR_COALESCE_TIMER (R315): `COAL_US` after the first completion not yet signalled, the vector is raised. -/
def execVectorCoalesceTimer (pair : Nat) (s : State) : Host.Outcome State Fault Refusal :=
  match kget s.tmi.pairs pair with
  | some p =>
    if 0 < p.unsignalled then
      .next (State.msix { s with tmi := { s.tmi with pairs := kput s.tmi.pairs pair { p with unsignalled := 0 } } } p.vec)
    else .next s
  | none => .next s

/-- The buffer of held notices has emptied: one `NOTICES_LOST` notice gives the count dropped (R345). -/
def State.noticesLost (s : State) : State :=
  if s.tmi.held.isEmpty && decide (0 < s.tmi.lost) then
    State.notice { s with tmi := { s.tmi with lost := 0 } } 0x0011 0xFFFFFFFF (le 4 (min s.tmi.lost 0xFFFFFFFF))
  else s

/-- NOTICE_HELD_DELIVER (R345). -/
def execNoticeHeldDeliver (s : State) : Host.Outcome State Fault Refusal :=
  match s.tmi.held with
  | nt :: rest =>
    if s.noticeRoom then
      .next (State.noticesLost (State.deliverNotice { s with tmi := { s.tmi with held := rest } } nt))
    else .next s
  | [] => .next s

/-! ## Device and ring commands (Table 11.6) -/

/-- The codes of Table 11.6 and Table 16.8 for the device state. -/
def DevState.code : DevState → Nat
  | .off => 0
  | .tasting => 1
  | .opened => 2
  | .corked => 3

/-- `DEV_INFO` after the common checks. -/
def doDevInfo (c : Cmd) (s : State) : State :=
  done c (pack 16 [(0, 0, 8, 0xA1), (1, 0, 1, s.life.bank), (2, 0, 16, s.regs.fwinfo.toNat / 65536), (4, 0, 32, s.regs.fwver.toNat),
    (8, 0, 16, s.nodeId), (10, 0, 2, s.life.dev.code)]) s

/-- DEV_INFO (R324). -/
def execDevInfo (c : Cmd) (s : State) : Host.Outcome State Fault Refusal := .next (runCmd 0x0001 c doDevInfo s)

/-- A pair as `RING_CREATE` makes it (Table 11.6). -/
def newPair (d : Bytes) : Pair where
  log2n := fld d 17 0 4
  cls := fld d 16 4 2
  notify := fld d 16 6 1 == 1
  vec := fld d 18 0 6
  coalCnt := fld d 19 0 8
  coalUs := fld d 20 0 10
  cbase := fld d 24 0 64
  qbase := fld d 32 0 64
  sbase := fld d 40 0 64
  chead := 0
  ctail := 0
  nlost := 0
  stopped := false
  tail := 0
  qhead := 0
  closing := false
  promoted := 0
  rings := []
  unsignalled := 0
  fetched := []

/-- `RING_CREATE` after the common checks. -/
def doRingCreate (c : Cmd) (s : State) : State :=
  let n := fld c.desc 16 0 4
  if (kget s.tmi.pairs n).isSome then refuse c stBusy s
  else done c [] { s with tmi := { s.tmi with pairs := kput s.tmi.pairs n (newPair c.desc) } }

/-- RING_CREATE (R325). -/
def execRingCreate (c : Cmd) (s : State) : Host.Outcome State Fault Refusal := .next (runCmd 0x0002 c doRingCreate s)

/-- `RING_DESTROY` after the common checks: fetching stops; the pair goes when its last command has completed. -/
def doRingDestroy (c : Cmd) (s : State) : State :=
  let n := fld c.desc 16 0 4
  match kget s.tmi.pairs n with
  | none => refuse c stTarget s
  | some p =>
    if p.closing then refuse c stBusy s
    else
      let t := s.keepRunning c
      State.settlePairs { t with tmi := { t.tmi with
        pairs := kput t.tmi.pairs n { p with closing := true }
        destroying := t.tmi.destroying ++ [(n, c.running s)] } }

/-- RING_DESTROY (R325). -/
def execRingDestroy (c : Cmd) (s : State) : Host.Outcome State Fault Refusal := .next (runCmd 0x0003 c doRingDestroy s)

/-- `NOTICE_MASK` after the common checks. -/
def doNoticeMask (c : Cmd) (s : State) : State :=
  done c [] { s with tmi := { s.tmi with mask := BitVec.ofNat 32 (fld c.desc 16 0 32) } }

/-- NOTICE_MASK (R324). -/
def execNoticeMask (c : Cmd) (s : State) : Host.Outcome State Fault Refusal := .next (runCmd 0x0004 c doNoticeMask s)

/-! ### Statistics (R337) -/

/-- Group 0 of Table 11.12. -/
def Partition.stats (p : Partition) : Bytes :=
  (p.nar ++ List.replicate (3 - p.nar.length) 0).flatMap (le 4) ++ le 4 p.scaleClamp ++ le 4 p.missed

/-- The bytes of a statistics group (Table 11.12); none where the partition of group 0 does not exist. -/
def State.statsGroup (s : State) (g pn : Nat) : Option Bytes :=
  match g with
  | 0 => (s.part pn).map Partition.stats
  | 1 => some ((List.range 2048).flatMap fun t => (s.tile t).corrected.flatMap (le 2))
  | 2 => some (s.mem.corrected.flatMap (le 4))
  | _ => some (s.flushStats.flatMap (le 4))

/-- The counts of a group set to 0 after the read. -/
def State.clearStats (s : State) (g pn : Nat) : State :=
  match g with
  | 0 => s.modPart pn fun p => { p with nar := [0, 0, 0], scaleClamp := 0, missed := 0 }
  | 1 => { s with tiles := s.tiles.map fun e => (e.1, { e.2 with corrected := [0, 0, 0, 0] }) }
  | 2 => { s with mem := { s.mem with corrected := List.replicate 36 0 } }
  | _ => { s with flushStats := List.replicate 16 0 }

/-- `STATS_READ` after the common checks; counts are cleared only when they reached the buffer (R319). -/
def doStatsRead (c : Cmd) (s : State) : State :=
  let g := fld c.desc 16 0 8
  match s.statsGroup g (fld c.desc 18 0 3) with
  | none => refuse c stTarget s
  | some b =>
    doneBuffer c b (le 4 b.length) (if fld c.desc 17 0 1 = 1 ∧ c.wr = .ok then s.clearStats g (fld c.desc 18 0 3) else s)

/-- STATS_READ (R337). -/
def execStatsRead (c : Cmd) (s : State) : Host.Outcome State Fault Refusal := .next (runCmd 0x0005 c doStatsRead s)

end Sys2Proof.Machine
end

