-- ==== Sys2Proof/Machine/Boundary.lean ====
section
/-! DEFINITION. The serving-step boundary: results applied, pending operations, deadlines, batches and pages (R207 to R226), and the source's side of a handoff (R228 to R233). -/

namespace Sys2Proof.Machine

/-! ## Handoffs at the source (R228 to R231) -/

/-- A serving-engine message leaves for a node: what it says stands in the output, how it lies in its granules is open, so its
bytes are free (log 23). -/
def State.seMessage (s : State) (user : FabUser) (cls node granules : Nat) (m : SeMsg) : State :=
  let b := (List.range (64 * granules)).map fun i => Config.freeByte (s.free + i)
  { s with free := s.free + 64 * granules, out := { s.out with seMsgs := s.out.seMsgs ++ [(node, m)] } }.fabRequest
    ⟨user, 0x08, cls, node, 0, granules, b⟩

/-- The manifest of an entry's partition. -/
def State.manOf (s : State) (r : Req) : Option Manifest := (s.part r.part).map Partition.man

/-- Change the handoff of an entry. -/
def State.modHandoff (s : State) (ridx : Nat) (f : Handoff → Handoff) : State :=
  { s with srv := { s.srv with handoffs := s.srv.handoffs.map fun h => if h.ridx = ridx then f h else h } }

/-- The handoff of an entry. -/
def State.handoffOf (s : State) (ridx : Nat) : Option Handoff := s.srv.handoffs.find? fun h => h.ridx == ridx

/-- The tag of the latest message outstanding from an entry to the node of its handoff. -/
def State.messageTag (s : State) (ridx : Nat) : Option Nat :=
  (s.handoffOf ridx).bind fun h =>
    (s.fab.txs.filter fun t => t.user == .serving ridx && t.ptype == 0x08 && t.node == h.node).getLast?.map FabTx.tag

/-- Whether the last ended transaction is this entry's and failed: the rim completed it at once (R282). -/
def State.failedAtOnce (s : State) (ridx n : Nat) : Bool :=
  decide (n < s.fab.done.length) && (match s.fab.done.getLast? with | some d => d.user == .serving ridx && d.status != 0 | none => false)

/-- What `HO_OPEN` says of an entry, to a slot of the peer (Table 7.15, step 1); the tag is the next that the rim gives. -/
def State.openMsg (s : State) (m : Manifest) (ridx : Nat) (r : Req) (alt : Bool) : HoOpen where
  node := s.nodeId
  tag := s.freeTag
  gen := s.fab.gen
  ridx := ridx
  slot := if alt then m.aslot else m.dslot
  cls := r.cls
  tkey := r.tkey
  c := r.c
  limit := r.limit
  tokbud := r.tokbud
  htag := r.tag
  oring := r.oring
  pfxlen := r.pfxlen
  dlact := r.dlact
  nodl := r.nodl
  head := r.sparam ++ le 4 (r.tokens.getD (r.c - 1) 0) ++ List.replicate 44 0
  npages := r.pages.length
  kvgeo := m.kvgeo

/-- Send `HO_OPEN` to `DNODE`, or to `ANODE` (Table 7.15, step 1). The flag tells that it failed at once. -/
def State.sendOpen (s : State) (ridx : Nat) (alt : Bool) : Bool × State :=
  match kget s.srv.reqs ridx, (kget s.srv.reqs ridx).bind s.manOf with
  | some r, some m =>
    let node := if alt then m.anode else m.dnode
    let s1 := (s.modReq ridx fun r => { r with pnode := node }).modHandoff ridx fun h => { h with
      node := node, alt := alt, triedAlt := h.triedAlt || alt, shipped := 0, peerPages := [], unacked := [], shards := []
      busyWait := false, committed := false }
    let n := s1.fab.done.length
    let s2 := s1.seMessage (.serving ridx) r.cls node 4 (.opens (s1.openMsg m ridx r alt))
    (s2.failedAtOnce ridx n, s2)
  | _, _ => (false, s)

/-- Send `HO_ABORT` to the peer of a handoff and wait for nothing of it any more (R230). -/
def State.sendAbort (s : State) (ridx : Nat) : State :=
  match s.handoffOf ridx, kget s.srv.reqs ridx with
  | some h, some r => { s with fab := s.fab.orphan ridx }.seMessage engineUser r.cls h.node 1 (.abort ridx)
  | _, _ => s

/-- Start again with `ANODE`, once, or end the request with a status (R229, R230). -/
def State.tryAlternate (s : State) (ridx st : Nat) : State :=
  match s.handoffOf ridx, (kget s.srv.reqs ridx).bind s.manOf with
  | some h, some m =>
    if m.anode ≠ 0xFFFF ∧ h.triedAlt = false then
      let r := s.sendOpen ridx true
      if r.1 then (r.2.sendAbort ridx).endReq ridx svPeer else r.2
    else s.endReq ridx st
  | _, _ => s.endReq ridx st

/-- A handoff transaction before `HO_COMMIT` ended with an error or a timeout: `HO_ABORT` to the peer, then the alternate
node or `PEER_LOST` (R230). -/
def State.handoffFailed (s : State) (ridx : Nat) : State := (s.sendAbort ridx).tryAlternate ridx svPeer

/-- A serving-engine transaction of an entry ended with a status (R230, R231). -/
def State.servingTxEnded (s : State) (ridx st : Nat) : State :=
  match s.handoffOf ridx with
  | some h =>
    if st = fsOk ∨ h.source = false then s
    else if h.committed then s.endReq ridx svPeer
    else s.handoffFailed ridx
  | none => s

/-- Begin the handoff of an entry that stands in `HANDOFF`. -/
def State.startHandoff (s : State) (ridx : Nat) : State :=
  match (kget s.srv.reqs ridx).bind s.manOf with
  | some m =>
    let h : Handoff := ⟨ridx, true, m.dnode, false, false, 0, [], [], false, [], false⟩
    let r := State.sendOpen { s with srv := { s.srv with handoffs := s.srv.handoffs ++ [h] } } ridx false
    if r.1 then r.2.handoffFailed ridx else r.2
  | none => s

/-- Begin every handoff that waits, while fewer than 64 are in progress (R196). -/
def State.startHandoffs (s : State) : State :=
  (s.srv.reqs.filter fun e => e.2.st == .handoff && !e.2.hrecv).foldl (fun s e =>
    if s.srv.handoffs.length < 64 ∧ (s.handoffOf e.1).isNone then s.startHandoff e.1 else s) s

/-- Send `HO_COMMIT` with the remaining budget, `DEADLINE` − now (Table 7.15, step 5). -/
def State.sendCommit (s : State) (ridx : Nat) (r : Req) (node : Nat) : State :=
  let s := s.modHandoff ridx fun h => { h with committed := true }
  let t := s.seMessage (.serving ridx) r.cls node 1 (.commit r.pridx ((r.deadline + 2 ^ 32 - s.usNow) % 2 ^ 32))
  if t.failedAtOnce ridx s.fab.done.length then t.endReq ridx svPeer else t

/-- Ship the next page of a handoff, in list order (R265, R266). A page that cannot be read is not shipped, and its request
faults at the next boundary (R226). -/
def State.shipPage (s : State) (ridx : Nat) : State :=
  match s.handoffOf ridx, kget s.srv.reqs ridx with
  | some h, some r =>
    match s.part r.part, h.peerPages[h.shipped]? with
    | some p, some addr =>
      let q := s.readBytes .serving (pageAddr p (r.pages.getD h.shipped 0)) (p.man.pageU * unitBytes)
      match q.1 with
      | none => q.2.modReq ridx fun r => { r with doom := some svData }
      | some b =>
        let t := q.2.fabRequest ⟨.serving ridx, 0x07, r.cls, h.node, addr, 0, b⟩
        if t.failedAtOnce ridx q.2.fab.done.length then t.handoffFailed ridx
        else t.modHandoff ridx fun h => { h with shipped := h.shipped + 1, unacked := h.unacked ++ [addr] }
    | _, _ => s
  | _, _ => s

/-- Ship pages while fewer than 16 are unacknowledged; with all acknowledged, those of every other shard among them, commit
(R233, R266, Table 7.15). A request that is to fault ships no more (R226). -/
def State.shipMore (s : State) (ridx : Nat) : Nat → State
  | 0 => s
  | n + 1 =>
    match s.handoffOf ridx, (kget s.srv.reqs ridx).filter fun r => r.doom.isNone with
    | some h, some r =>
      if h.shipped < h.peerPages.length then
        if h.unacked.length < 16 then (s.shipPage ridx).shipMore ridx n else s
      else if h.unacked.isEmpty && h.shards.isEmpty && !h.committed then s.sendCommit ridx r h.node
      else s
    | _, _ => s

/-- The leader has every other shard of its group ship its own pages (R233). The spec gives no message for it; its completion
stands for the acknowledgement of the shard's pages (log 23). -/
def State.orderShards (s : State) (ridx : Nat) : State :=
  match s.handoffOf ridx, kget s.srv.reqs ridx, (kget s.srv.reqs ridx).bind s.manOf with
  | some h, some r, some m =>
    let others := m.shards.filter fun x => x.1 != m.shard
    others.foldl (fun s x => s.seMessage (.shard ridx x.1) r.cls x.2.1 4 (.ship ridx h.node r.pages))
      (s.modHandoff ridx fun h => { h with shards := others.map fun x => x.1 })
  | _, _, _ => s

/-- The users of a list of endings, each once, with the first status that is not `OK`. -/
def firstFailures (l : List FabDone) : List (Nat × Nat) :=
  l.foldl (fun (acc : List (Nat × Nat)) d => match d.user with
    | .serving ridx | .shard ridx _ => if d.status = fsOk ∨ acc.any (fun e => e.1 == ridx) then acc else acc ++ [(ridx, d.status)]
    | .stream _ _ _ _ _ | .firmware | .barrier _ => acc) []

/-- A shard has its pages acknowledged, and the handoff goes on (R233). -/
def State.shardDone (s : State) (d : FabDone) : State :=
  match d.user with
  | .shard ridx k =>
    if d.status = fsOk then (s.modHandoff ridx fun h => { h with shards := h.shards.erase k }).shipMore ridx 17 else s
  | .serving _ | .stream _ _ _ _ _ | .firmware | .barrier _ => s

/-- What the serving engine does about its transactions that ended since `done` had `n` members (R230, R231, R233). -/
def State.settleFrom (s : State) (n : Nat) : State :=
  let l := s.fab.done.drop n
  ((firstFailures l).foldl (fun s e => s.servingTxEnded e.1 e.2) (l.foldl State.shardDone s)).startHandoffs

/-! ## Deadlines and order (R208 to R210) -/

/-- `DEADLINE` measured from now as a signed 32-bit difference. -/
def Req.slack (r : Req) (now : Nat) : Int := ofTwos 32 ((r.deadline + 2 ^ 32 - now) % 2 ^ 32)

/-- Whether a deadline has passed (R209). -/
def Req.passed (r : Req) (now : Nat) : Bool := !r.nodl && decide ((now + 2 ^ 32 - r.deadline) % 2 ^ 32 < 2 ^ 31)

/-- Effective class (R210). -/
def Req.eff (r : Req) : Nat := if 2 ≤ r.cls ∧ 10 ≤ r.wait then r.cls - 1 else r.cls

/-- The key that R208 orders by: effective class, dated entries first, slack, `RIDX`. -/
def orderKey (now : Nat) (e : Nat × Req) : Nat :=
  e.2.eff * 2 ^ 50 + (if e.2.nodl then 2 ^ 49 else (e.2.slack now + 2 ^ 31).toNat * 2 ^ 13) + e.1

/-- Insert by a key. -/
def insertBy {α : Type} (f : α → Nat) (x : α) : List α → List α
  | [] => [x]
  | y :: ys => if f x < f y then x :: y :: ys else y :: insertBy f x ys

/-- Sort by a key, equal keys in order. -/
def sortBy {α : Type} (f : α → Nat) (l : List α) : List α := l.foldr (fun x acc => insertBy f x acc) []

/-! ## Results (R220, R223, R225) -/

/-- Base of the step bank of step n (R211). -/
def bankAddr (m : Manifest) (stepn : Nat) : Nat := m.stepa + 0x2000000 * (stepn % 2)

/-- The digest of block b of a token list (R218). -/
def digestOf (key : Nat) (start : Bytes) (toks : List Nat) : Nat → Bytes
  | 0 => blockDigest key start (toks.take 64)
  | b + 1 => blockDigest key (digestOf key start toks b) ((toks.drop (64 * (b + 1))).take 64)

/-- A prefill step has computed positions up to `next`: its completed blocks are inserted (R220). -/
def State.insertBlocks (s : State) (ridx old next : Nat) : State :=
  match kget s.srv.reqs ridx with
  | some r =>
    let e := min r.pfxlen ((r.c - 1) / 64)
    match kget s.srv.keys r.tkey, r.missed with
    | some key, some miss =>
      (List.range e).foldl (fun s b =>
        if miss ≤ b ∧ old < 64 * (b + 1) ∧ 64 * (b + 1) ≤ next then
          let d := digestOf key.toNat (chainStart r.slot (s.srv.epochOf r.slot)) r.tokens b
          (s.modReq ridx fun r => { r with pchain := BitVec.ofNat 128 (ofLe d) }).pfxInsert r.part r.tkey r.slot (r.pages.getD b 0) d
        else s) s
    | _, _ => s
  | none => s

/-- An entry whose prompt is computed goes on to `DECODE` or `HANDOFF` by its partition's `ROLE` (Table 7.7). -/
def afterPrefill (role : Nat) (r : Req) : Req := { r with st := if role = 1 then .handoff else .decode }

/-- A completed prefill step for one request (R207, R220). -/
def State.applyPrefill (s : State) (m : Manifest) (b : Placed) : State :=
  match (kget s.srv.reqs b.ridx).filter fun r => r.st == .prefill with
  | some r =>
    let next := b.first + b.n
    let s := s.modReq b.ridx fun r => { r with next := next, aborts := 0, solo := false, room := 0 }
    let s := s.insertBlocks b.ridx b.first next
    if r.c ≤ next + 1 then s.modReq b.ridx (afterPrefill m.role) else s
  | none => s

/-- The `TOKEN` records of a request, in position order (R223). -/
def State.writeTokens (s : State) (r : Req) (ridx : Nat) : List Nat → Nat → State
  | [], _ => s
  | t :: ts, pos => (s.writeRecord r.oring (outRecord r.tag ridx 1 0 t pos)).writeTokens r ridx ts (pos + 1)

/-- The tokens of an accepted decode result are written, counted and the new tentative ones read; `tok` is the sampled token, `k`
the number of tentative ones accepted, `newt` that of the new ones (R209, R223, R225). -/
def State.advanceDecode (s : State) (p : Partition) (r : Req) (ridx tok k newt : Nat) (ended : Bool) : State :=
  let toks := (r.tents.take k ++ [tok]).take (r.limit - r.c)
  let c := r.c + toks.length
  let keep := (c - 1 + 63) / 64
  let t := (s.writeTokens r ridx toks r.c).readBytes .serving (listAddr p ridx + 64) (4 * newt)
  match t.1 with
  | none => t.2.endReq ridx svData
  | some tb =>
    let u := State.modReq { t.2 with srv := t.2.srv.releaseAll r.part (r.pages.drop keep) } ridx fun r => { r with
      c := c
      tokens := r.tokens ++ toks
      tents := (List.range newt).map fun j => fld tb (4 * j) 0 32
      tent := newt
      pages := r.pages.take keep
      nodl := r.nodl && r.tokbud == 0
      deadline := if r.tokbud = 0 then r.deadline else (t.2.usNow + r.tokbud) % 2 ^ 32 }
    if r.limit ≤ c then u.endReq ridx svLimit
    else if ended then u.endReq ridx svEnded
    else u

/-- A completed decode step for one request: `REJECT`(k), its tokens, its end (R223, R225, R209). -/
def State.applyDecode (s : State) (p : Partition) (stepn : Nat) (i : Nat) (b : Placed) : State :=
  match (kget s.srv.reqs b.ridx).filter fun r => r.st == .decode with
  | none => s
  | some r =>
    let q := s.readBytes .serving (0x1E00000 + (bankAddr p.man stepn + 8 * i)) 8
    match q.1 with
    | none => (q.2.modReq b.ridx fun r => { r with room := 0 }).endReq b.ridx svData
    | some res =>
      let s := q.2.modReq b.ridx fun r => { r with aborts := 0, solo := false, room := 0 }
      if fld res 0 0 32 = 0xFFFFFFFF then s.endReq b.ridx svNar
      else if b.t < fld res 4 0 8 ∨ p.man.tmax < fld res 5 0 8 then s.endReq b.ridx svResult
      else s.advanceDecode p r b.ridx (fld res 0 0 32) (fld res 4 0 8) (fld res 5 0 8) (fld res 6 0 1 == 1)

/-- The results of a completed step, in batch order. -/
def State.applyStep (s : State) (pn : Nat) (st : Step) : State :=
  match s.part pn with
  | some p =>
    st.batch.zipIdx.foldl (fun s b => if st.prefill then s.applyPrefill p.man b.1 else s.applyDecode p st.stepn b.2 b.1) s
  | none => s

/-! ## Pending operations and deadlines -/

/-- A request turns `FAULTED` at a boundary for what befell its data or its prompt (R201, R226). -/
def State.takeDoom (s : State) (pn : Nat) : State :=
  (s.entriesOf pn).foldl (fun s e => match e.2.doom, s.handoffOf e.1 with
    | some st, some h => (if h.source then s.sendAbort e.1 else s).endReq e.1 st
    | some st, none => s.endReq e.1 st
    | none, _ => s) s

/-- An entry turns `PAUSED` with its record (R203, R234). -/
def State.pauseReq (s : State) (ridx st : Nat) (host : Bool) : State :=
  match kget s.srv.reqs ridx with
  | some r =>
    let s := s.modReq ridx fun r => { r with st := .paused, rdec := r.st == .decode, paureq := false, phost := host, swapPaused := !host, standing := r.standing - 1 }
    s.writeRecord r.oring (outRecord r.tag ridx 5 st 0 0)
  | none => s

/-- A paused entry resumes when its ring has room for two records beyond `RESUMED` (R199). -/
def State.resumeReq (s : State) (ridx : Nat) : State :=
  match kget s.srv.reqs ridx with
  | some r =>
    if s.ringRoom r.oring < 2 then s
    else
      let s := s.modReq ridx fun r => { r with st := if r.rdec then .decode else .prefill, resreq := false, phost := false, swapPaused := false, standing := 3 }
      s.writeRecord r.oring (outRecord r.tag ridx 6 0 0 0)
  | none => s

/-- Pending cancel, pause or resume of one entry (R203). -/
def State.applyPending (s : State) (ridx : Nat) : State :=
  match kget s.srv.reqs ridx with
  | some r =>
    if r.canreq && r.st != .handoff then s.endReq ridx svCancelled
    else if r.paureq && (r.st == .prefill || r.st == .decode) then s.pauseReq ridx svPausedHost true
    else if r.resreq && r.st == .paused then s.resumeReq ridx
    else s
  | none => s

/-- The deadline of one entry (R209). An entry of a handoff not yet committed has none (Table 7.15, step 6; log 18). -/
def State.checkDeadline (s : State) (pn ridx : Nat) : State :=
  match kget s.srv.reqs ridx with
  | some r =>
    if r.passed s.usNow && !r.dlmiss && !(r.st == .handoff && r.hrecv) then
      let s := s.modReq ridx fun r => { r with dlmiss := true }
      let s := s.modPart pn fun p => { p with missed := (p.missed + 1) % 2 ^ 32 }
      let s := s.stage 0x000D (pack 32 [(0, 0, 8, 1), (1, 0, 8, pn), (2, 0, 16, ridx)])
      if r.dlact && r.st != .handoff then s.endReq ridx svDeadline else s
    else s
  | none => s

/-! ## Batches (R208, R211, R216) -/

/-- The shape of a step kind. -/
def Partition.shape (p : Partition) (k : Nat) : Option Shape := p.shapes.find? fun h => h.stepk == k

/-- Whether a load that ends the partition's service is under way, so that `ADMITTED` requests are not placed (R234). -/
def Partition.draining (p : Partition) : Bool := match p.job with | some j => j.swap || j.unload | none => false

/-- Probe the prefix table for an entry (R219): pages of the hits, `NEXT`, the first block missed, `PCHAIN`. -/
def State.probeReq (s : State) (ridx : Nat) : State :=
  match kget s.srv.reqs ridx with
  | some r =>
    let key := match kget s.srv.keys r.tkey with | some k => k.toNat | none => 0
    let e := min r.pfxlen ((r.c - 1) / 64)
    let q := probe r.part key r.tkey r.slot s.clk.age e s.srv (chainStart r.slot (s.srv.epochOf r.slot)) r.tokens
    let n := q.1.length
    { s with srv := { q.2.2 with reqs := kput q.2.2.reqs ridx { r with
      pages := q.1, next := 64 * n, elig := e, missed := if n < e then some n else none, pchain := BitVec.ofNat 128 (ofLe q.2.1) } } }
  | none => s

/-- An entry with no position to compute goes straight on (Table 7.7), unless its partition drains for a swap (R234). -/
def State.skipPrefill (s : State) (ridx role : Nat) : State :=
  match kget s.srv.reqs ridx with
  | some r =>
    let drain := match s.part r.part with | some p => p.draining | none => false
    if r.st = .admitted ∧ r.c ≤ r.next + 1 ∧ r.doom = none ∧ drain = false then (s.modReq ridx (afterPrefill role)).startHandoffs else s
  | none => s

/-- An `ADMITTED` entry whose pool was rebuilt starts again without a page and probes anew (R235; log 13). -/
def State.probeAgain (s : State) (ridx : Nat) : State :=
  match kget s.srv.reqs ridx with
  | some r => if r.st = .admitted ∧ r.doom = none then (s.modReq ridx fun r => { r with pages := [], next := 0, missed := none }).probeReq ridx else s
  | none => s

/-- The candidates for a step, in the order of R208. -/
def State.candidates (s : State) (pn : Nat) (prefill : Bool) : List (Nat × Req) :=
  let drain := match s.part pn with | some p => p.draining | none => false
  sortBy (orderKey s.usNow) ((s.entriesOf pn).filter fun e =>
    if prefill then e.2.st == .prefill || (e.2.st == .admitted && !drain) else e.2.st == .decode)

/-- What a candidate would compute: T, first position, positions (R208, R211). -/
def placedOf (e : Nat × Req) (prefill : Bool) (smax : Nat) : Placed :=
  if prefill then ⟨e.1, e.2.tent, e.2.c, e.2.next, min (e.2.c - 1 - e.2.next) smax⟩
  else ⟨e.1, e.2.tent, e.2.c, e.2.c - 1, e.2.tent + 1⟩

/-- Pages that a placement needs in all (R216). -/
def Placed.pages (b : Placed) : Nat := (b.first + b.n + 63) / 64

/-- The prefix entries of a slot whose page only the table holds. -/
def State.evictable (s : State) (pn slot : Nat) : List (Nat × PfxEntry) :=
  s.srv.pfx.filter fun e => e.2.slot == slot && s.srv.soleRef pn e.2

/-- Evict prefix entries of a slot whose page only the table holds, oldest first, while pages are short (R216). -/
def State.evictPrefix (s : State) (pn slot pool need : Nat) : Nat → State
  | 0 => s
  | n + 1 =>
    if need ≤ s.srv.freePages pn pool then s
    else match oldestPfx s.clk.age (s.evictable pn slot) with
      | some k => { s with srv := s.srv.pfxRemove pn k }.evictPrefix pn slot pool need n
      | none => s

/-- Place one candidate: its pages, its room in the output ring, its state. The flags tell whether it was placed and
whether pages fell short; the evictions stand either way. -/
def State.placeReq (s : State) (pn : Nat) (p : Partition) (e : Nat × Req) (b : Placed) : Bool × Bool × State :=
  let need := b.pages - e.2.pages.length
  let s1 := s.evictPrefix pn p.slot p.man.poolPages need 64
  if s1.srv.freePages pn p.man.poolPages < need then (false, true, s1)
  else if s1.ringRoom e.2.oring < e.2.tent + 1 then (false, false, s1)
  else
    let q := s1.allocPages pn p.man.poolPages need
    (true, false, q.2.modReq e.1 fun r => { r with
      pages := r.pages ++ q.1, wait := 0, room := r.tent + 1
      st := if r.st = .admitted then .prefill else r.st })

/-- Take candidates in order up to `BMAX` (R208); the flag tells that one waits for pages. -/
def State.takeBatch (s : State) (pn : Nat) (p : Partition) (prefill : Bool) (h : Shape) :
    List (Nat × Req) → List Placed → Bool → List Placed × Bool × State
  | [], got, short => (got, short, s)
  | e :: es, got, short =>
    if h.bmax ≤ got.length then (got, short, s)
    else if e.2.solo && !got.isEmpty then s.takeBatch pn p prefill h es got short
    else
      let b := placedOf e prefill h.smax
      match s.placeReq pn p e b with
      | (true, _, t) => if e.2.solo then (got ++ [b], short, t) else t.takeBatch pn p prefill h es (got ++ [b]) short
      | (false, pages, t) => t.takeBatch pn p prefill h es got (short || pages)

/-- A pool held by waiting requests: candidates fault from the end of the order until the first fits, with what may be evicted
for it (R216, steps 1 and 3). -/
def State.freePool (s : State) (pn : Nat) (p : Partition) (need : Nat) : List (Nat × Req) → State
  | [] => s
  | e :: es =>
    if need ≤ s.srv.freePages pn p.man.poolPages + min 64 (s.evictable pn p.slot).length then s
    else (s.endReq e.1 svPool).freePool pn p need es

/-- The step input bank of a step: header, records, tokens (Tables 7.8 and 7.9). -/
def State.stepInput (s : State) (p : Partition) (st : Step) : Bytes × Bytes :=
  let toks := fun (b : Placed) => match kget s.srv.reqs b.ridx with
    | some r => if st.prefill then (r.tokens.drop b.first).take b.n else r.tokens.getD (r.c - 1) 0 :: r.tents
    | none => []
  let recs := st.batch.zipIdx.flatMap fun e =>
    let b := e.1
    let off := ((st.batch.take e.2).map fun x => (toks x).length).sum
    let pc := match kget s.srv.reqs b.ridx with | some r => r.pages.length | none => 0
    pack 32 [(0, 0, 13, b.ridx), (2, 0, 8, b.t), (4, 0, 21, b.c), (8, 0, 64, s.nodeId * 2 ^ 48 + listAddr p b.ridx), (16, 0, 24, pc),
      (20, 0, 21, b.first), (24, 0, 21, b.n), (28, 0, 32, off)]
  (pack 64 [(0, 0, 32, st.stepn), (4, 0, 16, st.batch.length), (6, 0, 4, st.stepk), (8, 0, 32, st.s)] ++ recs,
    st.batch.flatMap fun b => (toks b).flatMap (le 4))

/-- Bytes padded to whole lines. -/
def padLines (b : Bytes) : Bytes := b ++ List.replicate ((64 - b.length % 64) % 64) 0

/-- Write bytes to another node's step area, 2,048 at a time (R233, R252). -/
def State.writeRemote (s : State) (node a : Nat) (b : Bytes) : Nat → State
  | 0 => s
  | n + 1 =>
    if b.isEmpty then s
    else (s.fabRequest ⟨engineUser, 0x02, 1, node, a, 0, b.take 2048⟩).writeRemote node (a + 2048) (b.drop 2048) n

/-- The list block of an entry as the engine writes it: sampling parameters, last token, page IDs (R215). -/
def State.writeList (s : State) (p : Partition) (ridx : Nat) : State :=
  match kget s.srv.reqs ridx with
  | some r =>
    let a := listAddr p ridx
    let s := (s.writeBytes .serving a (r.sparam ++ le 4 (r.tokens.getD (r.c - 1) 0))).2
    (s.writeBytes .serving (a + 1088) (r.pages.flatMap (le 4))).2
  | none => s

/-- Write the step input of a step to every shard's step area (R211, R233). -/
def State.writeInput (s : State) (p : Partition) (st : Step) : State :=
  let s := st.batch.foldl (fun s b => s.writeList p b.ridx) s
  let b := s.stepInput p st
  let base := (st.stepn % 2) * 0x2000000
  p.man.shards.foldl (fun s h =>
    let a := h.2.2 + base
    if h.1 = p.man.shard then ((s.writeBytes .serving a b.1).2.writeBytes .serving (a + 0x200000) b.2).2
    else (s.writeRemote h.2.1 a (padLines b.1) (b.1.length / 2048 + 1)).writeRemote h.2.1 (a + 0x200000) (padLines b.2) (b.2.length / 2048 + 1)) s

/-- Form a step of one kind. The flags tell whether one was formed, and where none was, whether a candidate waits for pages; the
evictions made for it stand either way (R208, R216). -/
def State.formKind (s : State) (pn : Nat) (p : Partition) (prefill : Bool) : Bool × Bool × State :=
  let k := if prefill then p.man.stepkPre else p.man.stepkDec
  match p.shape k with
  | some h =>
    let q := s.takeBatch pn p prefill h (s.candidates pn prefill) [] false
    if q.1.isEmpty then (false, q.2)
    else
      let st : Step := ⟨p.stepn, k, prefill, (q.1.map Placed.n).foldl max 0, q.1.length, q.1, none⟩
      let t := q.2.2.modPart pn fun p => { p with formed := some st, tilerDone := false, stepn := (p.stepn + 1) % 2 ^ 32, afterDecode := !prefill }
      (true, false, t.writeInput p st)
  | none => (false, false, s)

/-- The kinds of step in the order of preference (R208). -/
def kindOrder (role : Nat) (afterDecode anyPrefill : Bool) : List Bool :=
  match role with
  | 0 => if afterDecode && anyPrefill then [true, false] else [false, true]
  | 1 => [true]
  | _ => [false]

/-- Form a step of the first of some kinds that one can be formed of; the list holds the kinds whose candidates wait for pages. -/
def State.formFirst (s : State) (pn : Nat) (p : Partition) : List Bool → Bool × List Bool × State
  | [] => (false, [], s)
  | k :: ks =>
    match s.formKind pn p k with
    | (true, _, t) => (true, [], t)
    | (false, short, t) =>
      let r := t.formFirst pn p ks
      (r.1, if short then k :: r.2.1 else r.2.1, r.2.2)

/-- The leader's choice of the next step and its batch (R208, R216). -/
def State.formLeader (s : State) (pn : Nat) (p : Partition) : State :=
  match s.formFirst pn p (kindOrder p.man.role p.afterDecode (!(s.candidates pn true).isEmpty)) with
  | (false, k :: _, t) =>
    match t.candidates pn k, p.shape (if k then p.man.stepkPre else p.man.stepkDec) with
    | f :: rest, some h =>
      let need := (placedOf f k h.smax).pages - f.2.pages.length
      ((t.freePool pn p need ((f :: rest).reverse)).formKind pn p k).2.2
    | _, _ => t
  | (_, _, t) => t

/-- A shard that is not the leader takes its next step from the bank that the leader writes in its step area, once the header
there bears the step's number (R153, R211, R233; log 23). -/
def State.formShard (s : State) (pn : Nat) (p : Partition) : State :=
  let q := s.readBytes .serving (bankAddr p.man p.stepn) 64
  match q.1 with
  | some b =>
    let k := fld b 6 0 4
    if fld b 0 0 32 = p.stepn ∧ 0 < fld b 4 0 16 ∧ (p.shape k).isSome then
      q.2.modPart pn fun p => { p with
        formed := some ⟨p.stepn, k, k == p.man.stepkPre && p.man.role != 2, fld b 8 0 32, fld b 4 0 16, [], none⟩
        tilerDone := false, stepn := (p.stepn + 1) % 2 ^ 32 }
    else q.2
  | none => q.2

/-- The serving engine fixes the next step: the leader of a group forms it, every other shard takes the leader's (R208, R233). -/
def State.formStep (s : State) (pn : Nat) : State :=
  match s.part pn with
  | some p => if p.man.shard = 0 then s.formLeader pn p else s.formShard pn p
  | none => s

/-! ## The boundary -/

/-- Every `PREFILL` and `DECODE` entry turns `PAUSED` at the end of a drain (R234, step 4). -/
def State.pauseAll (s : State) (pn : Nat) : State :=
  (s.entriesOf pn).foldl (fun s e => if e.2.st = .prefill ∨ e.2.st = .decode then s.pauseReq e.1 svPausedSwap false else s) s

/-- Every `ACTIVE` slot closes, so that its casks drain (R118 to R120, R234 step 5; log 29). -/
def Partition.closeAll (p : Partition) (j : LoadJob) : Partition :=
  { p with
    job := some j
    slots := p.slots.map fun x => if x.st = .active then { x with st := .closed, drained := false, still := some false } else x }

/-- Pending operations of every entry of a partition. -/
def State.applyPendings (s : State) (pn : Nat) : State := (s.entriesOf pn).foldl (fun s e => s.applyPending e.1) s

/-- Deadlines of every entry of a partition. -/
def State.checkDeadlines (s : State) (pn : Nat) : State := (s.entriesOf pn).foldl (fun s e => s.checkDeadline pn e.1) s

/-- A pool whose allocator state was lost is rebuilt once its partition holds no entries (R226). -/
def State.rebuildDue (s : State) (pn : Nat) : State :=
  match s.part pn with
  | some p => if p.rebuild && (s.entriesOf pn).isEmpty then (s.rebuildPool pn p.slot).modPart pn fun p => { p with rebuild := false } else s
  | none => s

/-- The step in progress has completed, or none is in progress: its results, pending operations and deadlines are applied
(R207, R209). -/
def State.boundaryResults (s : State) (pn : Nat) : State :=
  match s.part pn with
  | some p =>
    let s := s.takeDoom pn
    let s := match p.cur with
      | some st => (s.applyStep pn st).modPart pn fun p => { p with cur := none, stepEnds := [] }
      | none => s
    ((s.applyPendings pn).checkDeadlines pn).rebuildDue pn
  | none => s

/-- Form the next step, unless a drain of a swap or an unload has come to its end: then everything pauses (R234, steps 3
and 4). A partition without `STEP_END` (`steps` false) has no serving steps (R113). -/
def State.nextStep (s : State) (pn : Nat) (steps : Bool) : State :=
  let form := fun (s : State) => if steps then s.formStep pn else s
  match s.part pn with
  | some p =>
    match p.job with
    | some j =>
      if j.swap || j.unload then
        if j.drainLeft = 0 then (s.pauseAll pn).modPart pn fun p => p.closeAll { j with writing := true }
        else form (s.modPart pn fun p => { p with job := some { j with drainLeft := j.drainLeft - 1 } })
      else s
    | none => form s
  | none => s

/-- Batch formation at a serving-step boundary (R208): none while the casks drain for a swap or an unload, or while a step
formed waits for its bank. -/
def State.boundaryForm (s : State) (pn : Nat) (steps : Bool) : State :=
  match s.part pn with
  | some p =>
    let drained := match p.job with | some j => j.writing | none => false
    (if drained || p.formed.isSome then s else s.nextStep pn steps).startHandoffs
  | none => s

end Sys2Proof.Machine
end

