-- ==== Sys2Proof/Machine/Tiers.lean ====
section
/-! DEFINITION. The tiers of memory: rim accesses, ageing, decants and scrubbing (R163 to R195), and the memory commands of Table 11.7. -/

namespace Sys2Proof.Machine

/-! ## Rim accesses -/

/-- Whether work runs on the device: it is `OPEN` and its core clocks run (Table 13.1, R364). -/
def State.running (s : State) : Bool := s.life.dev == .opened && !s.pwr.stopped

/-- The line that a request flit of a tile names (log 27). -/
def Flit.line (f : Flit) : Nat := ofLe (slice f.payload 0 8) % 2 ^ 48 / 64

/-- Whether a flit begins a tile's request for a line: a read's one flit, or the first of a write's two (log 27). -/
def Flit.begins (f : Flit) : Bool := f.kind == 0 || (f.kind == 1 && !f.last)

/-- The flit that begins a tile's access, where it stands at the attach link with what follows it (R17, R79): a read or prefetch
of the line, or a write with its data. -/
def State.askedBy (s : State) (a : Access) : Option Buffered :=
  match a.req with
  | .tile t c e seq exit =>
    let l := s.rimFlits t exit (engineFlit c e seq)
    let right := fun (b : Buffered) => b.flit.begins && b.flit.cls == a.cls && b.flit.line == a.addr / 64
    match a.kind with
    | .read => l.head?.filter fun b => right b && b.flit.kind == 0 && fld b.flit.payload 8 0 8 == 0
    | .prefetch => l.head?.filter fun b => right b && b.flit.kind == 0 && fld b.flit.payload 8 0 8 == 1
    | .write off data => l.head?.filter fun b => right b && b.flit.kind == 1 && off == 0
        && (match l with | _ :: d :: _ => d.flit.last && d.flit.payload == payload64 data | _ => false)
    | .atomic .. => none
  | .host _ | .peer _ _ | .decant | .scrubber | .serving | .firmware => none

/-- The requests of tiles that wait untaken at the attach links. -/
def State.rimWaits (s : State) : List Buffered :=
  (s.links.filter fun l => decide (l.1 < 16384) && attaches (l.1 / 8) (l.1 % 8)).flatMap fun l =>
    l.2.buf.filter fun b => !b.taken && b.flit.begins

/-- Whether a request is the next that the rim of its line's die takes: none that waits for a line of that die has a lower class
number, nor the same class and a higher age, unless 4 accesses are ordered on its line (R304). -/
def State.turnOf (s : State) (b : Buffered) : Bool :=
  !s.rimWaits.any fun x =>
    lineDie (64 * x.flit.line) == lineDie (64 * b.flit.line) && decide (s.mem.ordered x.flit.line < 4)
      && (decide (x.flit.cls < b.flit.cls) || (x.flit.cls == b.flit.cls && decide (b.age s.fc < x.age s.fc)))

/-- Whether an access can begin at the rim: a tile's request is there and it is its turn (R17, R304). -/
def State.mayBegin (s : State) (a : Access) : Bool :=
  match a.req with
  | .tile _ _ _ _ _ => match s.askedBy a with | some b => s.turnOf b | none => false
  | .host _ | .peer _ _ | .decant | .scrubber | .serving | .firmware => true

/-- The rim takes a tile's request, whose flits hold their buffers until it is answered (R79, R182). -/
def State.takeRequest (s : State) (a : Access) : State :=
  match a.req with
  | .tile t cask engine seq exit => s.holdRim t exit (engineFlit cask engine seq)
  | .host _ | .peer _ _ | .decant | .scrubber | .serving | .firmware => s

/-- RIM_ACCESS (R173, R304, R305). `mapA` and `mapB`: what the codes of the two map copies say where the map is read (R170). -/
def execRimAccess (a : Access) (found mapA mapB : Ecc) (held : Bool) (s : State) : Host.Outcome State Fault Refusal :=
  if s.running && s.mayBegin a then .next (((s.takeRequest a).lookUp a.addr mapA mapB).access a found held).settlePeers else .next s

/-! ## Demotion (R178, R179) -/

/-- Whether demotion from a tier is under way: begun below the low mark, ended at the high mark. -/
def State.demoting (s : State) (tier : Nat) : Bool := s.demoteOn tier (if tier = 0 then s.mem.demNear else s.mem.demCellar)

/-- DEMOTION_SELECT (R179): engine `die` takes the selected unit when it is one of its own and a frame below is free. -/
def execDemotionSelect (die tier : Nat) (s : State) : Host.Outcome State Fault Refusal :=
  if s.running && s.demoting tier then
    match s.marks.victim tier with
    | some u =>
      if u % 4 = die ∧ s.mem.engineLoad u < 32 ∧ 0 < s.mem.freeFrames (tier + 1) then .next ((s.marks.selected tier u).startDecant u (tier + 1))
      else .next s.marks
    | none => .next s.marks
  else .next s.marks

/-- Whether 60 s have passed since the last cellar-full record (R179). -/
def State.cellarFullDue (s : State) : Bool :=
  match s.mem.cellarFullAt with | some t => decide (t + 60000000 * ticksPerUs ≤ s.clk.tick) | none => true

/-- CELLAR_FULL_RECORD (R179): the cellar stays below its low mark because the host tier has no free frame. -/
def execCellarFullRecord (s : State) : Host.Outcome State Fault Refusal :=
  if s.running && decide (s.mem.freeFrames 1 < s.cfg.low 1) && s.mem.freeFrames 2 == 0 && s.cellarFullDue then
    .next ({ s with mem := { s.mem with cellarFullAt := some s.clk.tick } }.stage 0x000D (pack 32 [(0, 0, 8, 3)]))
  else .next s

/-! ## Decants -/

/-- DECANT_COMPLETE (R181): the decant of a unit ends once the host has answered for its tracked lines. `found` is what the code
said of line `line` of the unit, the worst read. -/
def execDecantComplete (unit line : Nat) (found : Ecc) (s : State) : Host.Outcome State Fault Refusal :=
  if s.running && !(s.mem.biWait.any fun x => x.1 / 1024 == unit && x.2.2.req == Requester.decant) then
    match s.decantOf unit with
    | some d => .next (s.endDecant d line found).settlePeers
    | none => .next s
  else .next s

/-! ## Ageing (R176) -/

/-- A millisecond passes for the entries of the request table (Table 7.5, `WAIT`). -/
def State.waitTick (s : State) : State :=
  { s with srv := { s.srv with reqs := s.srv.reqs.map fun (e : Nat × Req) => (e.1, { e.2 with wait := min 4095 (e.2.wait + 1) }) } }

/-- AGE_TICK (R176): the age tick advances, modulo 2^32 (Table 7.13). -/
def execAgeTick (s : State) : Host.Outcome State Fault Refusal :=
  if s.life.aux then .next ({ s with clk := { s.clk with age := (s.clk.age + 1) % 2 ^ 32 } }).waitTick else .next s

/-- MAP_SWEEP (R176): an untouched unit's age is held at 8,388,607 ticks. -/
def execMapSweep (unit : Nat) (s : State) : Host.Outcome State Fault Refusal :=
  match s.mem.entry unit with
  | some e =>
    if s.running && decide (8388607 < (s.clk.age % 2 ^ 24 + 2 ^ 24 - e.touch) % 2 ^ 24) then
      .next { s with mem := s.mem.setEntry unit { e with touch := (s.clk.age + 2 ^ 24 - 8388607) % 2 ^ 24 } }
    else .next s
  | none => .next s

/-! ## Scrubbing (R191) -/

/-- The unit whose data a frame holds: its home or its cache frame. -/
def Memory.unitOf (m : Memory) (tier frame : Nat) : Option Nat :=
  match m.map.find? fun e => e.2.tier == tier && e.2.frame == frame with
  | some e => some e.1
  | none => if tier = 0 then (m.caches.flatMap fun c => c.2).find? (fun x => x.frame == frame) |>.map CacheFrame.unit else none

/-- The device address of a line of a frame; that of a frame that holds no unit and no device region is free (log 5). -/
def State.frameAddr (s : State) (tier frame line : Nat) : Nat :=
  match s.mem.unitOf tier frame with
  | some u => unitBytes * u + 64 * line
  | none => if tier = 0 ∧ nearFrames ≤ frame then deviceRegion + unitBytes * (frame - nearFrames) + 64 * line
    else s.freshNat % 2 ^ 48 / 64 * 64

/-- Stack or channel of a line of a frame. -/
def frameLoc (tier frame line : Nat) : Nat :=
  if tier = 0 ∧ nearFrames ≤ frame then stackOf (deviceRegion + unitBytes * (frame - nearFrames) + 64 * line) else line / 64

/-- A line of a scrubbed frame as the scrubber leaves it: what its code said is counted, and an uncorrectable one stays
failing; the second part tells whether it fails. A line of a unit-map copy fails in that copy (R170, R189, R192). -/
def State.scrubLine (s : State) (tier frame line : Nat) (found : Ecc) : State × Bool :=
  match s.mem.mapLine tier frame line, s.verdict tier (frameLoc tier frame line) found with
  | some (b, g), .uncorrectable _ => ({ s with mem := s.mem.mapLineBad b g }, true)
  | some (b, g), f => (s.noteEcc tier (frameLoc tier frame line) f,
      if b then s.mem.badB.contains g else s.mem.badA.contains g)
  | none, .uncorrectable _ => ({ s with mem := s.mem.setLineBad tier frame line true }, true)
  | none, f => (s.noteEcc tier (frameLoc tier frame line) f, s.mem.lineBad tier frame line)

/-- PATROL_SCRUB (R191, R192): a line of a frame is read; frames of `BUSY` units are skipped. -/
def execPatrolScrub (tier frame line : Nat) (found : Ecc) (s : State) : Host.Outcome State Fault Refusal :=
  let busy := match s.mem.unitOf tier frame with
    | some u => (match s.mem.entry u with | some e => e.busy | none => false)
    | none => false
  if s.running then
    let s := { s with mem := { s.mem with patrol := setAt s.mem.patrol tier (frame + 1) } }
    if busy then .next s
    else
      let r := s.scrubLine tier frame line found
      if r.2 then .next (r.1.used.tierError ⟨.scrubber, 3, r.1.frameAddr tier frame line, .read⟩ tier (frameLoc tier frame line))
      else .next r.1
  else .next s

/-! ## The memory commands (Table 11.7, R326, R327) -/

def stMemExhausted : Nat := 0x0200
def stMapExhausted : Nat := 0x0201
def stPinLimit : Nat := 0x0202
def stUnitPinned : Nat := 0x0203
def stUnitMapped : Nat := 0x0204
def stHostTier : Nat := 0x0205
def stUnitFailed : Nat := 0x0206

/-- Units of a command's range. -/
def Cmd.units (c : Cmd) : List Nat := (List.range (fld c.desc 24 0 32)).map fun i => fld c.desc 16 0 48 / unitBytes + i

/-- Leaves of each map copy (R169). -/
def leafMax : Nat := 6143

/-- Leaves that the map needs when these units are backed too. -/
def State.leavesWith (s : State) (us : List Nat) : Nat := (s.mem.slices ++ us.map fun u => u / 65536).dedup.length

/-- Back a unit on a tier or the next lower one with a free frame (R327); the frame is any free one (log 5). -/
def State.mapUnit (s : State) (tier : Nat) (noPromo : Bool) (u : Nat) : State :=
  match s.mem.tierWithRoom tier with
  | some t => State.marks { s.used with mem := s.mem.back u t (s.freeFrame t) s.clk.age noPromo }
  | none => s

/-- Free frames at and below a tier. -/
def State.roomFrom (s : State) (tier : Nat) : Nat := (([0, 1, 2].filter fun t => decide (tier ≤ t)).map s.mem.freeFrames).sum

/-- `MEM_MAP` after the common checks. -/
def doMemMap (c : Cmd) (s : State) : State :=
  let us := c.units
  if us.any fun u => (s.mem.entry u).isSome then refuse c stUnitMapped s
  else if leafMax < s.leavesWith us then refuse c stMapExhausted s
  else if s.roomFrom (fld c.desc 28 0 2) < us.length then refuse c stMemExhausted s
  else done c [] (us.foldl (State.mapUnit · (fld c.desc 28 0 2) false ·) s)

/-- MEM_MAP (R327). -/
def execMemMap (c : Cmd) (s : State) : Host.Outcome State Fault Refusal := .next (runCmd 0x0101 c doMemMap s)

/-- Release a unit: a decant of it ends first, tracked lines are called back (R183, R409). -/
def State.unmapUnit (s : State) (u : Nat) : State :=
  let ls := s.trackedLines u
  let t := s.settle u
  State.marks { t with mem := t.mem.unback u, out := { t.out with biSnp := t.out.biSnp ++ ls.map fun l => (true, l) } }

/-- `MEM_UNMAP` after the common checks. -/
def doMemUnmap (c : Cmd) (s : State) : State :=
  let us := c.units
  if us.any fun u => (s.mem.entry u).isNone then refuse c stUnbacked s
  else if us.any fun u => match s.mem.entry u with | some e => e.pin | none => false then refuse c stUnitPinned s
  else done c [] (us.foldl State.unmapUnit s).settlePeers

/-- MEM_UNMAP (R327). -/
def execMemUnmap (c : Cmd) (s : State) : Host.Outcome State Fault Refusal := .next (runCmd 0x0102 c doMemUnmap s)

/-- `MEM_QUERY` after the common checks. -/
def doMemQuery (c : Cmd) (s : State) : State := doneBuffer c (c.units.flatMap s.mem.entryBytes) [] s

/-- MEM_QUERY (R327). -/
def execMemQuery (c : Cmd) (s : State) : Host.Outcome State Fault Refusal := .next (runCmd 0x0103 c doMemQuery s)

/-! ### Pinning (R184, R185) -/

/-- Make a frame free in a tier by demoting from it, one unit after the other where one cannot be moved, and from the tier below
where that is full (R179, R185). The last argument bounds how many units. -/
def State.makeRoom (s : State) (tier : Nat) : Nat → Option State
  | 0 => none
  | n + 1 =>
    if 0 < s.mem.freeFrames tier then some s
    else if 2 ≤ tier then none
    else match s.victim tier with
      | some v => (s.makeRoom (tier + 1) n).bind fun t => ((t.selected tier v).relocate v (tier + 1)).makeRoom tier n
      | none => none

/-- How many units room can be sought by. -/
def State.roomFuel (s : State) : Nat := s.mem.map.length + 3

/-- Bring a unit to the near tier, a tier at a time (R178, R185). -/
def State.toNear (s : State) (u : Nat) : Nat → Option State
  | 0 => none
  | n + 1 =>
    match s.mem.entry u with
    | some e =>
      if e.tier = 0 then some s
      else if e.dfail then none
      else (s.makeRoom (e.tier - 1) s.roomFuel).bind fun t => (t.relocate u (e.tier - 1)).toNear u n
    | none => none

/-- Bring units to the near tier, all or none. -/
def State.allNear (s : State) : List Nat → Option State
  | [] => some s
  | u :: us => (s.settle u).toNear u 3 |>.bind fun t => t.allNear us

/-- Set the command interface's references and `PIN` of a list of units. -/
def State.pinUnits (s : State) (us : List Nat) : State :=
  let t := { s with mem := { s.mem with tmiPins := (s.mem.tmiPins ++ us).dedup } }
  us.foldl State.refreshPin t

/-- A unit outside the near tier with data that no decant can copy: the decant that the pin needs is abandoned, which
sets `DFAIL` (R192). -/
def State.cannotMove (s : State) (u : Nat) : Bool :=
  match s.mem.entry u with
  | some e => e.tier != 0 && s.mem.decantBad u e
  | none => false

/-- `MEM_PIN` after the common checks. -/
def doMemPin (c : Cmd) (s : State) : State :=
  let us := c.units
  if us.any fun u => (s.mem.entry u).isNone then refuse c stUnbacked s
  else if us.any fun u => match s.mem.entry u with | some e => e.dfail && e.tier != 0 | none => false then refuse c stUnitFailed s
  else if pinLimit < (s.pinnedUnits ++ s.reservedPins ++ us).dedup.length then refuse c stPinLimit s
  else match us.find? s.cannotMove with
    | some u => refuse c stUnitFailed ((s.settle u).relocate u 0)
    | none => match (s.pinUnits us).allNear us with
      | some t => done c [] t.settlePeers
      | none => refuse c stMemExhausted s

/-- MEM_PIN (R184). -/
def execMemPin (c : Cmd) (s : State) : Host.Outcome State Fault Refusal := .next (runCmd 0x0104 c doMemPin s)

/-- `MEM_UNPIN` after the common checks: only the command interface's reference goes (R327). -/
def doMemUnpin (c : Cmd) (s : State) : State :=
  let us := c.units
  if us.any fun u => (s.mem.entry u).isNone then refuse c stUnbacked s
  else
    let t := { s with mem := { s.mem with tmiPins := s.mem.tmiPins.filter fun u => !us.contains u } }
    done c [] (us.foldl State.refreshPin t)

/-- MEM_UNPIN (R327). -/
def execMemUnpin (c : Cmd) (s : State) : Host.Outcome State Fault Refusal := .next (runCmd 0x0105 c doMemUnpin s)

/-! ### The host tier (R167) -/

/-- Bytes in a gibibyte. -/
def gib : Nat := 2 ^ 30

/-- Whether an extent keeps R167 beside those registered. -/
def State.extentOk (s : State) (base len : Nat) : Bool :=
  base % unitBytes == 0 && len % unitBytes == 0 && decide (gib ≤ len ∧ len ≤ 16 * 1024 * gib)
    && decide ((s.mem.extents.map Prod.snd).sum + len ≤ 16 * 1024 * gib)
    && s.mem.extents.all fun e => decide (base + len ≤ e.1 ∨ e.1 + e.2 ≤ base)

/-- `HOST_TIER_ADD` after the common checks: refused too where port 0 carries no CXL (R397). -/
def doHostTierAdd (c : Cmd) (s : State) : State :=
  if s.cxl.cxl && s.extentOk (fld c.desc 16 0 64) (fld c.desc 24 0 64) then
    done c [] { s with mem := { s.mem with extents := s.mem.extents ++ [(fld c.desc 16 0 64, fld c.desc 24 0 64)] } }
  else refuse c stHostTier s

/-- HOST_TIER_ADD (R167). -/
def execHostTierAdd (c : Cmd) (s : State) : Host.Outcome State Fault Refusal := .next (runCmd 0x0106 c doHostTierAdd s)

/-- First frame of extent i, and the extent, of the one that begins at `base`. -/
def extentAt : List (Nat × Nat) → Nat → Nat → Option (Nat × Nat)
  | [], _, _ => none
  | (b, len) :: es, base, first => if b = base then some (first, len / unitBytes) else extentAt es base (first + len / unitBytes)

/-- Units whose home lies in frames `[f, f + n)` of the host tier. -/
def State.unitsIn (s : State) (f n : Nat) : List Nat :=
  (s.mem.map.filter fun e => e.2.tier == 2 && decide (f ≤ e.2.frame ∧ e.2.frame < f + n)).map Prod.fst

/-- Send the releases of every held line of a unit (Table 14.5) and bring the unit up to the cellar. -/
def State.evacuate (s : State) (u : Nat) : State :=
  let s := s.settle u
  (s.cxlCache ((s.mem.linesOf u).map fun l => (if l.dirty then 3 else 4, l.line))).relocate u 1

/-- Remove an extent; the frames of those registered after it number on from its place, and the translation caches drop the units
whose entries so change (R171, log 11). -/
def Memory.dropExtent (m : Memory) (base f n : Nat) : Memory :=
  let down := fun (k : Nat) => if f + n ≤ k then k - n else k
  { m with
    extents := m.extents.filter fun e => e.1 != base
    map := m.map.map fun e => (e.1, if e.2.tier = 2 then { e.2 with frame := down e.2.frame } else e.2)
    utc := m.utc.map fun d => (d.1, d.2.filter fun u => match m.entry u with
      | some e => e.tier != 2 || down e.frame == e.frame
      | none => true)
    decants := m.decants.map fun d => if d.toTier = 2 then { d with frame := down d.frame } else d }

/-- `HOST_TIER_REMOVE` after the common checks. A unit whose data cannot be moved keeps the extent (log 15). -/
def doHostTierRemove (c : Cmd) (s : State) : State :=
  let base := fld c.desc 16 0 64
  match extentAt s.mem.extents base 0 with
  | none => refuse c stHostTier s
  | some (f, n) =>
    let us := s.unitsIn f n
    let rising := us.filter fun u => match s.decantOf u with | some d => d.toTier == 1 | none => false
    if s.mem.freeFrames 1 + rising.length < us.length then refuse c stMemExhausted s
    else if us.any fun u => match s.mem.entry u with | some e => e.dfail || s.mem.decantBad u e | none => false then refuse c stData s
    else
      let t := us.foldl State.evacuate s
      let t := (t.mem.decants.filter fun d => d.toTier == 2 && decide (f ≤ d.frame ∧ d.frame < f + n)).foldl (fun t d => (t.settle d.unit).evacuate d.unit) t
      done c [] (State.marks { t with mem := t.mem.dropExtent base f n }).settlePeers

/-- HOST_TIER_REMOVE (R167). -/
def execHostTierRemove (c : Cmd) (s : State) : Host.Outcome State Fault Refusal := .next (runCmd 0x0107 c doHostTierRemove s)

/-! ### DMA_COPY (R327) -/

/-- The contents of a range become undefined: every line that can be written takes free bytes (R327, log 5). -/
def State.scramble (s : State) (a n : Nat) : State :=
  let b := (List.range n).map fun i => Config.freeByte (s.free + i)
  ({ s with free := s.free + n }.writeBytes .firmware a b).2

/-- Host to device. -/
def dmaIn (c : Cmd) (dev n : Nat) (s : State) : State :=
  match c.data with
  | .ok d =>
    let r := s.writeBytes .firmware dev ((d ++ List.replicate n 0).take n)
    if r.1 then done c [] r.2 else refuse c stData (r.2.scramble dev n)
  | _ => refuse c stBuffer (s.scramble dev n)

/-- Device to host. What a failed copy leaves at the host is a free part of the data (log 5). -/
def dmaOut (c : Cmd) (host dev n : Nat) (s : State) : State :=
  let r := s.readBytes .firmware dev n
  match r.1 with
  | some b =>
    match c.wr with
    | .ok => done c [] (r.2.hostWrite 0 host b)
    | .cxlError => refuse c stBuffer (r.2.used.hostWrite 0 host (b.take (r.2.freshNat % (n + 1))))
  | none =>
    let part := (List.range (r.2.freshNat % (n + 1))).map fun i => Config.freeByte (r.2.free + i)
    refuse c stData ({ r.2 with free := r.2.free + n + 1 }.hostWrite 0 host part)

/-- `DMA_COPY` after the common checks: every unit of the range is backed before any data moves. -/
def doDmaCopy (c : Cmd) (s : State) : State :=
  let host := fld c.desc 16 0 64
  let dev := fld c.desc 24 0 48
  let n := fld c.desc 32 0 31
  let us := (List.range ((dev % unitBytes + n + unitBytes - 1) / unitBytes)).map fun i => dev / unitBytes + i
  if 0 < n ∧ us.any fun u => (s.mem.entry u).isNone then refuse c stUnbacked s
  else if fld c.desc 36 0 1 = 0 then (dmaIn c dev n s).settlePeers
  else (dmaOut c host dev n s).settlePeers

/-- DMA_COPY (R327). -/
def execDmaCopy (c : Cmd) (s : State) : Host.Outcome State Fault Refusal := .next (runCmd 0x0108 c doDmaCopy s)

end Sys2Proof.Machine
end

