-- ==== Sys2Proof/Machine/Serving.lean ====
section
/-! DEFINITION. The serving engine's commands: serving rings and descriptors (R197 to R204), handoffs (R228 to R232), and the serving commands of Table 11.9. -/

namespace Sys2Proof.Machine

/-! ## Descriptors (Table 7.2) -/

def sdcOp (d : Bytes) : Nat := fld d 0 0 8
def sdcOring (d : Bytes) : Nat := fld d 1 4 4
def sdcTag (d : Bytes) : Nat := fld d 4 0 32
def sdcRidx (d : Bytes) : Nat := fld d 34 0 13
def sdcPlen (d : Bytes) : Nat := fld d 16 0 21
def sdcMaxnew (d : Bytes) : Nat := fld d 20 0 21

/-- The fields of Table 7.2; every other bit is reserved. -/
def sdcFields : List (Nat × Nat × Nat) :=
  [(0, 0, 8), (1, 0, 3), (1, 4, 4), (2, 0, 6), (3, 0, 8), (4, 0, 32), (8, 0, 64), (16, 0, 21), (20, 0, 21), (24, 0, 32), (28, 0, 32),
    (32, 0, 16), (34, 0, 13), (40, 0, 128)]

/-- A submission's fields are in range (R202, check 1). -/
def submitOk (d : Bytes) : Bool :=
  reservedZero d sdcFields && sdcOp d == 1 && fld d 8 0 64 % 4 == 0
    && decide (1 ≤ sdcPlen d ∧ sdcPlen d ≤ 1048576 ∧ 1 ≤ sdcMaxnew d ∧ sdcMaxnew d ≤ 1048575)
    && decide (fld d 24 0 32 ≤ 2 ^ 30 ∧ fld d 28 0 32 ≤ 2 ^ 30 ∧ fld d 32 0 16 ≤ 16384)

/-! ## Submission rings (R198, R201) -/

/-- Whether the engine may fetch from a submission ring: live, not stopped, not empty, its link up, and no descriptor
of it held. -/
def State.fetchable (s : State) (ring : Nat) : Bool :=
  match kget s.srv.subs ring with
  | some r => !r.stopped && r.ptr != r.db && s.ringLinked ring && r.taken.isEmpty
  | none => false

/-- The ring that round-robin order serves next (R198). -/
def State.nextRing (s : State) : Option Nat :=
  ((List.range 16).map fun i => (s.srv.rr + i) % 16).find? s.fetchable

/-- A descriptor was fetched: the head moves on and is written to the status word. -/
def takeDescriptor (ring : Nat) (r : SRing) (d : Bytes) (s : State) : State :=
  let p := (r.ptr + 1) % 2 ^ r.log2n
  let dead := match kget s.srv.outs (sdcOring d) with | some o => o.stopped | none => true
  let s := s.hostWrite (s.ringPort ring) r.sbase (le 8 p)
  { s with srv := { s.srv with
    rr := (ring + 1) % 16
    subs := kput s.srv.subs ring { r with ptr := p, taken := if dead then [] else [d] } } }

/-- SUBMISSION_FETCH (R198, R201): the descriptor at the head of the ring that round-robin order serves is read. One that
names no live output ring is dropped. -/
def execSubmissionFetch (ring : Nat) (r : HostRead) (s : State) : Host.Outcome State Fault Refusal :=
  if s.running && s.nextRing == some ring then
    match kget s.srv.subs ring, r with
    | some q, .ok d => .next (takeDescriptor ring q ((d ++ List.replicate 64 0).take 64) s)
    | some q, _ => .next ({ s with srv := { s.srv with subs := kput s.srv.subs ring { q with stopped := true }, rr := (ring + 1) % 16 } }.ringError 5 ring 0)
    | none, _ => .next s
  else .next s

/-- Whether the engine can process a descriptor now: it is the one taken from the ring, or none is held, and its output
ring has room for four records (R198, R199). -/
def State.canProcess (s : State) (ring : Nat) (d : Bytes) : Bool :=
  s.running && decide (4 ≤ s.ringRoom (sdcOring d)) && (match kget s.srv.outs (sdcOring d) with | some o => !o.stopped | none => false)
    && (match kget s.srv.subs ring with | some q => q.taken.isEmpty || q.taken.head? == some d | none => false)

/-- The held descriptor is gone from its ring. -/
def State.popTaken (s : State) (ring : Nat) (d : Bytes) : State :=
  { s with srv := { s.srv with subs := kmod s.srv.subs ring fun q => if q.taken.head? = some d then { q with taken := q.taken.drop 1 } else q } }

/-- A `REFUSED` record. -/
def State.refused (s : State) (d : Bytes) (ridx st : Nat) : State := s.writeRecord (sdcOring d) (outRecord (sdcTag d) ridx 3 st 0 0)

/-- Free entries of a partition's share (R204). -/
def State.freeEntriesOf (s : State) (p : Partition) : List Nat := p.share.filter fun i => (kget s.srv.reqs i).isNone

/-- The first check of R202 that a submission fails, or the partition that takes it. -/
def submitCheck (s : State) (d : Bytes) : Except Nat (Nat × Partition) :=
  if submitOk d = false then .error svDesc
  else match s.partOfSlot (fld d 2 0 6) with
    | none => .error svSlotEmpty
    | some (pn, p) =>
      if p.man.role = 2 ∨ p.st = .loading then .error svSlotEmpty
      else if p.man.shard ≠ 0 then .error svNotLeader
      else if (kget s.srv.keys (fld d 3 0 8)).isNone then .error svKey
      else if p.man.ctxMax < sdcPlen d + sdcMaxnew d then .error svShape
      else if (s.freeEntriesOf p).isEmpty then .error svTable
      else .ok (pn, p)

/-- The entry that a submission fills, before its probe (R202, R205, R209). -/
def newReq (s : State) (pn : Nat) (p : Partition) (d : Bytes) (prompt : HostRead) : Req where
  st := .admitted
  cls := fld d 1 0 2
  part := pn
  slot := p.slot
  tkey := fld d 3 0 8
  tent := 0
  c := sdcPlen d
  dlact := fld d 1 2 1 == 1
  nodl := fld d 24 0 32 == 0
  dlmiss := false
  rdec := false
  aborts := 0
  solo := false
  hrecv := false
  canreq := false
  paureq := false
  resreq := false
  phost := false
  pages := []
  deadline := (s.usNow + fld d 24 0 32) % 2 ^ 32
  pchain := BitVec.ofNat 128 (ofLe (chainStart p.slot (s.srv.epochOf p.slot)))
  tag := sdcTag d
  tokbud := fld d 28 0 32
  limit := sdcPlen d + sdcMaxnew d
  pfxlen := fld d 32 0 16
  oring := sdcOring d
  wait := 0
  pnode := 0
  pridx := 0
  next := 0
  tokens := (List.range (sdcPlen d)).map fun i => match prompt with | .ok b => fld b (4 * i) 0 32 | _ => 0
  tents := []
  sparam := slice d 40 16
  elig := min (fld d 32 0 16) ((sdcPlen d - 1) / 64)
  missed := none
  doom := match prompt with | .ok _ => none | _ => some svHost
  swapPaused := false
  room := 0
  standing := 3

/-- A submission accepted: the entry, its record, its probe (R202). Which free entry of the share is taken is open (log 5). -/
def admitReq (d : Bytes) (prompt : HostRead) (pn : Nat) (p : Partition) (s : State) : State :=
  let free := s.freeEntriesOf p
  let i := s.choose (fun k => free.contains k) (free.headD 0)
  let t := { s.used with srv := { s.srv with reqs := kput s.srv.reqs i (newReq s pn p d prompt) } }
  let t := t.writeRecord (sdcOring d) (outRecord (sdcTag d) i 0 0 0 0)
  (if (newReq s pn p d prompt).doom.isSome then t else t.probeReq i).skipPrefill i p.man.role

/-- SUBMIT (R202). -/
def execSubmit (ring : Nat) (desc : Bytes) (prompt : HostRead) (s : State) : Host.Outcome State Fault Refusal :=
  if s.canProcess ring desc && !([2, 3, 4].contains (sdcOp desc)) then
    let t := s.popTaken ring desc
    match submitCheck t desc with
    | .error st => .next (t.refused desc 0 st)
    | .ok (pn, p) => .next (admitReq desc prompt pn p t)
  else .next s

/-- The entry that a descriptor names by `RIDX` and `TAG`. -/
def State.named (s : State) (d : Bytes) : Option Req := (kget s.srv.reqs (sdcRidx d)).filter fun r => r.tag == sdcTag d

/-- CANCEL (R203). -/
def execCancel (ring : Nat) (desc : Bytes) (s : State) : Host.Outcome State Fault Refusal :=
  if s.canProcess ring desc && sdcOp desc == 2 then
    let t := s.popTaken ring desc
    match t.named desc with
    | some r =>
      if reservedZero desc sdcFields = false then .next (t.refused desc (sdcRidx desc) svDesc)
      else if r.st = .handoff then .next (t.refused desc (sdcRidx desc) svHandoffBusy)
      else .next (t.modReq (sdcRidx desc) fun r => { r with canreq := true })
    | none => .next (t.refused desc (sdcRidx desc) svDesc)
  else .next s

/-- PAUSE (R203). An entry in `HANDOFF` is refused with `HANDOFF_BUSY` (log 18). -/
def execPause (ring : Nat) (desc : Bytes) (s : State) : Host.Outcome State Fault Refusal :=
  if s.canProcess ring desc && sdcOp desc == 3 then
    let t := s.popTaken ring desc
    match t.named desc with
    | some r =>
      if reservedZero desc sdcFields = false then .next (t.refused desc (sdcRidx desc) svDesc)
      else if r.st = .handoff then .next (t.refused desc (sdcRidx desc) svHandoffBusy)
      else if r.st = .prefill ∨ r.st = .decode then .next (t.modReq (sdcRidx desc) fun r => { r with paureq := true })
      else .next (t.refused desc (sdcRidx desc) svDesc)
    | none => .next (t.refused desc (sdcRidx desc) svDesc)
  else .next s

/-- RESUME (R203). -/
def execResume (ring : Nat) (desc : Bytes) (s : State) : Host.Outcome State Fault Refusal :=
  if s.canProcess ring desc && sdcOp desc == 4 then
    let t := s.popTaken ring desc
    match t.named desc with
    | some r =>
      if reservedZero desc sdcFields && r.phost then .next (t.modReq (sdcRidx desc) fun r => { r with resreq := true })
      else .next (t.refused desc (sdcRidx desc) svDesc)
    | none => .next (t.refused desc (sdcRidx desc) svDesc)
  else .next s

/-- SERVING_HOST_ACCESS_FAIL (R201); a failed write of a `FINAL` record while the device corks is counted (R382). -/
def execServingHostAccessFail (what : ServFail) (s : State) : Host.Outcome State Fault Refusal :=
  if s.running then
    match what with
    | .prompt ridx => .next (s.modReq ridx fun r => { r with doom := some svHost })
    | .output ring =>
      match kget s.srv.outs ring with
      | some r =>
        let s := if s.life.corking.isSome then { s with life := { s.life with finalLost := satAdd 32 s.life.finalLost 1 } } else s
        if r.stopped then .next s else .next (s.stopOutRing ring)
      | none => .next s
  else .next s

/-! ## Handoffs at the receiver (R228, R229, R232) -/

/-- The request packet that a serving-engine message came as. -/
def seRequest (s : State) (node tag gen cls : Nat) : Packet := ⟨0x08, cls, 4, true, 0, s.nodeId, node, tag, gen, 0, 0, []⟩

/-- The packet of a serving-engine message, or of its reply, that waits in an ingress buffer. -/
def State.sePacket (s : State) (ptype node tag : Nat) : Option Packet :=
  ((s.fab.ports.flatMap fun e => e.2.ingress.map Prod.fst).find? fun p => p.ptype == ptype && p.src == node && p.tag == tag)

/-- Whether a message, or a reply, of a node is here: its packet waits in an ingress buffer, or the node is the chip itself,
whose messages cross no port (R244). -/
def State.seHere (s : State) (ptype node tag : Nat) : Bool := node == s.nodeId || (s.sePacket ptype node tag).isSome

/-- The packet of a message leaves its ingress buffer (R261). -/
def State.takeSe (s : State) (ptype node tag : Nat) : State :=
  match s.sePacket ptype node tag with
  | some p => s.leaveIngress p
  | none => s

/-- Answer a serving-engine message: what the reply says stands in the output, how it lies in its granules is open, so its bytes
are free (log 23). -/
def State.seReply (s : State) (node tag gen cls : Nat) (m : SeMsg) : State :=
  let b := (List.range 256).map fun i => Config.freeByte (s.free + i)
  { s with free := s.free + 256, out := { s.out with seMsgs := s.out.seMsgs ++ [(node, m)] } }.respond
    (seRequest s node tag gen cls) 0x15 0 0 true b

/-- The checks of R229 on `HO_OPEN`: the status of the first that fails, with busy as `none`, or the partition. -/
def openCheck (s : State) (m : HoOpen) : Except (Option Nat) (Nat × Partition) :=
  if s.staleRequest (seRequest s m.node m.tag m.gen m.cls) then .error (some svStale)
  else match s.partOfSlot m.slot with
    | none => .error (some svSlotEmpty)
    | some (pn, p) =>
      if p.man.role = 1 ∨ p.st = .loading then .error (some svSlotEmpty)
      else if p.man.kvgeo ≠ m.kvgeo then .error (some svGeometry)
      else if (match kget s.srv.outs m.oring with | some r => r.stopped | none => true) then .error (some svRing)
      else if (s.freeEntriesOf p).isEmpty ∨ s.srv.freePages pn p.man.poolPages < m.npages ∨ p.draining
          ∨ 64 ≤ s.srv.handoffs.length ∨ s.ringRoom m.oring < 4 then .error none
      else .ok (pn, p)

/-- The entry of a handoff accepted (R229, R199): four records are reserved, `ADMITTED` among them. -/
def recvReq (pn : Nat) (p : Partition) (m : HoOpen) (pages : List Nat) : Req where
  st := .handoff
  cls := m.cls
  part := pn
  slot := p.slot
  tkey := m.tkey
  tent := 0
  c := m.c
  dlact := m.dlact
  nodl := m.nodl
  dlmiss := false
  rdec := false
  aborts := 0
  solo := false
  hrecv := true
  canreq := false
  paureq := false
  resreq := false
  phost := false
  pages := pages
  deadline := 0
  pchain := 0
  tag := m.htag
  tokbud := m.tokbud
  limit := m.limit
  pfxlen := m.pfxlen
  oring := m.oring
  wait := 0
  pnode := m.node
  pridx := m.ridx
  next := m.c - 1
  tokens := List.replicate (m.c - 1) 0 ++ [fld m.head 16 0 32]
  tents := []
  sparam := slice m.head 0 16
  elig := 0
  missed := none
  doom := none
  swapPaused := false
  room := 0
  standing := 4

/-- Accept a handoff: an entry, its pages, a window of 16, `HO_ACCEPT` with the entry and where the pages lie (R229, R266; log
23). -/
def acceptOpen (m : HoOpen) (pn : Nat) (p : Partition) (s : State) : State :=
  let free := s.freeEntriesOf p
  let i := s.choose (fun k => free.contains k) (free.headD 0)
  let q := s.used.allocPages pn p.man.poolPages m.npages
  let t := q.2
  { t with srv := { t.srv with
    reqs := kput t.srv.reqs i (recvReq pn p m q.1)
    handoffs := t.srv.handoffs ++ [(⟨i, false, m.node, false, false, 0, [], [], false, [], false⟩ : Handoff)]
    ship := t.srv.ship ++ (q.1.take 16).map fun g => (⟨i, g, m.node, 0, []⟩ : ShipEntry)
    allot := kput t.srv.allot i (q.1.drop 16) } }.seReply m.node m.tag m.gen m.cls (.accept i (q.1.map (pageAddr p)))

/-- HO_OPEN (R229): accepted, or refused with the code of the first check that fails. -/
def execHoOpen (m : HoOpen) (s : State) : Host.Outcome State Fault Refusal :=
  if s.running && s.seHere 0x08 m.node m.tag then
    let s := s.takeSe 0x08 m.node m.tag
    match openCheck s m with
    | .error code => .next (s.seReply m.node m.tag m.gen m.cls (.refuse code))
    | .ok (pn, p) => .next (acceptOpen m pn p s)
  else .next s

/-- The receiver's entry of a handoff from a source entry. -/
def State.recvOf (s : State) (node ridx : Nat) : Option (Nat × Req) :=
  s.srv.reqs.find? fun e => e.2.st == .handoff && e.2.hrecv && e.2.pnode == node && e.2.pridx == ridx

/-- The receiver's handoff and window are gone (R266). -/
def State.closeRecv (s : State) (ridx : Nat) : State :=
  { s with srv := { s.srv with
    handoffs := s.srv.handoffs.filter fun h => h.ridx != ridx
    ship := s.srv.ship.filter fun e => e.ridx != ridx
    allot := kdel s.srv.allot ridx } }

/-- A commit taken: deadline, page list, `DECODE`, the `ADMITTED` record, the answer (Table 7.15, step 6). -/
def takeCommit (node ridx tag gen budget : Nat) (r : Req) (p : Partition) (s : State) : State :=
  let s := (s.modReq ridx fun r => { r with st := .decode, wait := 0, standing := 3, deadline := (s.usNow + budget) % 2 ^ 32 }).closeRecv ridx
  let s := s.writeList p ridx
  let s := s.writeRecord r.oring (outRecord r.tag ridx 0 0 0 0)
  s.seReply node tag gen r.cls .committed

/-- HO_COMMIT (R228) for the receiver's entry `ridx`. One that finds no such entry is refused with a code that the spec does not
give, so it is free (log 23). -/
def execHoCommit (node ridx tag gen budget : Nat) (s : State) : Host.Outcome State Fault Refusal :=
  if s.running && s.seHere 0x08 node tag then
    let s := s.takeSe 0x08 node tag
    match (kget s.srv.reqs ridx).filter fun r => r.st == .handoff && r.hrecv && r.pnode == node with
    | some r =>
      match s.part r.part with
      | some p => if s.staleRequest (seRequest s node tag gen r.cls) then .next (s.respondErr (seRequest s node tag gen r.cls) fsStale)
          else .next (takeCommit node ridx tag gen budget r p s)
      | none => .next s
    | none => .next ({ s with free := s.free + 1 }.seReply node tag gen 0 (.refuse (some (Config.freeByte s.free).toNat)))
  else .next s

/-- HO_ABORT (R230, R250): the entry that the source's entry `ridx` of `node` opened is freed without a record, and the message is
answered. -/
def execHoAbort (node ridx tag gen : Nat) (s : State) : Host.Outcome State Fault Refusal :=
  if s.running && s.seHere 0x08 node tag then
    let cls := match s.sePacket 0x08 node tag with | some p => p.cls | none => 0
    let s := s.takeSe 0x08 node tag
    if s.staleRequest (seRequest s node tag gen cls) then .next (s.respondErr (seRequest s node tag gen cls) fsStale)
    else match s.recvOf node ridx with
      | some e => .next (((s.closeRecv e.1).freeReq e.1).seReply node tag gen e.2.cls .aborted).startHandoffs
      | none => .next (s.seReply node tag gen cls .aborted)
  else .next s

/-- HO_RECEIVER_SILENCE (R232). -/
def execHoReceiverSilence (ridx : Nat) (s : State) : Host.Outcome State Fault Refusal :=
  match (kget s.srv.reqs ridx).filter fun r => r.st == .handoff && r.hrecv with
  | some r =>
    if s.running then
      let t := (s.closeRecv ridx).endReq ridx svPeer
      .next (t.stage 0x000D (pack 32 [(0, 0, 8, 2), (1, 0, 16, ridx), (3, 0, 32, r.tag)])).startHandoffs
    else .next s
  | none => .next s

/-- KVSHIP (R265, R266). -/
def execKvship (p : Packet) (s : State) : Host.Outcome State Fault Refusal :=
  if s.running && p.ptype == 0x07 && s.inIngress p then .next ((s.leaveIngress p).serveShip p) else .next s

/-! ## Handoffs at the source (R228 to R231) -/

/-- Whether the answer to the latest message of an entry is here. -/
def State.answerHere (s : State) (ridx node : Nat) : Bool :=
  match s.messageTag ridx with
  | some g => s.seHere 0x15 node g
  | none => false

/-- The message of an entry that waited for an answer has it. -/
def State.answered (s : State) (ridx node : Nat) : State :=
  match s.messageTag ridx with
  | some g =>
    let s := s.takeSe 0x15 node g
    { s with fab := { s.fab with txs := s.fab.txs.filter fun t => t.tag != g } }.afterTx
  | none => s

/-- The source's handoff of an entry in `HANDOFF`. -/
def State.sourceOf (s : State) (ridx : Nat) : Option Handoff :=
  (s.handoffOf ridx).filter fun h => h.source && (match kget s.srv.reqs ridx with | some r => r.st == .handoff | none => false)

/-- HO_ACCEPT (R228): `pages` are the device addresses of the pages the receiver allotted (log 23). -/
def execHoAccept (ridx peerRidx : Nat) (pages : List Nat) (s : State) : Host.Outcome State Fault Refusal :=
  match s.sourceOf ridx with
  | some h =>
    if s.running && !h.committed && h.peerPages.isEmpty && s.answerHere ridx h.node then
      let t := (s.answered ridx h.node).modReq ridx fun r => { r with pridx := peerRidx }
      .next (((t.modHandoff ridx fun h => { h with peerPages := pages, shipped := 0, unacked := [] }).orderShards ridx).shipMore ridx 17)
    else .next s
  | none => .next s

/-- HO_REFUSAL (R229). -/
def execHoRefusal (ridx status : Nat) (busy : Bool) (s : State) : Host.Outcome State Fault Refusal :=
  match s.sourceOf ridx with
  | some h =>
    if s.running && !h.committed && s.answerHere ridx h.node then
      let t := s.answered ridx h.node
      if busy then .next (t.modHandoff ridx fun h => { h with busyWait := true })
      else .next (t.tryAlternate ridx status).startHandoffs
    else .next s
  | none => .next s

/-- HO_BUSY_RETRY_TIMER (R229): the other node where there is one. -/
def execHoBusyRetryTimer (ridx : Nat) (s : State) : Host.Outcome State Fault Refusal :=
  match s.sourceOf ridx, (kget s.srv.reqs ridx).bind s.manOf with
  | some h, some m =>
    if s.running && h.busyWait then
      let r := s.sendOpen ridx (m.anode != 0xFFFF && !h.alt)
      .next (if r.1 then (r.2.handoffFailed ridx).startHandoffs else r.2)
    else .next s
  | _, _ => .next s

/-- KVACK (R228): the page's transaction ends; the next page follows, and after the last the commit. One that answers no
page is counted against its port (R260). -/
def execKvack (port : Nat) (p : Packet) (s : State) : Host.Outcome State Fault Refusal :=
  if s.inIngress p = false ∨ p.ptype ≠ 0x14 then .next s
  else
  let s := s.leaveIngress p
  match (s.txOf p.tag).filter fun t => t.node == p.src && t.ptype == 0x07 with
  | some t =>
    let n := s.fab.done.length
    let s := ((s.endTx t fsOk []).afterTx).settleFrom n
    match t.user with
    | .serving ridx => .next ((s.modHandoff ridx fun h => { h with unacked := h.unacked.erase t.addr }).shipMore ridx 17)
    | _ => .next s
  | none => .next (s.countDiscard port)

/-- The source's request was handed over (Table 7.15, step 7). -/
def handOver (ridx : Nat) (r : Req) (h : Handoff) (s : State) : State :=
  let t := s.modReq ridx fun r => { r with standing := 0 }
  ((t.writeRecord r.oring (outRecord r.tag ridx 4 0 (h.node + 2 ^ 16 * r.pridx) 0)).freeReq ridx).startHandoffs

/-- HO_COMMIT_COMPLETE (R228, R231). -/
def execHoCommitComplete (ridx : Nat) (ok : Bool) (s : State) : Host.Outcome State Fault Refusal :=
  match s.sourceOf ridx, kget s.srv.reqs ridx with
  | some h, some r =>
    if s.running && h.committed then
      if !ok then .next ((s.answered ridx h.node).endReq ridx svPeer).startHandoffs
      else if s.answerHere ridx h.node then .next (handOver ridx r h (s.answered ridx h.node))
      else .next s
    else .next s
  | _, _ => .next s

/-! ## The serving commands (Table 11.9) -/

def stSring : Nat := 0x0500

/-- Whether a ring keeps R197 and R396. -/
def sringOk (d : Bytes) (s : State) : Bool :=
  let n := fld d 16 0 4
  let exists_ := if fld d 16 4 1 = 1 then (kget s.srv.outs n).isSome else (kget s.srv.subs n).isSome
  !exists_ && fld d 24 0 64 % 4096 == 0 && fld d 32 0 64 % 8 == 0
    && (s.ringPort n == 0 || (decide (fld d 18 0 6 ≤ 15) && s.cxl.up1))

/-- A ring just created. -/
def newRing (d : Bytes) : SRing where
  log2n := fld d 17 0 5
  vec := fld d 18 0 6
  ven := fld d 18 6 1 == 1
  base := fld d 24 0 64
  sbase := fld d 32 0 64
  ptr := 0
  db := 0
  stopped := false
  taken := []

/-- `SRING_CREATE` after the common checks. -/
def doSringCreate (c : Cmd) (s : State) : State :=
  let n := fld c.desc 16 0 4
  if sringOk c.desc s then
    done c [] { s with srv := if fld c.desc 16 4 1 = 1 then { s.srv with outs := kput s.srv.outs n (newRing c.desc) }
      else { s.srv with subs := kput s.srv.subs n (newRing c.desc) } }
  else refuse c stSring s

/-- SRING_CREATE (R197). -/
def execSringCreate (c : Cmd) (s : State) : Host.Outcome State Fault Refusal := .next (runCmd 0x0401 c doSringCreate s)

/-- `SRING_DESTROY` after the common checks. -/
def doSringDestroy (c : Cmd) (s : State) : State :=
  let n := fld c.desc 16 0 4
  if fld c.desc 16 4 1 = 1 then
    if (kget s.srv.outs n).isNone then refuse c stTarget s
    else if s.srv.reqs.any fun e => e.2.oring == n then refuse c stSring s
    else done c [] { s with srv := { s.srv with outs := kdel s.srv.outs n } }
  else if (kget s.srv.subs n).isNone then refuse c stTarget s
  else done c [] { s with srv := { s.srv with subs := kdel s.srv.subs n } }

/-- SRING_DESTROY (R332). -/
def execSringDestroy (c : Cmd) (s : State) : Host.Outcome State Fault Refusal := .next (runCmd 0x0402 c doSringDestroy s)

/-- `REQ_QUERY` after the common checks: a `FREE` entry reads as zeros. -/
def doReqQuery (c : Cmd) (s : State) : State :=
  doneBuffer c (match kget s.srv.reqs (fld c.desc 16 0 13) with
    | some r => reqBytes s (fld c.desc 16 0 13) r
    | none => List.replicate 64 0) [] s

/-- REQ_QUERY (R331). -/
def execReqQuery (c : Cmd) (s : State) : Host.Outcome State Fault Refusal := .next (runCmd 0x0403 c doReqQuery s)

/-- Install or remove a key: the tenant's prefix entries go, live requests neither probe nor insert any more (R217). -/
def State.setKey (s : State) (k : Nat) (key : Option (BitVec 256)) : State :=
  let s := s.pfxPurge fun e => e.tkey == k
  { s with srv := { s.srv with
    keys := match key with | some v => kput s.srv.keys k v | none => kdel s.srv.keys k
    reqs := s.srv.reqs.map fun (e : Nat × Req) => (e.1, if e.2.tkey = k then { e.2 with pfxlen := 0 } else e.2) } }

/-- `TENANT_KEY_SET` after the common checks. -/
def doTenantKeySet (c : Cmd) (s : State) : State :=
  done c [] (s.setKey (fld c.desc 16 0 8) (if fld c.desc 17 0 1 = 1 then none else some (BitVec.ofNat 256 (fld c.desc 24 0 256))))

/-- TENANT_KEY_SET (R217). -/
def execTenantKeySet (c : Cmd) (s : State) : Host.Outcome State Fault Refusal := .next (runCmd 0x0404 c doTenantKeySet s)

/-! ## Serving-ring doorbells (R445) -/

/-- A doorbell of a live ring: the new tail or head, or a `RING_ERROR` for a value of N or more. -/
def ringDoorbell (output : Bool) (ring : Nat) (value : BitVec 32) (r : SRing) (s : State) : State :=
  let v := value.toNat % 65536
  if 2 ^ r.log2n ≤ v then s.ringError (if output then 3 else 2) ring value.toNat
  else { s with srv := if output then { s.srv with outs := kput s.srv.outs ring { r with db := v } }
    else { s.srv with subs := kput s.srv.subs ring { r with db := v } } }

/-- A write of a serving-ring doorbell; `port1` tells which port's copy of the block was written (R445, R396). -/
def State.sringDoorbell (s : State) (port1 output : Bool) (ring : Nat) (value : BitVec 32) : State :=
  if port1 = (s.ringPort ring == 1) then
    match (if output then kget s.srv.outs ring else kget s.srv.subs ring) with
    | some r => ringDoorbell output ring value r s
    | none => { s with regs := { s.regs with dbDrop := satAdd 32 s.regs.dbDrop 1 } }
  else s

/-- SRING_DB (R445, R396). -/
def execSringDb (port1 output : Bool) (ring : Nat) (value : BitVec 32) (s : State) : Host.Outcome State Fault Refusal :=
  .next (s.sringDoorbell port1 output ring value)

end Sys2Proof.Machine
end

