-- ==== Sys2Proof/Machine/Registers.lean ====
section
/-! DEFINITION. The direct registers: the device interrupt, arming pair 0, the recorder window, diagnostic words, and a write of any register by its offset. -/

namespace Sys2Proof.Machine

/-! ## The device interrupt (R439) -/

/-- Bits of `CTL_INT_STATUS` and `CTL_INT_ENABLE` that are not reserved (Table 16.10). -/
def intMask : BitVec 32 := 0xF

/-- A write of `CTL_INT_STATUS` that meets bits set by their events in the same cc: a set wins (R13, R439). -/
def State.writeIntStatus (s : State) (value hwSet : BitVec 32) : State :=
  let t := s.devInt (hwSet &&& intMask)
  { t with regs := { t.regs with intStatus := (t.regs.intStatus &&& ~~~ value) ||| (hwSet &&& intMask) } }

/-- CTL_INT_STATUS_WRITE (R439). -/
def execCtlIntStatusWrite (value hwSet : BitVec 32) (s : State) : Host.Outcome State Fault Refusal :=
  .next (s.writeIntStatus value hwSet)

/-- A write of `CTL_INT_ENABLE`: an enable written 1 over a status bit that is 1 sends the message (R439). -/
def State.writeIntEnable (s : State) (value : BitVec 32) : State :=
  let t := { s with regs := { s.regs with intEnable := value &&& intMask } }
  if value &&& intMask &&& s.regs.intStatus = 0 then t else t.msix (s.regs.intVec.toNat % 64)

/-- CTL_INT_ENABLE_WRITE (R439). -/
def execCtlIntEnableWrite (value : BitVec 32) (s : State) : Host.Outcome State Fault Refusal := .next (s.writeIntEnable value)

/-! ## Arming pair 0 (R440, R441) -/

/-- `ARM` of `MBX_P0_CTL`. -/
def Regs.arm (r : Regs) : Bool := r.p0ctl.getLsbD 0

/-- `MBX_P0_CTL` after a write: while `ARMED` only `ARM` changes; reserved bits stay 0 (R441). -/
def Regs.p0Write (r : Regs) (value : BitVec 32) : BitVec 32 :=
  if r.armed then (r.p0ctl &&& 0x1FFFFFFE) ||| (value &&& 1) else value &&& 0x1FFFFFFF

/-- Pair 0 as an arming captures it from the registers. -/
def Regs.pair0 (r : Regs) (inProgress : List Fetched) : Pair where
  log2n := r.p0ctl.toNat / 2 % 16
  cls := 0
  notify := false
  vec := r.p0ctl.toNat / 32 % 64
  coalCnt := r.p0ctl.toNat / 2048 % 256
  coalUs := r.p0ctl.toNat / 524288 % 1024
  cbase := r.p0c.toNat
  qbase := r.p0q.toNat
  sbase := r.p0s.toNat
  chead := 0
  ctail := 0
  nlost := 0
  stopped := false
  tail := 0
  qhead := 0
  closing := false
  promoted := 0
  rings := []
  unsignalled := 0
  fetched := inProgress

/-- A write that changes `ARM` from 0 to 1: `LOG2N` is checked; pair 0 is captured, its status word written, `ARMED`
set; or `ARMERR` is set (R441). -/
def State.armPair0 (s : State) (value : BitVec 32) : State :=
  let ctl := s.regs.p0Write value
  let l := ctl.toNat / 2 % 16
  if l < 6 ∨ 12 < l then { s with regs := { s.regs with p0ctl := ctl, armErr := true } }
  else
    let r := { s.regs with p0ctl := ctl, armErr := false }
    let fs := match kget s.tmi.pairs 0 with | some p => p.fetched | none => []
    let t := State.writeStatus { s with regs := r, tmi := { s.tmi with pairs := kput s.tmi.pairs 0 (r.pair0 fs) } } 0
    { t with regs := { t.regs with armed := true } }

/-- A write that changes `ARM` from 1 to 0: fetching stops, `ARMED` clears when nothing is in progress (R441). -/
def State.disarmPair0 (s : State) (value : BitVec 32) : State :=
  let t := { s with regs := { s.regs with p0ctl := s.regs.p0Write value } }
  State.settlePairs { t with tmi := { t.tmi with pairs := kmod t.tmi.pairs 0 fun p => { p with closing := true } } }

/-- A write of `MBX_P0_CTL` (R441). -/
def State.writeP0Ctl (s : State) (value : BitVec 32) : State :=
  if value.getLsbD 0 && !s.regs.arm then s.armPair0 value
  else if !(value.getLsbD 0) && s.regs.arm then s.disarmPair0 value
  else { s with regs := { s.regs with p0ctl := s.regs.p0Write value } }

/-- P0_ARM (R441): it is a write that changes `ARM` from 0 to 1. -/
def execP0Arm (value : BitVec 32) (s : State) : Host.Outcome State Fault Refusal :=
  if value.getLsbD 0 && !s.regs.arm then .next (s.armPair0 value) else .next s

/-- P0_DISARM (R441): it is a write that changes `ARM` from 1 to 0. -/
def execP0Disarm (value : BitVec 32) (s : State) : Host.Outcome State Fault Refusal :=
  if !(value.getLsbD 0) && s.regs.arm then .next (s.disarmPair0 value) else .next s

/-! ## The recorder window (R446) -/

/-- Records the recorder holds: committed, then staged (R433). -/
def Recorder.records (e : Recorder) : List Record := e.ring ++ e.staging

/-- The held records at or above a sequence number, in `SEQ` order (R433). -/
def Recorder.heldFrom (e : Recorder) (n : Nat) : List Record := sortBy Record.seq (e.records.filter fun r => decide (n ≤ r.seq))

/-- The first held record at or above a sequence number. -/
def Recorder.firstFrom (e : Recorder) (n : Nat) : Option Record := (e.heldFrom n).head?

/-- A fetch begins, in place of any in progress. -/
def State.windowFetch (s : State) (n : Nat) : State :=
  { s with regs := { s.regs with winBusy := some n, winRec := none, winNone := false } }

/-- A write of `EVR_WIN_SEQ` (R446). -/
def State.writeWinSeq (s : State) (value : BitVec 32) : State :=
  State.windowFetch { s with regs := { s.regs with winSeq := value } } value.toNat

/-- EVR_WIN_SEQ_WRITE (R446). -/
def execEvrWinSeqWrite (value : BitVec 32) (s : State) : Host.Outcome State Fault Refusal := .next (s.writeWinSeq value)

/-- A write of `EVR_WIN_CTL`: a 1 in `NEXT` fetches the record after the one in the window; with `VALID` 0 it is ignored. -/
def State.writeWinCtl (s : State) (value : BitVec 32) : State :=
  match s.regs.winRec with
  | some r => if value.getLsbD 0 then s.windowFetch (r.seq + 1) else s
  | none => s

/-- EVR_WIN_NEXT (R446). -/
def execEvrWinNext (value : BitVec 32) (s : State) : Host.Outcome State Fault Refusal := .next (s.writeWinCtl value)

/-- EVR_WIN_FETCH_DONE (R446): `BUSY` clears, `VALID` or `NONE` and `WINRDY` are set. -/
def execEvrWinFetchDone (s : State) : Host.Outcome State Fault Refusal :=
  match s.regs.winBusy with
  | some n =>
    let r := s.evr.firstFrom n
    .next (State.devInt { s with regs := { s.regs with winBusy := none, winRec := r, winNone := r.isNone } } 8)
  | none => .next s

/-! ## Diagnostic words (R447) -/

/-- CTL_TICK_LOW_READ (R447): the high word is latched for a following read. -/
def execCtlTickLowRead (s : State) : Host.Outcome State Fault Refusal :=
  .next { s with clk := { s.clk with tickHigh := s.clk.tick / 2 ^ 32, tickLatched := true } }

/-- MANAGER_HEARTBEAT (R447): in every state except `OFF`. -/
def execManagerHeartbeat (s : State) : Host.Outcome State Fault Refusal :=
  if s.life.dev = .off then .next s else .next { s with clk := { s.clk with mgrHb := (s.clk.mgrHb + 1) % 65536 } }

/-- FIRMWARE_HEARTBEAT (R447): while the device is `OPEN` and the core clocks run (R363, R364). -/
def execFirmwareHeartbeat (s : State) : Host.Outcome State Fault Refusal :=
  if s.life.dev = .opened ∧ s.pwr.stopped = false then .next { s with clk := { s.clk with fwHb := (s.clk.fwHb + 1) % 65536 } }
  else .next s

/-! ## Writes by offset (R435) -/

/-- A write of one of the three bases of pair 0, reserved bits 0; ignored while `ARMED` (R440, R441). -/
def State.writeBase (s : State) (off : Nat) (value : BitVec 64) : State :=
  if s.regs.armed then s
  else match off with
    | 0x1000 => { s with regs := { s.regs with p0c := value &&& 0xFFFFFFFFFFFFF000 } }
    | 0x1008 => { s with regs := { s.regs with p0q := value &&& 0xFFFFFFFFFFFFF000 } }
    | _ => { s with regs := { s.regs with p0s := value &&& 0xFFFFFFFFFFFFFFF8 } }

/-- The base register at an offset as it stands. -/
def Regs.base (r : Regs) (off : Nat) : BitVec 64 := match off with | 0x1000 => r.p0c | 0x1008 => r.p0q | _ => r.p0s

/-- Half of a 64-bit register written: a low half is held; the high half takes effect with it (R435). -/
def State.writeHalf (s : State) (off : Nat) (value : BitVec 32) : State :=
  if off % 8 = 0 then { s with regs := { s.regs with held := kput s.regs.held off value } }
  else
    let low := match kget s.regs.held (off - 4) with | some v => v | none => (s.regs.base (off - 4)).setWidth 32
    State.writeBase { s with regs := { s.regs with held := kdel s.regs.held (off - 4) } } (off - 4) (value ++ low)

/-- First offset of the MSI-X table in BAR0 (Table 14.4). -/
def msixBase : Nat := 0x180000

/-- A word of an MSI-X vector written: address low, address high, data, vector control, whose bit 0 masks. Unmasking a
vector whose pending bit is set sends its message (R400; the entry's layout and the mask's effect are those of PCI
Express, log 24). -/
def State.writeMsix (s : State) (vec word : Nat) (value : BitVec 32) : State :=
  if word < 3 then
    let old := (kget s.regs.msixTable vec).getD 0
    let keep := old &&& ~~~ ((0xFFFFFFFF : BitVec 96) <<< (32 * word))
    { s with regs := { s.regs with msixTable := kput s.regs.msixTable vec (keep ||| (value.setWidth 96 <<< (32 * word))) } }
  else if value.getLsbD 0 then
    { s with regs := { s.regs with msixMasked := if s.regs.msixMasked.contains vec then s.regs.msixMasked else s.regs.msixMasked ++ [vec] } }
  else
    let t := { s with regs := { s.regs with msixMasked := s.regs.msixMasked.filter (· != vec) } }
    if s.regs.msixPending.contains vec then
      State.msix { t with regs := { t.regs with msixPending := t.regs.msixPending.filter (· != vec) } } vec
    else t

/-- A word of a vector's table entry as it is read. -/
def State.readMsix (s : State) (vec word : Nat) : Nat :=
  if word < 3 then ((kget s.regs.msixTable vec).getD 0).toNat / 2 ^ (32 * word) % 2 ^ 32 else b2n (s.regs.msixMasked.contains vec)

/-- First offset of the pending-bit array in BAR0 (Table 14.4). -/
def pbaBase : Nat := 0x181000

/-- The 64 pending bits. -/
def State.pendingBits (s : State) : Nat := ((List.range 64).map fun v => if s.regs.msixPending.contains v then 2 ^ v else 0).sum

/-- A 4-byte write at an aligned offset (Table 16.1): read-only registers, reserved bits and offsets not listed ignore it. -/
def State.writeReg (s : State) (off : Nat) (value : BitVec 32) : State :=
  if off = 0x200 then s.writeIntStatus value 0
  else if off = 0x204 then s.writeIntEnable value
  else if off = 0x208 then { s with regs := { s.regs with intVec := value &&& 0x3F } }
  else if 0x310 ≤ off ∧ off < 0x320 then { s with regs := { s.regs with scratch := setAt s.regs.scratch ((off - 0x310) / 4) value } }
  else if 0x1000 ≤ off ∧ off < 0x1018 then s.writeHalf off value
  else if off = 0x1018 then s.writeP0Ctl value
  else if 0x2000 ≤ off ∧ off < 0x2100 ∧ off % 16 = 0 then s.commandDoorbell ((off - 0x2000) / 16) value.toNat
  else if 0x2000 ≤ off ∧ off < 0x2100 ∧ off % 16 = 4 then s.completionDoorbell ((off - 0x2000) / 16) value.toNat
  else if 0x3000 ≤ off ∧ off < 0x3400 ∧ off % 64 = 0 then s.sringDoorbell false false ((off - 0x3000) / 64) value
  else if 0x3400 ≤ off ∧ off < 0x3800 ∧ off % 64 = 0 then s.sringDoorbell false true ((off - 0x3400) / 64) value
  else if off = 0x4000 then s.writeWinSeq value
  else if off = 0x4004 then s.writeWinCtl value
  else if msixBase ≤ off ∧ off < msixBase + 1024 then s.writeMsix ((off - msixBase) / 16) ((off - msixBase) / 4 % 4) value
  else s

/-- An 8-byte write: a base of pair 0 whole; at a command doorbell the completion head first and then the command tail
(R442); elsewhere its two words, the lower first. -/
def State.writeReg8 (s : State) (off : Nat) (value : BitVec 64) : State :=
  let lo := value.setWidth 32
  let hi := (value >>> 32).setWidth 32
  if 0x1000 ≤ off ∧ off < 0x1018 then
    State.writeBase { s with regs := { s.regs with held := kdel s.regs.held off } } off value
  else if 0x2000 ≤ off ∧ off < 0x2100 ∧ off % 16 = 0 then (s.writeReg (off + 4) hi).writeReg off lo
  else (s.writeReg off lo).writeReg (off + 4) hi

/-- REGISTER_WRITE (R435): 4 or 8 bytes wide and naturally aligned; any other width is ignored. -/
def execRegisterWrite (offset width : Nat) (value : BitVec 64) (s : State) : Host.Outcome State Fault Refusal :=
  if s.life.dev = .off then .next s
  else if width = 4 ∧ offset % 4 = 0 then .next (s.writeReg offset (value.setWidth 32))
  else if width = 8 ∧ offset % 8 = 0 then .next (s.writeReg8 offset value)
  else .next s

/-! ## What a read returns (R435 to R447) -/

/-- `CTL_STATE` (Table 16.8). -/
def State.ctlState (s : State) : Nat :=
  s.life.dev.code + 2 ^ 2 * (if s.life.dev = .tasting then s.life.stage else 0) + 2 ^ 6 * b2n s.regs.idValid
    + 2 ^ 7 * b2n (s.regs.armed && tmiServed (.pair 0) s) + 2 ^ 8 * s.pwr.cur + 2 ^ 11 * b2n s.pwr.dip
    + 2 ^ 12 * b2n (decide (0 < s.pwr.cThm)) + 2 ^ 13 * b2n s.pwr.brake

/-- `CTL_NODE` (Table 16.7). -/
def State.ctlNode (s : State) : Nat :=
  s.nodeId + 2 ^ 16 * s.life.straps.slotId + 2 ^ 20 * s.life.straps.plan + 2 ^ 22 * b2n s.life.straps.cxlBif
    + 2 ^ 23 * b2n s.life.straps.xcel + 2 ^ 24 * b2n s.fab.yz.isSome

/-- `MBX_P0_STAT` (Table 16.12). -/
def State.p0Stat (s : State) : Nat :=
  b2n s.regs.armed + 2 * b2n (match kget s.tmi.pairs 0 with | some p => p.stopped | none => false) + 4 * b2n s.regs.armErr + 8 * s.inProgress 0

/-- `SRING_STAT` of a ring (Table 16.14); fetching is held while the descriptor taken lacks output room (R198). -/
def State.sringStat (s : State) (output : Bool) (ring : Nat) : Nat :=
  match kget (if output then s.srv.outs else s.srv.subs) ring with
  | some r => r.ptr + 2 ^ 16 + 2 ^ 17 * b2n (!output && r.taken.any fun d => decide (s.ringRoom (sdcOring d) < 4))
      + 2 ^ 18 * r.log2n + 2 ^ 23 * b2n r.stopped
  | none => 0

/-- `EVR_WIN_STAT` (Table 16.15). -/
def State.winStat (s : State) : Nat :=
  b2n s.regs.winBusy.isSome + 2 * b2n s.regs.winRec.isSome + 4 * b2n s.regs.winNone + 8 * b2n (s.evr.frozenTmi || s.evr.frozenSide)

/-- The 32-bit word that a read of port 0's direct registers returns at a multiple of 4 (Table 16.1): offsets not listed,
reserved fields and write-only fields read 0 (R435). The effect of a read of `CTL_TICK` is a row of its own. -/
def State.readReg (s : State) (off : Nat) : Nat :=
  let half := fun (v : BitVec 64) => v.toNat / 2 ^ (8 * (off % 8)) % 2 ^ 32
  if off = 0x000 then 0x20481F4C
  else if off = 0x004 then 0xA1
  else if off = 0x008 then 2048 + 2 ^ 13 * 16 + 2 ^ 18 * 16 + 2 ^ 23 * 18
  else if off = 0x00C then s.regs.fwver.toNat
  else if off = 0x010 then s.regs.fwinfo.toNat
  else if off = 0x014 then s.ctlNode
  else if 0x020 ≤ off ∧ off < 0x040 then (if s.regs.idValid then fld deviceId (off - 0x020) 0 32 else 0)
  else if off = 0x100 then s.ctlState
  else if off = 0x104 then s.regs.verdict.toNat
  else if off = 0x108 then s.regs.tasteTicks / 100000
  else if off = 0x200 then s.regs.intStatus.toNat
  else if off = 0x204 then s.regs.intEnable.toNat
  else if off = 0x208 then s.regs.intVec.toNat
  else if off = 0x300 then s.clk.mgrHb + 2 ^ 16 * s.clk.fwHb
  else if off = 0x308 then s.clk.tick % 2 ^ 32
  else if off = 0x30C then (if s.clk.tickLatched then s.clk.tickHigh else s.clk.tick / 2 ^ 32)
  else if 0x310 ≤ off ∧ off < 0x320 then (s.regs.scratch.getD ((off - 0x310) / 4) 0).toNat
  else if 0x1000 ≤ off ∧ off < 0x1018 then half (s.regs.base (off / 8 * 8))
  else if off = 0x1018 then s.regs.p0ctl.toNat
  else if off = 0x101C then s.p0Stat
  else if off = 0x2100 then s.regs.dbDrop
  else if 0x3000 ≤ off ∧ off < 0x3400 ∧ off % 64 = 8 then s.sringStat false ((off - 0x3000) / 64)
  else if 0x3400 ≤ off ∧ off < 0x3800 ∧ off % 64 = 8 then s.sringStat true ((off - 0x3400) / 64)
  else if off = 0x4000 then s.regs.winSeq.toNat
  else if off = 0x4008 then s.winStat
  else if 0x4040 ≤ off ∧ off < 0x4080 then (match s.regs.winRec with | some r => fld r.bytes (off - 0x4040) 0 32 | none => 0)
  else 0

/-- The 32-bit word that a read of port 0's BAR0 returns at a multiple of 4 (Table 14.4): direct registers, MSI-X table,
pending bits; reserved space reads 0. The component registers at 0x10_0000 are those of CXL, which the spec does not lay out. -/
def State.readBar0 (s : State) (off : Nat) : Nat :=
  if off < 0x100000 then s.readReg off
  else if msixBase ≤ off ∧ off < msixBase + 1024 then s.readMsix ((off - msixBase) / 16) ((off - msixBase) / 4 % 4)
  else if pbaBase ≤ off ∧ off < pbaBase + 8 then s.pendingBits / 2 ^ (8 * (off - pbaBase)) % 2 ^ 32
  else 0

end Sys2Proof.Machine
end

