-- ==== Sys2Proof/Machine/ResetOps.lean ====
section
/-! DEFINITION. Tasting's verdict, corking, and what each reset reaches (R374 to R394, R410, R415, R427, R433, R466). -/

namespace Sys2Proof.Machine

/-! ## The recorder at a commit (R431, R466) -/

/-- Records the flash ring holds. -/
def ringSize : Nat := 32768

/-- Commit one record: a sector that the ring enters is erased first, which removes its 64 oldest records (R431). -/
def Recorder.commit (e : Recorder) (r : Record) : Recorder :=
  let old := if e.slot % 64 = 0 then e.ring.drop (e.ring.length - (ringSize - 64)) else e.ring
  { e with ring := old ++ [r], slot := (e.slot + 1) % ringSize }

/-- Commit every staged record in order. -/
def Recorder.commitAll (e : Recorder) : Recorder := { e.staging.foldl Recorder.commit e with staging := [] }

/-- Staged records go to flash; the record of earlier drops is then staged (R431, R432). -/
def State.commitRecords (s : State) : State := State.stageLost { s with evr := s.evr.commitAll }

/-! ## The verdict (R384, R388, R422, R438) -/

/-- Body of a tasting record (Table 13.5). -/
def State.tasteBody (s : State) (stage cause unit ukind detail : Nat) : Bytes :=
  pack 32 [(0, 0, 8, stage), (1, 0, 8, cause), (2, 0, 12, unit), (2, 12, 4, ukind), (4, 0, 32, detail), (8, 0, 32, s.regs.tasteTicks / 100000),
    (12, 0, 1, s.life.bank), (12, 1, 1, b2n s.life.fallback), (12, 2, 1, b2n s.life.trial), (12, 3, 1, b2n s.life.ext),
    (12, 4, 2, s.life.rtype), (14, 0, 16, s.mem.cellarFrames / 16384), (16, 0, 32, s.mtz.current.epoch)]

/-- A trial bank that reaches a verdict ends its trial (R388). -/
def State.endTrial (s : State) : State :=
  if s.life.trial then
    let t := s.writeSel { s.life.sel with trial := false, tries := 0 }
    State.showFw { t with life := { t.life with trial := false } }
  else s

/-- The record, `CTL_VERDICT` and the device interrupt of a verdict. -/
def State.sayVerdict (s : State) (body : Bytes) (bits : BitVec 32) : State :=
  let t := s.stage 0x0001 body
  State.devInt { t with regs := { t.regs with verdict := BitVec.ofNat 32 (fld body 0 0 32) } } bits

/-- The summary of a `LOAD_INTERRUPTED` notice (Table 13.9). -/
def interruptedBytes (j : Journal) (rtype : Nat) : Bytes :=
  pack 16 [(0, 0, 3, j.part), (1, 0, 6, j.slot), (1, 6, 2, rtype), (4, 0, 48, j.image), (10, 0, 16, j.opcode)]

/-- One notice for each load that a reset cut off, and its journal entry goes (R393). -/
def State.tellInterrupted (s : State) : State :=
  s.life.interrupted.foldl (fun s (e : Journal × Nat) => s.notice 0x000D 0xFFFFFFFF (interruptedBytes e.1 e.2))
    { s with life := { s.life with interrupted := [] } }

/-- A running image with a higher `SVN` than the floor raises it at the `OPEN` verdict (R422). -/
def State.raiseSvn (s : State) : State :=
  let v := imgSvn (s.bankImage s.life.bank)
  if s.life.svnFloor < v then
    State.showFw (State.stage { s with life := { s.life with svnFloor := v } } 0x0011 (s.firmwareBody 2 s.life.bank))
  else s

/-- The verdict `OPEN`. -/
def State.openDevice (s : State) : State :=
  let t := s.sayVerdict (s.tasteBody 0 0 0 0 0) 1
  let t := { t with life := { t.life with dev := .opened, stage := 0 } }
  t.endTrial.raiseSvn.heldDoorbells.tellInterrupted

/-- What `CORKED` stops at once: every Dvoriq port is `IDLE` (Table 13.4). -/
def State.cork (s : State) : State :=
  { s with
    life := { s.life with dev := .corked, stage := 0, corking := none }
    fab := { s.fab with ports := s.fab.ports.map fun (e : Nat × Port) => (e.1, { e.2 with st := PortState.idle, egress := [] }) } }

/-- The verdict `CORKED` at a stage of tasting. -/
def State.failTasting (s : State) (cause unit ukind detail : Nat) : State :=
  (s.sayVerdict (s.tasteBody s.life.stage cause unit ukind detail) 3).cork.endTrial.heldDoorbells

/-! ## What resets reach (Table 13.8) -/

/-- Loads that the journal still names are to be reported after restart (R393). -/
def Life.cutLoads (l : Life) (rtype : Nat) : Life :=
  { l with interrupted := l.interrupted ++ l.journal.map fun j => (j, rtype), journal := [] }

/-- Freezes and the nonce end at any reset (R427, R433). -/
def State.endHolds (s : State) : State :=
  { s with evr := { s.evr with frozenTmi := false, frozenSide := false }, ident := { s.ident with nonce := none } }

/-- What a cold and a warm reset both reach: everything outside the always-on domain and the package flash. -/
def State.wipe (s : State) (rtype : Nat) : State :=
  let t := s.endHolds
  { t with
    regs := Regs.reset
    tmi := Tmi.reset
    cfg := Cfg.reset
    parts := []
    flushStats := List.replicate 16 0
    tiles := []
    links := []
    rimOut := []
    tally := Tally.reset
    mem := Memory.reset
    srv := Serving.reset
    fab := { Fabric.reset with custom := s.fab.custom }
    cxl := { s.cxl with
      up0 := false, up1 := false, hdm := none, hdmErr := false, flushed := false, insecure := [], ide := ideStreams }
    ident := { t.ident with measurements := [], sessions := 0, negotiated := [], fusesLocked := false, aliasKey := none }
    clk := { s.clk with tickHigh := 0, tickLatched := false, mgrHb := 0, fwHb := 0 }
    life := { (s.life.cutLoads rtype) with
      waiting := false, fallback := false, trial := false, ext := false, writing := none, corking := none, finalLost := 0 } }

/-- The power controller after a reset with warm reach: `P4`, its samples gone, its counters kept (log 14). -/
def Power.warm (p : Power) : Power :=
  { p with cur := 4, target := none, cPow := 0, cVin := 0, history := [], overRun := 0, sinceLower := 1000, calm := none }

/-- A reset with the reach of a warm one; tasting waits for what ends the reset (R391, R357). A dip report still merged is
staged first (R359). -/
def State.warmReset (s : State) (rtype : Nat) : State :=
  let t := s.flushDip.wipe 1
  { t with pwr := t.pwr.warm, life := { t.life with dev := .tasting, stage := 1, waiting := true, rtype := rtype } }

/-- Tasting begins (R375). An invalid custom plan leaves every port idle and is recorded; with the fabric off y and z are 0
(R238, R243). -/
def State.beginTasting (s : State) : State :=
  let t := { s with
    life := { s.life with dev := .tasting, stage := 1, waiting := false, supplyReset := false }
    regs := { s.regs with tasteTicks := 0 }
    fab := { s.fab with yz := if s.life.straps.plan = 3 then some (0, 0) else s.fab.yz } }
  if t.life.straps.plan = 2 ∧ t.plan.isNone = true then t.stage 0x0009 (pack 32 [(0, 0, 8, 2)]) else t

/-- The straps that a warm reset samples; `CXL_BIF` stands (R456). -/
def State.sampleStraps (s : State) (x : Straps) : State :=
  { s with life := { s.life with straps := { x with cxlBif := s.life.straps.cxlBif } } }

/-- The last number committed, and how many were skipped at a loss of `VIN_AUX` (R466). With nothing committed ever the
last number is free (log 5). -/
def State.lossOf (s : State) : Option (Nat × Nat) :=
  match s.evr.ring.getLast? with
  | some r => if r.seq + 1 < s.evr.mark then some (r.seq, s.evr.mark - (r.seq + 1)) else none
  | none => if 0 < s.evr.mark then some (s.freshNat % 2 ^ 32, s.evr.mark) else none

/-- The recorder as flash keeps it over a loss of `VIN_AUX`: with the 50 ms everything staged is committed and nothing is
skipped, without them the staging buffer is lost and numbering resumes at the mark (R377, R466). -/
def State.recorderOff (s : State) (held : Bool) : State :=
  let t := if held then s.commitRecords.commitRecords else s
  let t := if held then { t with evr := { t.evr with mark := t.evr.nextSeq }, clk := { t.clk with opSaved := t.clk.opSec } } else t
  { t.used with evr := { t.evr with
    staging := [], nextSeq := t.evr.mark, overflow := 0, dropped := 0, dropAfter := 0
    skipped := if held then none else t.lossOf } }

/-- `VIN_AUX` is lost: the device is `OFF`, and only the package flash and the fuses keep what they hold (R374, R377). -/
def State.powerOff (s : State) (held : Bool) : State :=
  let t := (s.recorderOff held).wipe 0
  { t with
    clk := { Clock.reset with opSec := t.clk.opSaved, opSaved := t.clk.opSaved }
    pwr := Power.reset
    life := { t.life with dev := .off, stage := 0, pwrok := false, perstN := false, aux := false, supplyReset := false, rtype := 0 } }

/-! ## The function-level reset (R392) -/

/-- Lines of host-tier units in the rim caches. -/
def Memory.hostLines (m : Memory) : List RimLine :=
  m.rim.flatMap fun r => r.2.ways.filterMap fun w => match w with
    | some l => match m.entry (l.line / 1024) with
      | some e => if e.tier = 2 then some l else none
      | none => none
    | none => none

/-- Release every CXL.cache line held, dirty ones written back (R392 step 3, Table 14.5). After a global persistent flush
no request is issued (R406). -/
def State.releaseHostLines (s : State) : State :=
  if s.cxl.flushed then s
  else
    let ls := s.mem.hostLines
    let m := ls.foldl (fun (m : Memory) l => match m.entry (l.line / 1024) with
      | some e => if l.dirty && !l.held then m.storeBelow (64 * l.line) e l.data else m
      | none => m) s.mem
    State.cxlCache { s with mem := m } (ls.map fun l => (if l.dirty then 3 else 4, l.line))

/-- Back-invalidate every tracked line (R410). -/
def State.callBackAll (s : State) : State :=
  { s with out := { s.out with biSnp := s.out.biSnp ++ s.mem.filter.flatMap fun d => d.2.map fun l => (true, l) } }

/-- Commands of the sideband endpoint end with `ABORTED_RESET`; those of ring pairs get no completion (Table 13.10). -/
def State.endSideband (s : State) : State :=
  (s.tmi.running.filter fun r => r.src == CmdSrc.sideband).foldl (fun s r => s.finishRun r stAbortedReset []) s

/-- The pair-0 registers cleared (R392 step 5). -/
def Regs.clearPair0 (r : Regs) : Regs :=
  { r with p0c := 0, p0q := 0, p0s := 0, p0ctl := 0, armed := false, armErr := false, held := [], heldCdb := none, heldQdb := none }

/-- The registers that a function-level reset returns to their reset values (R436), with the function's MSI-X table. -/
def Regs.flr (r : Regs) : Regs :=
  { r.clearPair0 with
    intStatus := 0, intEnable := 0, intVec := 0, dbDrop := 0, winSeq := 0, winBusy := none, winRec := none, winNone := false
    msixTable := [], msixMasked := List.range 64, msixPending := [] }

/-- Memory after a function-level reset: every unit unbacked, caches invalid, extents released, counts 0; the tiers' cells
and their uncorrectable lines stay (Table 13.8). -/
def Memory.flr (m : Memory) : Memory :=
  { Memory.reset with
    near := m.near, cellar := m.cellar, hostTier := m.hostTier, badNear := m.badNear, badCellar := m.badCellar
    cellarFrames := m.cellarFrames, patrol := m.patrol, devices := m.devices }

/-- A tile after a function-level reset: nothing loaded, nothing in flight, its counts 0. -/
def Tile.flr (x : Tile) : Tile := { x.release with corrected := [0, 0, 0, 0] }

/-- The fabric after a function-level reset: transactions have ended and their tags are withheld, barriers are
unconfigured, arrivals broken; ports, node and fabric partition record stay (Table 13.8, log 32). -/
def Fabric.flr (f : Fabric) (tick t4 t3 : Nat) : Fabric :=
  { f with
    change := none, txs := [], withheld := f.withheld ++ f.txs.map fun t => (t.tag, tick + t4, t.cls)
    waiting := [], holds := [], genHeld := [], done := [], ops := [], writes := [], barriers := []
    barrierFree := f.barriers.foldl (fun (m : KMap Nat) b => kput m b.1 (tick + t3)) f.barrierFree
    arrivals := [], arriveWait := [], rounds := [], captured := [] }

/-- The reset of an `OPEN` device. `discard`: host-tier lines are dropped instead of released (R415). -/
def State.flrOpen (s : State) (discard : Bool) : State :=
  let t := s.endSideband
  let t := if discard then t else t.releaseHostLines.callBackAll
  let t := t.fab.ops.foldl (fun s o => s.respondErr o.req fsUnbacked) t
  let t4 := 4 * t.cfg.timeoutUs * ticksPerUs
  let t3 := 3 * t.cfg.timeoutUs * ticksPerUs
  State.tellInterrupted { t.endHolds with
    regs := t.regs.flr
    tmi := Tmi.reset
    cfg := Cfg.reset
    parts := []
    flushStats := List.replicate 16 0
    tiles := t.tiles.map fun (e : Nat × Tile) => (e.1, e.2.flr)
    links := []
    rimOut := []
    tally := Tally.reset
    mem := t.mem.flr
    srv := Serving.reset
    fab := t.fab.flr t.clk.tick t4 t3
    cxl := { t.cxl with hdm := none, hdmErr := false }
    life := { (t.life.cutLoads 2) with writing := none } }

/-- The reset in `TASTING` and `CORKED` clears only the pair-0 registers; a bank write ends too (R392, Table 13.10). -/
def State.flrClosed (s : State) : State :=
  let t := s.endSideband.endHolds
  { t with
    regs := t.regs.clearPair0
    tmi := { t.tmi with pairs := kdel t.tmi.pairs 0, running := [] }
    life := { t.life with writing := none } }

/-- A function-level reset (R392). -/
def State.flr (s : State) (discard : Bool) : State := if s.life.dev = .opened then s.flrOpen discard else s.flrClosed

end Sys2Proof.Machine
end

