-- ==== Sys2Proof/Machine/Startup.lean ====
section
/-! DEFINITION. Power-up, tasting and resets as commands (R357, R374 to R394). -/

namespace Sys2Proof.Machine

/-! ## Power (R375, R377) -/

/-- VIN_AUX_POWER_UP (R375): the always-on domain leaves power-on reset, one power cycle more. -/
def execVinAuxPowerUp (s : State) : Host.Outcome State Fault Refusal :=
  if s.life.aux then .next s
  else .next { s with
    life := { s.life with aux := true }
    evr := { s.evr with pcyc := (s.evr.pcyc + 1) % 2 ^ 32 }
    clk := { s.clk with tick := 0 } }

/-- PWROK_RISE (R375, R456): at a cold reset every strap is sampled; tasting begins when `PERST_N` is high too. -/
def execPwrokRise (straps : Straps) (s : State) : Host.Outcome State Fault Refusal :=
  if s.life.aux = true ∧ s.life.pwrok = false then
    let t := { s with life := { s.life with pwrok := true } }
    if s.life.dev = .off then
      let t := { t with life := { t.life with straps := straps } }
      .next (if t.life.perstN && !t.pwr.stopped then t.beginTasting else t)
    else .next (if t.life.waiting && t.life.perstN && !t.life.supplyReset && !t.pwr.stopped then t.beginTasting else t)
  else .next s

/-- PERST_N_RISE (R375, R391, R456): tasting begins, after a warm reset with the straps sampled again. A supply reset
keeps the device waiting for its rails (R357). -/
def execPerstNRise (straps : Straps) (s : State) : Host.Outcome State Fault Refusal :=
  if s.life.aux = true ∧ s.life.perstN = false then
    let t := { s with life := { s.life with perstN := true } }
    if s.life.dev = .off then .next (if t.life.pwrok && !t.pwr.stopped then t.beginTasting else t)
    else if s.life.waiting = true ∧ s.pwr.stopped = false then
      let t := t.sampleStraps straps
      .next (if t.life.pwrok && !t.life.supplyReset then t.beginTasting else t)
    else .next t
  else .next s

/-- PERST_N_FALL (R391): a warm reset. While the core clocks are stopped, before tasting ever began, or while a supply
reset holds the device, only the pin changes (Table 13.10, R357). -/
def execPerstNFall (s : State) : Host.Outcome State Fault Refusal :=
  if s.life.aux = true ∧ s.life.perstN = true then
    let t := { s with life := { s.life with perstN := false } }
    if s.life.dev = .off ∨ s.pwr.stopped = true ∨ s.life.supplyReset = true then .next t else .next (t.warmReset 1)
  else .next s

/-- VIN_AUX_LOSS (R377). -/
def execVinAuxLoss (held50ms : Bool) (s : State) : Host.Outcome State Fault Refusal :=
  if s.life.aux then .next (s.powerOff held50ms) else .next s

/-- A supply reset with warm reach: the record names the rail, and the device waits for its rails (R357). -/
def State.supplyReset (s : State) (rail : Nat) : State :=
  let t := s.flushDip.stage 0x0007 (pack 32 [(0, 0, 8, 1), (1, 0, 8, rail)])
  let t := t.warmReset 3
  { t with life := { t.life with supplyReset := true } }

/-- RAIL_RESET_LEVEL (R357): `VIN_AUX` at its reset level is a cold reset, without the time of R377. -/
def execRailResetLevel (rail : Nat) (s : State) : Host.Outcome State Fault Refusal :=
  if s.life.aux = false then .next s
  else if rail = 3 then .next (s.powerOff false)
  else if s.life.dev = .off ∨ s.pwr.stopped = true then .next s
  else .next (s.supplyReset rail)

/-- SUPPLY_RESET_RECOVERY (R357): the rails have stood for 1 ms and both pins are high. -/
def execSupplyResetRecovery (straps : Straps) (s : State) : Host.Outcome State Fault Refusal :=
  if s.life.aux = true ∧ s.life.supplyReset = true ∧ s.pwr.stopped = false then
    if s.life.pwrok = true ∧ s.life.perstN = true then .next (s.sampleStraps straps).beginTasting
    else .next { s with life := { s.life with supplyReset := false } }
  else .next s

/-! ## Tasting (R378 to R389) -/

/-- Whether tasting runs. -/
def State.tastes (s : State) : Bool := s.life.dev == .tasting && !s.life.waiting && !s.pwr.stopped

/-- The stage after one that passed (Table 13.3, R380). -/
def State.nextStage (s : State) : Nat :=
  if s.life.stage = 7 ∧ s.life.straps.xcel = true then 10 else if s.life.stage = 10 then 8 else s.life.stage + 1

/-- The next stage begins; the extended one is remembered for the record. -/
def State.toNextStage (s : State) : State :=
  { s with life := { s.life with stage := s.nextStage, ext := s.life.ext || s.nextStage == 10 } }

/-- Decant-unit frames of the cellar as found at stage 7: 16 channels, a module of at most 256 GiB each (R24, R163, R379). -/
def cellarSize : Nat := 16 * min Config.moduleGib 256 * 16384

/-- Stage 2 has passed: the alias key of the running image is derived, its certificate stands in flash, and the fuse read port
locks; the identity private key is erased again (R417 to R419, R437). -/
def State.deriveKeys (s : State) : State :=
  let seed := aliasSeed (s.ident.measurements.getD 1 [])
  { s with
    regs := { s.regs with idValid := true }
    ident := { s.ident with fusesLocked := true, aliasKey := some seed, aliasCert := some (Config.publicKeyOf seed) } }

/-- What a stage that passed leaves behind: stage 1 the bank that runs, stage 2 the identity (R417, R437), stage 3 the
vintage (R381), stage 7 the cellar; stage 9 is the verdict. -/
def State.passStage (s : State) : State :=
  match s.life.stage with
  | 1 =>
    let r := s.chooseBank
    if r.1 then r.2.toNextStage else r.2.used.failTasting 1 (r.2.freshNat % 2) 6 0
  | 2 => s.deriveKeys.toNextStage
  | 3 => s.toNextStage.applyVintage
  | 7 => State.toNextStage { s with mem := { s.mem with cellarFrames := cellarSize } }
  | 9 => s.openDevice
  | _ => s.toNextStage

/-- TASTING_STAGE_COMPLETE (R378, R384). -/
def execTastingStageComplete (r : StageResult) (s : State) : Host.Outcome State Fault Refusal :=
  if s.tastes then
    match r with
    | .pass => .next s.passStage
    | .fail cause unit ukind detail => .next (s.failTasting cause unit ukind detail)
  else .next s

/-- TASTING_STAGE_TIMEOUT (R378): cause 2. -/
def execTastingStageTimeout (s : State) : Host.Outcome State Fault Refusal :=
  if s.tastes then .next (s.failTasting 2 0 0 0) else .next s

/-- WATCHDOG_EXPIRY (R389): a warm reset with `RTYPE` 2; both pins stand, so tasting restarts at once. -/
def execWatchdogExpiry (s : State) : Host.Outcome State Fault Refusal :=
  if s.tastes then .next (s.warmReset 2).beginTasting else .next s

/-- CORK_FINAL_TIMER (R382): the time for `FINAL` records is over; the verdict record counts those lost. -/
def execCorkFinalTimer (s : State) : Host.Outcome State Fault Refusal :=
  match s.life.corking with
  | some (stage, unit, ukind) => .next (s.sayVerdict (s.tasteBody stage 10 unit ukind s.life.finalLost) 2).cork
  | none => .next s

/-! ## Function-level resets and links (R392, R395, R396, R415) -/

/-- Whether port 0 carries requests of the host now. -/
def State.hostUp (s : State) : Bool := s.life.aux && s.cxl.up0 && !s.pwr.stopped

/-- FUNCTION_LEVEL_RESET (R392). -/
def execFunctionLevelReset (s : State) : Host.Outcome State Fault Refusal :=
  if s.hostUp then .next (s.flr false) else .next s

/-- Dirty host-tier lines that a link-down of an `OPEN` device discards. -/
def State.dirtyHostLines (s : State) : Nat :=
  if s.life.dev = .opened then (s.mem.hostLines.filter fun l => l.dirty).length else 0

/-- CXL_LINK_DOWN (R415): a function-level reset that discards host-tier lines, with one record of how many were dirty. -/
def execCxlLinkDown (s : State) : Host.Outcome State Fault Refusal :=
  if s.hostUp then
    let n := s.dirtyHostLines
    let t := s.flr true
    .next (State.stage { t with cxl := { t.cxl with up0 := false } } 0x0010 (packArgs 32 [(1, 3), (4, n)]))
  else .next s

/-- Serving rings 8 to 15 of both kinds are destroyed, the entries that name them end without a record (R396). -/
def State.dropPort1Rings (s : State) : State :=
  let t := ((s.srv.reqs.filter fun e => decide (8 ≤ e.2.oring)).map Prod.fst).foldl State.freeReq s
  { t with srv := { t.srv with
    subs := t.srv.subs.filter fun e => decide (e.1 < 8), outs := t.srv.outs.filter fun e => decide (e.1 < 8) } }

/-- PORT1_FLR (R396). -/
def execPort1Flr (s : State) : Host.Outcome State Fault Refusal :=
  if s.life.straps.cxlBif && s.cxl.up1 then .next s.dropPort1Rings else .next s

/-- PORT1_LINK_DOWN (R396): the rings of port 1 are not served. -/
def execPort1LinkDown (s : State) : Host.Outcome State Fault Refusal :=
  .next { s with cxl := { s.cxl with up1 := false } }

/-- Whether CXL links train: `PERST_N` high and no reset of the rails (R357, R375). -/
def State.linksTrain (s : State) : Bool := s.life.aux && s.life.perstN && !s.life.supplyReset && !s.pwr.stopped

/-- Lanes of a port at full width (R396). -/
def State.fullWidth (s : State) : Nat := if s.life.straps.cxlBif then 8 else 16

/-- The record of a training below full width or 64 GT/s (R395). -/
def State.slowLink (s : State) (port width rate : Nat) : State :=
  if width < s.fullWidth ∨ rate < 64 then s.stage 0x0010 (packArgs 32 [(1, 0), (1, port), (1, width), (1, rate)]) else s

/-- Port 0 has trained: CXL runs in 256-byte flits at 32 GT/s or more, or the port is a PCIe endpoint and says so at each
training (R395, R397). -/
def State.port0Trained (s : State) (width rate : Nat) (cxl flit256 : Bool) : State :=
  let on := cxl && flit256 && decide (32 ≤ rate)
  let t := State.slowLink { s with cxl := { s.cxl with up0 := true, cxl := on, width := width, rate := rate } } 0 width rate
  if on then t else t.stage 0x0010 (packArgs 32 [(1, 1)])

/-- CXL_LINK_TRAINED (R395). Port 1 exists only where the port is bifurcated. -/
def execCxlLinkTrained (port width rate : Nat) (cxl flit256 : Bool) (s : State) : Host.Outcome State Fault Refusal :=
  if s.linksTrain then
    if port = 0 then .next (s.port0Trained width rate cxl flit256)
    else if s.life.straps.cxlBif then .next (State.slowLink { s with cxl := { s.cxl with up1 := true } } 1 width rate)
    else .next s
  else .next s

end Sys2Proof.Machine
end

