-- ==== Sys2Proof/Machine/Attach.lean ====
section
/-! DEFINITION. The CXL attachment: CXL.cache answers and snoops, the HDM-DB window, back-invalidation, integrity failures (R402 to R412). -/

namespace Sys2Proof.Machine

/-! ## Identity of the two functions (R396, R399)

Constants: no command reads configuration space. -/

/-- Protocols a port can carry. -/
inductive CxlProtocol where
  | io | cache | mem
  deriving DecidableEq, Repr

/-- The DVSECs of Table 14.3. -/
inductive Dvsec where
  /-- ID 0: protocols, HDM base and size, `Mem_HwInit_Mode`, CXL Reset capable and its timeout in ms, viral capable -/
  | devices (caps : List CxlProtocol) (hdmBase hdmSize hwInitMode : Nat) (resetCapable : Bool) (resetMs : Nat) (viral : Bool)
  /-- ID 5: duration and power in W of phase 2 -/
  | gpf (duration watts : Nat)
  /-- ID 7: protocols, flits of 256 bytes, latency-optimised flits -/
  | flexBus (caps : List CxlProtocol) (flit256 latencyOptimised : Bool)
  /-- ID 8: BAR and offset of the component registers -/
  | locator (bar offset : Nat)
  deriving DecidableEq, Repr

/-- DVSEC ID. -/
def Dvsec.id : Dvsec → Nat
  | .devices .. => 0
  | .gpf .. => 5
  | .flexBus .. => 7
  | .locator .. => 8

/-- What a function reports of itself. -/
structure PciFunction where
  vendor : Option Nat
  subVendor : Option Nat
  device : Nat
  subDevice : Option Nat
  revision : Option Nat
  classCode : Option Nat
  msixVectors : Nat
  bar0 : Nat
  dvsecs : List Dvsec
  deriving DecidableEq, Repr

/-- Port 0's function (Tables 14.3, 14.4; R399, R400). -/
def port0Function : PciFunction where
  vendor := some 0x1F4C
  subVendor := some 0x1F4C
  device := 0x2048
  subDevice := some 0x2048
  revision := some 0xA1
  classCode := some 0x120000
  msixVectors := 64
  bar0 := 0x200000
  dvsecs := [.devices [.cache, .io, .mem] 0 (240 * 2 ^ 40) 0 true 100 false, .gpf 0 0, .flexBus [.io, .cache, .mem] true true,
    .locator 0 0x100000]

/-- Port 1's function: CXL.io alone, no CXL DVSEC, 16 vectors, a BAR0 of 64 KiB (R396); the rest the spec does not say. -/
def port1Function : PciFunction where
  vendor := none
  subVendor := none
  device := 0x2049
  subDevice := none
  revision := none
  classCode := none
  msixVectors := 16
  bar0 := 0x10000
  dvsecs := []

/-! ## CXL.cache (R402 to R406) -/

/-- While the CXL IDE stream of port 0 is insecure, every CXL.cache and CXL.mem packet received is dropped (R412). -/
def Cxl.dropsCacheMem (x : Cxl) : Bool :=
  x.ide.any fun e => e.kind == .cacheMem && e.inUse.isSome && x.insecure.contains e.id

/-- Whether port 0 takes CXL.cache and CXL.mem packets now. -/
def State.cacheMemUp (s : State) : Bool := s.hostUp && !s.cxl.dropsCacheMem

/-- CXL_CACHE_RESPONSE (R404). An answer dropped on an insecure stream ends its request as a link error (R412). -/
def execCxlCacheResponse (addr : Nat) (r : HostRead) (s : State) : Host.Outcome State Fault Refusal :=
  if s.hostUp && s.running then .next (s.hostData addr (if s.cxl.dropsCacheMem then .cxlError else r)).settlePeers else .next s

/-- The device address of the host-tier line that lies at a host physical address. -/
def Memory.lineAtHost (m : Memory) (hpa : Nat) : Option Nat :=
  (m.map.find? fun e => e.2.tier == 2 && hostAddr m.extents e.2.frame == hpa / unitBytes * unitBytes).map
    fun e => unitBytes * e.1 + hpa % unitBytes

/-- The answer to a snoop or a host request: line, data, poison. -/
def State.answerHost (s : State) (line : Nat) (b : Bytes) (poison : Bool) : State :=
  { s with out := { s.out with memResp := s.out.memResp ++ [(line, b, poison)] } }

/-- Put a line back into its way as it now is, or empty the way. -/
def Memory.setLine (m : Memory) (a : Nat) (l : Option RimLine) : Memory :=
  match (m.rimAt a).find a with
  | some w => m.rimPut a w l
  | none => m

/-- What a snoop does to a line held: `SnpData` (0) leaves it shared and clean, `SnpInv` (1) removes it, `SnpCur` (2)
leaves it; dirty data goes to the host. A line held in its way for uncorrectable data stays and answers with poison
(R194). -/
def State.snoopLine (s : State) (hpa a kind : Nat) (l : RimLine) : State :=
  if l.held then s.answerHost (hpa / 64) [] true
  else
    let m := match s.mem.entry (a / unitBytes) with
      | some e => if l.dirty ∧ kind < 2 then s.mem.storeBelow a e l.data else s.mem
      | none => s.mem
    let m := match kind with
      | 0 => m.setLine a (some { l with dirty := false, owned := false })
      | 1 => m.setLine a none
      | _ => m
    State.answerHost { s with mem := m } (hpa / 64) (if l.dirty then l.data else []) false

/-- Accesses that a host snoop of a line waits for: those ordered on it, but never a decant's (R403). -/
def Memory.snoopWaits (m : Memory) (line : Nat) : Nat := m.ordered line - (m.decantWaits.filter (onLine line)).length

/-- HOST_SNOOP (R403): a line not held is answered without data. While accesses are ordered on its line the snoop waits, and the
row does nothing. -/
def execHostSnoop (addr kind : Nat) (s : State) : Host.Outcome State Fault Refusal :=
  if s.cacheMemUp && s.running then
    match s.mem.lineAtHost addr with
    | some a =>
      if 0 < s.mem.snoopWaits (a / 64) then .next s
      else match s.mem.rimLine a with
      | some l => .next (s.snoopLine addr a kind l)
      | none => .next (s.answerHost (addr / 64) [] false)
    | none => .next (s.answerHost (addr / 64) [] false)
  else .next s

/-- Dirty host-tier lines written back; they stay, clean (R406). -/
def State.flushHostLines (s : State) : State :=
  let ls := s.mem.hostLines.filter fun l => l.dirty && !l.held
  let m := ls.foldl (fun (m : Memory) l => match m.entry (l.line / 1024) with
    | some e => (m.storeBelow (64 * l.line) e l.data).setLine (64 * l.line) (some { l with dirty := false })
    | none => m) s.mem
  State.cxlCache { s with mem := m } (ls.map fun l => (3, l.line))

/-- GPF_PHASE1 (R406): from then on no CXL.cache request is issued. -/
def execGpfPhase1 (s : State) : Host.Outcome State Fault Refusal :=
  if s.hostUp ∧ s.cxl.flushed = false then
    let t := if s.running then s.flushHostLines else s
    .next { t with cxl := { t.cxl with flushed := true } }
  else .next s

/-! ## The HDM-DB window (R407 to R410) -/

/-- 256 MiB. -/
def hdmGrain : Nat := 2 ^ 28

/-- The rules of a commit (R407, R397). -/
def State.hdmOk (s : State) (base size skip ways : Nat) (biEnable : Bool) : Bool :=
  s.cxl.cxl && biEnable && ways == 1 && base % hdmGrain == 0 && size % hdmGrain == 0 && skip % hdmGrain == 0
    && decide (hdmGrain ≤ size ∧ size ≤ 2 ^ 44 ∧ skip + size ≤ 240 * 2 ^ 40)

/-- HDM_DECODER_COMMIT (R407). -/
def execHdmDecoderCommit (base size skip : Nat) (ways : Nat) (biEnable : Bool) (s : State) : Host.Outcome State Fault Refusal :=
  if s.hostUp then
    let ok := s.hdmOk base size skip ways biEnable
    .next { s with cxl := { s.cxl with hdm := if ok then some (base, size, skip) else none, hdmErr := !ok } }
  else .next s

/-- The device address of a host physical address in the window (R407). -/
def Cxl.window (x : Cxl) (hpa : Nat) : Option Nat :=
  match x.hdm with
  | some (base, size, skip) => if base ≤ hpa ∧ hpa < base + size then some (skip + (hpa - base)) else none
  | none => none

/-- The access of a host request to a line; its class is open (log 5). -/
def hostAccess (a cls : Nat) (write : Option Bytes) (shared : Bool) : Access :=
  match write with
  | some b => ⟨.host false, cls, a, .write 0 b⟩
  | none => ⟨.host shared, cls, a, .read⟩

/-- A host request on an `OPEN` device joins the order of its line, behind a back-invalidate snoop outstanding there (R408, R409). -/
def State.hostRequest (s : State) (x : Access) (found : Ecc) : State := (s.access x found false).settlePeers

/-- CXL_MEM_REQUEST (R408): before the verdict and in `CORKED` reads return poison and writes are dropped (R383). -/
def execCxlMemRequest (hpa : Nat) (write : Option Bytes) (metaShared : Bool) (found : Ecc) (s : State) :
    Host.Outcome State Fault Refusal :=
  if s.cacheMemUp then
    match s.cxl.window hpa with
    | some a =>
      if s.life.dev = .opened then .next (s.used.hostRequest (hostAccess a (s.freshNat % 4) write metaShared) found)
      else .next (s.answerHost (a / 64) [] write.isNone)
    | none => .next s
  else .next s

/-- BIRSP (R409). -/
def execBirsp (addr : Nat) (s : State) : Host.Outcome State Fault Refusal :=
  if s.cacheMemUp && s.running then .next (s.snoopDone addr).settlePeers else .next s

/-! ## Integrity (R412) -/

/-- IDE_INTEGRITY_FAILURE (R412): the stream enters the insecure state, and one record says so. -/
def execIdeIntegrityFailure (stream : Nat) (s : State) : Host.Outcome State Fault Refusal :=
  if s.hostUp ∧ s.cxl.insecure.contains stream = false then
    .next (State.stage { s with cxl := { s.cxl with insecure := s.cxl.insecure ++ [stream] } } 0x0010 (packArgs 32 [(1, 2), (1, stream)]))
  else .next s

end Sys2Proof.Machine
end

