-- ==== Sys2Proof/Machine/TileOps.lean ====
section
/-! DEFINITION. What the rows of a tile share: issuing, windows, reads and writes of its stores. -/

namespace Sys2Proof.Machine

/-! ## Issuing (R95, R102, R107) -/

/-- Whether the fold clock of a partition runs. -/
def Partition.clockRuns (p : Partition) : Bool := (p.st == .running || p.st == .swapping) && p.idled.isNone

/-- Whether cask `c` of tile `t` issues: it is the cask running, resident, its slot `ACTIVE` or `CLOSED`, and the fold
clock of its partition runs (Table 4.1, R102, R114). -/
def State.canIssue (s : State) (t c : Nat) : Bool :=
  match s.partOf t with
  | some pn =>
    match s.part pn with
    | some p => p.clockRuns && !(s.tile t).idle && (s.tile t).running == c && ((s.tile t).cask c).isSome
        && ((p.slotAt c).st == .active || (p.slotAt c).st == .closed) && !s.pwr.stopped
    | none => false
  | none => false

/-- Opcode of micro-operation `u` of an image (Table 4.4). -/
def imgOp (b : Bytes) (u : Nat) : Nat := fld (imgUop b u) 0 0 8

/-- Whether cask `c` issues and `u` is the micro-operation it issued last, with an opcode of the class `lo` to `hi` of
Table 4.5: then the rows of that class carry it out (R101, R102). -/
def State.opRuns (s : State) (t c u lo hi : Nat) : Bool :=
  s.canIssue t c && match (s.tile t).cask c with
    | some k => k.issued == some u && decide (lo ≤ imgOp k.image u ∧ imgOp k.image u ≤ hi)
    | none => false

/-- As `opRuns`, for the rows that carry no index. -/
def State.classRuns (s : State) (t c lo hi : Nat) : Bool :=
  match ((s.tile t).cask c).bind CaskCtx.issued with | some u => s.opRuns t c u lo hi | none => false

/-- Whether cask `c` issues and has issued a micro-operation: of the operands a micro-operation of any class may name are
queues and rings (Table 4.4). -/
def State.anyRuns (s : State) (t c : Nat) : Bool := s.canIssue t c && (((s.tile t).cask c).bind CaskCtx.issued).isSome

/-- Change a resident cask's context. -/
def State.modCask (s : State) (t c : Nat) (f : CaskCtx → CaskCtx) : State :=
  match (s.tile t).cask c with
  | some k => s.setTile t ((s.tile t).setCask c (f k))
  | none => s

/-! ## Stores -/

/-- Whether a byte range of the working store lies in a cask's private window or in the shared window (R100). -/
def inWindow (img : Bytes) (a n : Nat) : Bool :=
  decide (imgWsBase img ≤ a ∧ a + n ≤ imgWsBase img + imgWsLen img) || decide (imgShBase img ≤ a ∧ a + n ≤ imgShBase img + imgShLen img)

/-- Whether a micro-tile lies in a cask's vat window (R100). -/
def inVat (img : Bytes) (mt : Nat) : Bool := decide (imgVatBase img ≤ mt ∧ mt < imgVatBase img + imgVatLen img)

/-- A range of bytes of a tile's store: store (Table 3.11), address, length. -/
abbrev Range := Nat × Nat × Nat

/-- Whether the 64-bit word at `addr` of a store holds bytes of a range. -/
def Range.meets (r : Range) (store addr : Nat) : Bool := store == r.1 && decide (r.2.1 < addr + 8 ∧ addr < r.2.1 + r.2.2)

/-- Words in some of the ranges whose contents are uncorrectable. -/
def Tile.badIn (x : Tile) (rs : List Range) : List (Nat × Nat × Nat) := x.bad.filter fun b => rs.any fun r => r.meets b.1 b.2.1

/-- A failing word keeps its failing contents (R91). -/
def Tile.keepBad (x : Tile) (store addr syn : Nat) : Tile :=
  if store ≤ 2 ∧ (x.bad.any fun b => b.1 == store && b.2.1 == addr) = false then { x with bad := x.bad ++ [(store, addr, syn)] } else x

/-- What a code found in one word: a corrected bit counts for its store, an uncorrectable word stays (R90, R91). -/
def Tile.noteErr (x : Tile) (e : WordErr) : Tile :=
  match e.syn with
  | none => { x with corrected := modAt x.corrected e.store fun n => satAdd 16 n 1 }
  | some syn => x.keepBad e.store e.addr syn

/-- What the codes found in the words of some ranges. -/
def Tile.noteErrs (x : Tile) (rs : List Range) (es : List WordErr) : Tile :=
  (es.filter fun e => rs.any fun r => r.meets e.store e.addr).foldl Tile.noteErr x

/-- A read of a tile's stores (R90, R91): corrected words count, each uncorrectable word is reported. The Bool says that every
word is good; else nothing is delivered. -/
def State.readStores (s : State) (t cask : Nat) (scrub : Bool) (rs : List Range) (es : List WordErr) : Bool × State :=
  let s := s.modTile t fun x => x.noteErrs rs es
  let bad := (s.tile t).badIn rs
  (bad.isEmpty, bad.foldl (fun s b => s.sendReport t (.memory t cask b.1 b.2.1 b.2.2 scrub)) s)

/-- Words written whole are under a valid code again (R91). -/
def Tile.mend (x : Tile) (store a n : Nat) : Tile :=
  { x with bad := x.bad.filter fun b => !(b.1 == store && decide (a ≤ b.2.1 ∧ b.2.1 + 8 ≤ a + n)) }

/-- Write the working store. -/
def Tile.wsWrite (x : Tile) (a : Nat) (b : Bytes) : Tile := ({ x with ws := mwrite x.ws a b } : Tile).mend 0 a b.length

/-- Read the working store. -/
def Tile.wsRead (x : Tile) (a n : Nat) : Bytes := mread x.ws a n

/-- A vat accumulator; one that nothing has cleared or written reads 0 (log 11). -/
def Tile.acc (x : Tile) (mt i : Nat) : Acc := (kget x.vat (32 * mt + i)).getD (.val 0)

/-- Store an accumulator. -/
def Tile.setAcc (x : Tile) (mt i : Nat) (v : Acc) : Tile := { x with vat := kput x.vat (32 * mt + i) v }

/-- Accumulator exponent of a micro-tile. -/
def Tile.accX (x : Tile) (mt : Nat) : Int := (kget x.vatX mt).getD 0

/-- Whether a press operation issued to a micro-tile has not yet written (R67). -/
def Tile.pressPending (x : Tile) (mt : Nat) : Bool := x.pipe.any fun o => o.mt == mt

/-- The bytes of the vat that micro-tiles take. -/
def vatRanges (mts : List Nat) : List Range := mts.map fun mt => (1, 192 * mt, 192)

end Sys2Proof.Machine
end

