-- ==== Sys2Proof/Machine/Tokens.lean ====
section
/-! DEFINITION. Issue of micro-operations, queues, tokens, end-to-end credits, steering, rotation. -/

namespace Sys2Proof.Machine

/-! ## Queues -/

/-- Bytes of a slot of a queue entry (Table 4.6). -/
def slotBytes (e : Bytes) : Nat := 64 * qeLines e

/-- Working-store address of slot `i` of a queue. -/
def slotAddr (e : Bytes) (i : Nat) : Nat := qeBase e + slotBytes e * (i % max 1 (qeSlots e))

/-- A queue of a resident cask with its table entry. -/
def State.queueAt (s : State) (t c q : Nat) : Option (Queue × Bytes) :=
  match (s.tile t).cask c with
  | some k => (kget k.queues q).map fun x => (x, imgQueue k.image q)
  | none => none

/-- Store a queue. -/
def State.setQueue (s : State) (t c q : Nat) (x : Queue) : State := s.modCask t c fun k => { k with queues := kput k.queues q x }

/-- A token of cask `c` of a tile moved: a `CLOSED` slot notes it for the round in progress (R120). -/
def State.moved (s : State) (t c : Nat) : State :=
  match s.partOf t with
  | some pn => s.modPart pn fun p => p.modSlot c fun x => if x.still = some false then { x with still := some true } else x
  | none => s

/-- The bytes of the working store that the head slot of a queue takes. -/
def headRange (e : Bytes) (x : Queue) : Range := (0, slotAddr e x.head, slotBytes e)

/-- The bytes of the head token: as many flits as arrived. -/
def State.headToken (s : State) (t : Nat) (e : Bytes) (x : Queue) : Bytes :=
  (s.tile t).wsRead (slotAddr e x.head) (64 * (match x.seqs with | p :: _ => p.2.1 | [] => 0))

/-- Counts go back to the producer in a `KIND` 7 flit, 1 to 16 credits in its payload (R87; log 27 for the place, and for
`CLS` and `SEQ`, which are 0). -/
def State.sendCredits (s : State) (t c q : Nat) : State :=
  match s.queueAt t c q with
  | some (x, e) =>
    let n := min x.uncounted 16
    if n = 0 then s
    else (s.setQueue t c q { x with uncounted := x.uncounted - n }).inject t
      [mkFlit t (qePtile e) 0 0 c 7 (64 * qePcask e + qePedge e) 0 true (le 1 n)]
  | none => s

/-- A slot is freed at the head: the pop counts for credit return, and the count goes out at the threshold (R87, R117). -/
def State.popQueue (s : State) (t c q : Nat) : State :=
  match s.queueAt t c q with
  | some (x, e) =>
    let y := { x with head := (x.head + 1) % max 1 (qeSlots e), seqs := x.seqs.drop 1, uncounted := x.uncounted + 1 }
    let s := (s.setQueue t c q y).moved t c
    if qeThr e ≤ y.uncounted then s.sendCredits t c q else s
  | none => s

/-! ## Issue (R101, R102) -/

/-- An assigned opcode (Table 4.5). -/
def opcodeOk (op : Nat) : Bool := decide (op < 0x80 ∨ op = 0xF0 ∨ op = 0xFF)

/-- Whether every queue popped holds a token and every edge sent on holds a credit (R102). -/
def CaskCtx.inputsReady (k : CaskCtx) (pops sends : List Nat) : Bool :=
  (pops.all fun q => match kget k.queues q with | some x => !x.seqs.isEmpty | none => false)
    && sends.all fun e => match kget k.edges e with | some d => 0 < d.credits | none => false

/-- The pointer after the micro-operation at it has issued: `END` returns it to 0, and so does a list's last micro-operation
where it is no `END`, on which the spec is silent (log 36). -/
def CaskCtx.nextUop (k : CaskCtx) : CaskCtx :=
  { k with
    issued := some k.uptr
    uptr := if fld (imgUop k.image k.uptr) 0 0 8 = 0xFF then 0 else (k.uptr + 1) % max 1 (imgUops k.image) }

/-- The word of the cask store that holds micro-operation `u` of slot `c`: a slot takes 49,152 bytes (R95, R101). -/
def uopRange (img : Bytes) (c u : Nat) : Range := (2, 49152 * c + 64 * fld img 16 0 16 + 8 * u, 8)

/-- UOP_ISSUE (R102): the cask running issues its next micro-operation, whose word is read from the cask store; a reserved
opcode reached is a graph fault. How `A`, `B` and `D` name the queues popped and the edges sent on is "per `OP`", which the spec
does not give: the row names them (log 35). -/
def execUopIssue (tile : Nat) (pops sends : List Nat) (errs : List WordErr) (s : State) : Host.Outcome State Fault Refusal :=
  let c := (s.tile tile).running
  match (s.tile tile).cask c with
  | some k =>
    if s.canIssue tile c ∧ k.inputsReady pops sends = true then
      let r := s.readStores tile c false [uopRange k.image c k.uptr] errs
      if r.1 then
        if opcodeOk (imgOp k.image k.uptr) then .next (r.2.modCask tile c CaskCtx.nextUop) else .next (r.2.uopFault tile c 6 k.uptr)
      else .next r.2
    else .next s
  | none => .next s

/-- END (R101): the list restarts at micro-operation 0. -/
def execEndList (tile cask : Nat) (s : State) : Host.Outcome State Fault Refusal :=
  if s.classRuns tile cask 0xFF 0xFF then .next (s.modCask tile cask fun k => { k with uptr := 0 }) else .next s

/-- STEP_END (R113): the cask's part of the step is done, and the tile reports it. -/
def execStepEnd (tile cask : Nat) (s : State) : Host.Outcome State Fault Refusal :=
  if s.classRuns tile cask 0xF0 0xF0 then
    .next ((s.modCask tile cask fun k => { k with stepDone := true }).inject tile [reportFlit tile cask 0])
  else .next s

/-! ## Pops and sends (R86, R117) -/

/-- QUEUE_POP (R117): the token's slot is read and freed; a bad word delivers nothing (R91). -/
def execQueuePop (tile cask queue : Nat) (errs : List WordErr) (s : State) : Host.Outcome State Fault Refusal :=
  if s.anyRuns tile cask then
    match s.queueAt tile cask queue with
    | some (x, e) =>
      if x.seqs.isEmpty then .next s
      else
        let r := s.readStores tile cask false [headRange e x] errs
        .next (if r.1 then r.2.popQueue tile cask queue else r.2)
    | none => .next s
  else .next s

/-- Send a token on an edge that holds a credit, through the engine that serves the edge: one credit, the edge's next number
(R75, R86, R105, R125). -/
def State.sendToken (s : State) (t c e : Nat) (data : Bytes) : State :=
  match (s.tile t).cask c with
  | some k =>
    match kget k.edges e with
    | some d =>
      let en := imgEdge k.image e
      ((s.modCask t c fun k => { k with edges := kput k.edges e ⟨d.credits - 1, (d.seq + 1) % 256⟩ }).moved t c).injectBy t (eeEng en)
        (tokenFlits t (eeTile en) (eeCls en) c (eeQid en) d.seq data)
    | none => s
  | none => s

/-- Credits of an edge. -/
def State.edgeCredits (s : State) (t c e : Nat) : Nat :=
  match (s.tile t).cask c with
  | some k => match kget k.edges e with | some d => d.credits | none => 0
  | none => 0

/-- TOKEN_SEND (R86). -/
def execTokenSend (tile cask edge : Nat) (data : Bytes) (s : State) : Host.Outcome State Fault Refusal :=
  if s.classRuns tile cask 0x60 0x6F ∧ 0 < s.edgeCredits tile cask edge then .next (s.sendToken tile cask edge data) else .next s

/-! ## Rotation (R144, R145) -/

/-- Index of a tile within its partition (R20). -/
def Partition.indexOf (p : Partition) (t : Nat) : Nat := t - 32 * p.col0

/-- Movement plan `n` of the partition of a tile, where the tile is in its list. -/
def State.planAt (s : State) (t n : Nat) : Option Plan :=
  match (s.partOf t).bind s.part with
  | some p => (p.plans[n]?).filter fun q => q.tiles.contains (p.indexOf t)
  | none => none

/-- Where the two buffers of plan `n` begin on a tile: in the shared window, behind those of the tile's earlier plans
(R144; log 37). -/
def State.planBase (s : State) (t n : Nat) (img : Bytes) : Nat :=
  imgShBase img + 2 * (((List.range n).filterMap fun i => s.planAt t i).map Plan.buf).sum

/-- Address of `HOLD`, or of `NEXT`. -/
def Ring.addr (r : Ring) (base buf : Nat) (next : Bool) : Nat := if r.swapped != next then base + buf else base

/-- The rotation buffers of a plan on a tile. -/
def Tile.ring (x : Tile) (n : Nat) : Ring := (kget x.rings n).getD ⟨false, false, none⟩

/-- Store them. -/
def Tile.setRing (x : Tile) (n : Nat) (r : Ring) : Tile := { x with rings := kput x.rings n r }

/-- Tokens that carry one block: one where a slot of the queue holds it (log 37). -/
def blockTokens (buf : Nat) (e : Bytes) : Nat := max 1 (ceilDiv buf (slotBytes e))

/-- A block's bytes go out as tokens on the rotation edge. -/
def State.sendBlock (s : State) (t c edge : Nat) (b : Bytes) (step : Nat) : Nat → State
  | 0 => s
  | n + 1 => (s.sendToken t c edge (b.take step)).sendBlock t c edge (b.drop step) step n

/-- The tokens of a block are popped, their bytes in order. -/
def State.takeBlock (s : State) (t c q : Nat) : Nat → Bytes × State
  | 0 => ([], s)
  | n + 1 =>
    match s.queueAt t c q with
    | some (x, e) =>
      let r := (s.popQueue t c q).takeBlock t c q n
      (s.headToken t e x ++ r.1, r.2)
    | none => ([], s)

/-- `NEXT` of a rotation whose `HOLD` has been sent fills once its block has come: the buffers swap (R145). -/
def State.swapRing (s : State) (t n : Nat) : State :=
  match s.planAt t n, ((s.tile t).ring n).waiting with
  | some p, some (c, q) =>
    match s.queueAt t c q, s.image t c with
    | some (x, e), some img =>
      let m := blockTokens p.buf e
      if m ≤ x.seqs.length then
        let r := s.takeBlock t c q m
        let g := (s.tile t).ring n
        r.2.modTile t fun y => (y.wsWrite (g.addr (s.planBase t n img) p.buf true) (r.1.take p.buf)).setRing n ⟨!g.swapped, true, none⟩
      else s
    | _, _ => s
  | _, _ => s

/-- The rotations of a tile that wait look at their queues. -/
def State.swapRings (s : State) (t : Nat) : State := ((s.tile t).rings.map Prod.fst).foldl (fun s n => s.swapRing t n) s

/-- ROTATE (R145): `HOLD` of rotation plan `plan` goes to the successor over the rotation edge; the micro-operation then waits
for `NEXT`, which the rotation queue fills, and the buffers swap. -/
def execRotate (tile cask plan queue edge : Nat) (errs : List WordErr) (s : State) : Host.Outcome State Fault Refusal :=
  match s.planAt tile plan, s.image tile cask, s.queueAt tile cask queue with
  | some p, some img, some (_, e) =>
    let g := (s.tile tile).ring plan
    let m := blockTokens p.buf e
    let a := g.addr (s.planBase tile plan img) p.buf false
    if s.classRuns tile cask 0x70 0x7F ∧ p.move = 1 ∧ g.held = true ∧ g.waiting = none ∧ m ≤ s.edgeCredits tile cask edge then
      if inWindow img a p.buf then
        let r := s.readStores tile cask false [(0, a, p.buf)] errs
        .next (if r.1 then
            (((r.2.sendBlock tile cask edge ((r.2.tile tile).wsRead a p.buf) (slotBytes e) m).modTile tile fun x =>
              x.setRing plan { g with waiting := some (cask, queue) }).swapRing tile plan)
          else r.2)
      else .next (s.uopFault tile cask 7 (((s.tile tile).cask cask).bind CaskCtx.issued |>.getD 0))
    else .next s
  | _, _, _ => .next s

/-! ## Arrivals (R87, R115, R116) -/

/-- A flit the router has delivered is taken. -/
def State.takeEject (s : State) (t : Nat) (f : Flit) : State := s.modTile t fun x => { x with eject := x.eject.erase f }

/-- Whether slot `c` of the partition of a tile accepts tokens (Table 4.1). -/
def State.accepts (s : State) (t c : Nat) : Bool :=
  match (s.partOf t).bind s.part with
  | some p => (p.slotAt c).st == .ready || (p.slotAt c).st == .active || (p.slotAt c).st == .closed
  | none => false

/-- The graph fault that an arriving token raises, if any: stray token 3, queue overrun 4 (R116, Table 4.13). -/
def State.tokenFault (s : State) (t : Nat) (f : Flit) : Option Nat :=
  match s.queueAt t (f.qid / 64) (f.qid % 64) with
  | some (x, e) =>
    if !(s.accepts t (f.qid / 64)) || f.src != qePtile e || f.cask != qePcask e then some 3
    else if x.part.isNone && decide (qeSlots e ≤ x.seqs.length) then some 4
    else none
  | none => some 3

/-- A flit of a token lands; the last completes the token, which takes its place in the queue (R86, R115). -/
def State.landToken (s : State) (t : Nat) (f : Flit) : State :=
  let s := s.moved t (f.qid / 64)
  match s.queueAt t (f.qid / 64) (f.qid % 64) with
  | some (x, e) =>
    let got := match x.part with | some p => p.2 | none => []
    let b := (got ++ f.payload).take (slotBytes e)
    if f.last then
      let n := (s.tile t).arrivals
      let s := s.modTile t fun y => { y.wsWrite (slotAddr e (x.head + x.seqs.length)) b with arrivals := n + 1 }
      (s.setQueue t (f.qid / 64) (f.qid % 64) { x with part := none, seqs := x.seqs ++ [(f.seq, b.length / 64, n)] }).swapRings t
    else s.setQueue t (f.qid / 64) (f.qid % 64) { x with part := some (f.seq, b) }
  | none => s

/-- The token a flit belongs to. -/
def Flit.token (f : Flit) : Nat × Nat × Nat := (f.src, f.qid, f.seq)

/-- A token is refused: its flits still to come are dropped with it (R116). -/
def Tile.refuseToken (x : Tile) (f : Flit) : Tile := if f.last then x else { x with refused := x.refused ++ [f.token] }

/-- A later flit of a token already refused is dropped; the last ends it. -/
def Tile.dropRefused (x : Tile) (f : Flit) : Tile := if f.last then { x with refused := x.refused.erase f.token } else x

/-- TOKEN_ARRIVAL (R116): a token's flit that the router has delivered. -/
def execTokenArrival (tile : Nat) (flit : Flit) (s : State) : Host.Outcome State Fault Refusal :=
  let t := s.takeEject tile flit
  if (s.tile tile).eject.contains flit && flit.kind == 6 then
    if (s.tile tile).refused.contains flit.token then .next (t.modTile tile fun x => x.dropRefused flit)
    else match s.tokenFault tile flit with
      | some k => .next ((t.modTile tile fun x => x.refuseToken flit).sendReport tile
          (.graph tile (flit.qid / 64 % 4) k flit.qid 0 flit.seq flit.src 0xFFF))
      | none => .next (t.landToken tile flit)
  else .next s

/-- Credits that a `KIND` 7 flit carries (log 27). -/
def creditCount (f : Flit) : Nat := fld f.payload 0 0 5

/-- E2E_CREDIT_RETURN (R87): the credits of a delivered flit are added whatever cask runs; more than `CREDITS` is a graph fault,
and so is a return that names no edge of a resident cask, which exceeds a count of 0 (log 36). -/
def execE2eCreditReturn (tile : Nat) (flit : Flit) (s : State) : Host.Outcome State Fault Refusal :=
  let t := s.takeEject tile flit
  let c := flit.qid / 64
  let e := flit.qid % 64
  if (s.tile tile).eject.contains flit && flit.kind == 7 then
    match ((s.tile tile).cask c).bind fun k => (kget k.edges e).map fun d => (k, d) with
    | some (k, d) =>
      if d.credits + creditCount flit ≤ eeCredits (imgEdge k.image e) then
        .next (t.modCask tile c fun k => { k with edges := kput k.edges e { d with credits := d.credits + creditCount flit } })
      else .next (t.sendReport tile (.graph tile (c % 4) 5 flit.qid 0 0 flit.src 0xFFF))
    | none => .next (t.sendReport tile (.graph tile (c % 4) 5 flit.qid 0 0 flit.src 0xFFF))
  else .next s

/-- CREDIT_RETURN_TIMER (R87): the count goes out 16 fc after the oldest uncounted pop. -/
def execCreditReturnTimer (tile cask queue : Nat) (s : State) : Host.Outcome State Fault Refusal :=
  .next (s.sendCredits tile cask queue)

/-! ## Steering (R124 to R127) -/

def peCq (e : Bytes) : Nat := fld e 0 0 6
def peDq (e : Bytes) : Nat := fld e 1 0 6
def peOut0 (e : Bytes) : Nat := fld e 2 0 7
def peOut1 (e : Bytes) : Nat := fld e 3 0 7

/-- Edges that a selector names: 00 drops, 01 `OUT0`, 10 `OUT1`, 11 both (R125). -/
def steerEdges (e : Bytes) (sel : Nat) : List Nat :=
  (if sel % 2 = 1 then [peOut0 e] else []) ++ (if sel / 2 % 2 = 1 then [peOut1 e] else [])

/-- The pairing of two heads (R126): unequal `SEQ` is fault 1, also where the selector is invalid too (log 36), an invalid
selector fault 2; else both are popped and the data token waits for its edges. -/
def State.pairUp (s : State) (t c n : Nat) (pe : Bytes) (cx : Queue) (ce : Bytes) (dx : Queue) (de : Bytes) : State :=
  let sc := (match cx.seqs with | p :: _ => p.1 | [] => 0)
  let sd := (match dx.seqs with | p :: _ => p.1 | [] => 0)
  let sel := ((s.headToken t ce cx).getD 0 0).toNat
  if sc ≠ sd then s.sendReport t (.graph t c 1 (64 * c + peDq pe) sc sd (qePtile de) 0xFFF)
  else if 4 ≤ sel ∨ (steerEdges pe sel).contains 127 = true then
    s.sendReport t (.graph t c 2 (64 * c + peCq pe) sc sd (qePtile ce) 0xFFF)
  else
    let data := s.headToken t de dx
    let s := (s.popQueue t c (peCq pe)).popQueue t c (peDq pe)
    if sel = 0 then s else s.modCask t c fun k => { k with steered := kput k.steered n ⟨data, steerEdges pe sel⟩ }

/-- The heads of a pair that is ready: both present, no token of the pair waiting for an edge (R126, R127). -/
def State.pairHeads (s : State) (t c n : Nat) : Option (Bytes × (Queue × Bytes) × (Queue × Bytes)) :=
  match (s.tile t).cask c with
  | some k =>
    let pe := imgPair k.image n
    if (kget k.steered n).isSome then none
    else match s.queueAt t c (peCq pe), s.queueAt t c (peDq pe) with
      | some a, some b => if a.1.seqs.isEmpty || b.1.seqs.isEmpty then none else some (pe, a, b)
      | _, _ => none
  | none => none

/-- Arrival of the head token of a ready pair that has waited. -/
def pairAge (h : Bytes × (Queue × Bytes) × (Queue × Bytes)) : Nat :=
  min (match h.2.1.1.seqs with | p :: _ => p.2.2 | [] => 0) (match h.2.2.1.seqs with | p :: _ => p.2.2 | [] => 0)

/-- The pair that the steering unit takes: of the ready ones of a cask, that whose waiting head token is older (R73). -/
def State.readyPair (s : State) (t c : Nat) : Option (Nat × Bytes × (Queue × Bytes) × (Queue × Bytes)) :=
  let l := (List.range (match s.image t c with | some b => imgPairs b | none => 0)).filterMap fun n => (s.pairHeads t c n).map fun h => (n, h)
  match l with
  | [] => none
  | x :: r => some (r.foldl (fun a b => if pairAge b.2 < pairAge a.2 then b else a) x)

/-- STEERING_PAIRING (R73, R126): the pair's cask is running. -/
def execSteeringPairing (tile cask : Nat) (errs : List WordErr) (s : State) : Host.Outcome State Fault Refusal :=
  if s.canIssue tile cask then
    match s.readyPair tile cask with
    | some (n, pe, (cx, ce), (dx, de)) =>
      let r := s.readStores tile cask false [headRange ce cx, headRange de dx] errs
      .next (if r.1 then r.2.pairUp tile cask n pe cx ce dx de else r.2)
    | none => .next s
  else .next s

/-- STEERED_TOKEN_SEND (R127): the first selected edge that holds a credit takes the token, under its own next number. A pairing
in progress is finished under its tag whatever cask runs (R108). -/
def execSteeredTokenSend (tile cask pair : Nat) (s : State) : Host.Outcome State Fault Refusal :=
  match ((s.tile tile).cask cask).bind fun k => kget k.steered pair with
  | some st =>
    match st.edges.find? fun e => decide (0 < s.edgeCredits tile cask e) with
    | some e =>
      if s.pwr.stopped then .next s
      else
        let rest := st.edges.erase e
        let s := s.sendToken tile cask e st.data
        .next (s.modCask tile cask fun k => { k with steered := if rest.isEmpty then kdel k.steered pair else kput k.steered pair ⟨st.data, rest⟩ })
    | none => .next s
  | none => .next s

end Sys2Proof.Machine
end

