-- ==== Sys2Proof/Machine/LoadOps.lean ====
section
/-! DEFINITION. What a loader reads: the cuvée and its sections (Tables 5.1 to 5.12, 7.11, 7.12), the cask-image index, and the checks of Tables 4.10 and 5.14. -/

namespace Sys2Proof.Machine

/-! ## Status codes of the loader (Table 11.4) -/

def stLoadFailed : Nat := 0x0112
def stCaskInUse : Nat := 0x0113
def stCaskNotDrained : Nat := 0x0114
def stCaskImage : Nat := 0x0115
def stCaskWindow : Nat := 0x0116
def stGeometry : Nat := 0x0117

/-- Status of a check of Table 5.14; check 5 has those of Table 4.10. -/
def checkStatus (n : Nat) : Nat := if n ≤ 4 then 0xFF + n else 0xFE + n

/-- A check that failed: its number, its status, and the section, entry and tile index it concerns (R162). -/
structure Flaw where
  check : Nat
  status : Nat
  sect : Option Nat
  entry : Option Nat
  tile : Option Nat
  deriving DecidableEq, Repr

/-- A flaw of check `n`. -/
def flaw (n : Nat) (sect entry tile : Option Nat) : Flaw := ⟨n, checkStatus n, sect, entry, tile⟩

/-- Something of a cuvée with the section and entry it stands in. -/
structure At (α : Type) where
  sect : Nat
  entry : Nat
  val : α
  deriving DecidableEq, Repr

/-- A flaw of check `n` at a place. -/
def At.flaw {α : Type} (x : At α) (n : Nat) (tile : Option Nat) : Flaw := Machine.flaw n (some x.sect) (some x.entry) tile

/-- The first flaw of a list. -/
def firstFlaw : List (Option Flaw) → Option Flaw
  | [] => none
  | some f :: _ => some f
  | none :: l => firstFlaw l

/-- Whether two spans of bytes overlap. -/
def spansMeet (a b : Nat × Nat) : Bool := decide (0 < a.2 ∧ 0 < b.2 ∧ a.1 < b.1 + b.2 ∧ b.1 < a.1 + a.2)

/-- The first element that meets one before it. -/
def firstMeeting {α : Type} (meets : α → α → Bool) : List α → List α → Option α
  | _, [] => none
  | before, x :: xs => if before.any (meets x) then some x else firstMeeting meets (x :: before) xs

/-! ## Layouts (reserved bits: R462) -/

def layHeader : List (Nat × Nat × Nat) := [(0, 0, 32), (4, 0, 16), (6, 0, 7), (8, 0, 64), (16, 0, 64), (24, 0, 32), (28, 0, 16), (30, 0, 16), (32, 0, 64)]
def laySect : List (Nat × Nat × Nat) := [(0, 0, 16), (2, 0, 16), (4, 0, 32), (8, 0, 64), (16, 0, 64)]
def layTensor : List (Nat × Nat × Nat) := [(0, 0, 16), (2, 0, 4), (4, 0, 16), (8, 0, 32), (12, 0, 32), (16, 0, 64), (24, 0, 64)]
def layCounter : List (Nat × Nat × Nat) := [(0, 0, 3), (1, 0, 8), (4, 0, 32), (8, 0, 32)]
def layShape : List (Nat × Nat × Nat) := [(0, 0, 4), (1, 0, 8), (2, 0, 16), (4, 0, 32), (8, 0, 16), (10, 0, 16), (12, 0, 16), (16, 0, 32), (20, 0, 32), (24, 0, 16), (26, 0, 16)]
def layCandidate : List (Nat × Nat × Nat) := [(0, 0, 4), (1, 0, 3), (2, 0, 16), (4, 0, 16), (6, 0, 16), (8, 0, 8), (10, 0, 16), (12, 0, 16), (14, 0, 8),
  (15, 0, 8), (16, 0, 32), (20, 0, 32), (24, 0, 32), (28, 0, 32), (32, 0, 32), (36, 0, 32), (40, 0, 16), (42, 0, 16)]
def layPlan : List (Nat × Nat × Nat) := [(0, 0, 16), (2, 0, 3), (4, 0, 12), (8, 0, 32), (12, 0, 32)]
def layIndex : List (Nat × Nat × Nat) := [(0, 0, 13), (8, 0, 64)]
def layPreload : List (Nat × Nat × Nat) := [(0, 0, 11), (2, 0, 2), (3, 0, 6), (4, 0, 16)]
def layManifest : List (Nat × Nat × Nat) := [(0, 0, 8), (1, 0, 2), (2, 0, 8), (3, 0, 8), (4, 0, 32), (8, 0, 21), (12, 0, 8), (13, 0, 8), (16, 0, 64),
  (24, 0, 16), (26, 0, 6), (28, 0, 16), (30, 0, 6)]
def layShard : List (Nat × Nat × Nat) := [(0, 0, 8), (2, 0, 16), (8, 0, 48), (16, 0, 48), (24, 0, 48)]
def layLayer : List (Nat × Nat × Nat) := [(0, 0, 16)]
def layStep : List (Nat × Nat × Nat) := [(0, 0, 2), (1, 0, 24), (4, 0, 16)]
/-- The tiler's parameter entry (R155). -/
def layTiling : List (Nat × Nat × Nat) := [(0, 0, 16), (2, 0, 16), (4, 0, 16), (6, 0, 3), (7, 0, 8), (8, 0, 32), (12, 0, 16), (14, 0, 8), (15, 0, 8)]
def layImage : List (Nat × Nat × Nat) := [(0, 0, 16), (2, 0, 8), (4, 0, 32), (8, 0, 13), (10, 0, 11), (12, 0, 7), (13, 0, 7), (14, 0, 6), (15, 0, 4),
  (16, 0, 16), (18, 0, 16), (20, 0, 16), (22, 0, 16), (24, 0, 16), (26, 0, 16), (28, 0, 20), (32, 0, 21), (36, 0, 10), (38, 0, 11), (40, 0, 20), (44, 0, 21)]
def layQueue : List (Nat × Nat × Nat) := [(0, 0, 24), (4, 0, 16), (6, 0, 5), (7, 0, 1), (8, 0, 11), (10, 0, 8)]
/-- `EXIT` of an edge is 000 (Table 4.7), so its bits are not among the named ones (log 28). -/
def layEdge : List (Nat × Nat × Nat) := [(0, 0, 11), (2, 0, 8), (3, 0, 4), (4, 0, 9)]
def layPair : List (Nat × Nat × Nat) := [(0, 0, 6), (1, 0, 6), (2, 0, 7), (3, 0, 7)]
def layStream : List (Nat × Nat × Nat) := [(0, 0, 9), (2, 0, 16), (4, 0, 24), (8, 0, 6), (9, 0, 5), (10, 0, 8), (12, 0, 32), (16, 0, 64), (24, 0, 64),
  (32, 0, 32), (36, 0, 32), (40, 0, 32), (44, 0, 32), (48, 0, 32)]

/-! ## Fold schedules (Table 4.9) -/

/-- The steps that a schedule's bytes give, as many as `COUNT` says. -/
def parseSched (b : Bytes) : List FoldStep :=
  (List.range (fld b 0 0 3)).map fun k =>
    let e := slice b (8 + 8 * k) 8
    ⟨fld e 0 0 2, fld e 1 0 24, fld e 4 0 16⟩

/-- The bytes of a schedule. -/
def schedBytes (l : List FoldStep) : Bytes :=
  pack 8 [(0, 0, 3, l.length)] ++ l.flatMap fun k => pack 8 [(0, 0, 2, k.cask), (1, 0, 24, k.dwell), (4, 0, 16, k.lead)]

/-- Whether the reserved bits of a schedule are 0. -/
def schedReserved (b : Bytes) : Bool :=
  reservedZero (slice b 0 8) [(0, 0, 3)] && (List.range (fld b 0 0 3)).all fun k => reservedZero (slice b (8 + 8 * k) 8) layStep

/-! ## What a cuvée declares -/

/-- An image with the tile index and slot it is for (Table 5.2a). -/
structure Img where
  tidx : Nat
  slot : Nat
  bytes : Bytes
  deriving DecidableEq, Repr

/-- A tensor declaration (Table 5.3). -/
structure Tensor where
  fmtw : Nat
  move : Nat
  pin : Bool
  cellar : Bool
  layer : Nat
  kdim : Nat
  odim : Nat
  data : Nat
  daddr : Nat
  deriving DecidableEq, Repr

/-- A counter declaration (Table 5.9). -/
structure CtrDecl where
  die : Nat
  arm : Nat
  space : Nat
  base : Nat
  limit : Nat
  deriving DecidableEq, Repr

/-- An edge preload (Table 5.2b). -/
structure Preload where
  tidx : Nat
  cask : Nat
  queue : Nat
  k : Nat
  tokens : List Bytes
  deriving DecidableEq, Repr

/-- What the checks on a graph look at, of a cuvée or of what is resident (R160, R292). -/
structure Graph where
  cols : Nat
  col0 : Nat
  imgs : List (At Img)
  sched : List FoldStep
  cands : List (At Candidate)
  shapes : List (At Shape)
  plans : List (At Plan)
  preloads : List (At Preload)
  deriving DecidableEq, Repr

/-- A cuvée as read. -/
structure Cuvee where
  cols : Nat
  graphId : Nat
  seed : Nat
  entries : Nat
  /-- section and bytes of the fold schedule -/
  schedAt : Nat × Bytes
  imgs : List (At Img)
  tensors : List (At Tensor)
  ctrs : List (At CtrDecl)
  shapes : List (At Shape)
  cands : List (At Candidate)
  plans : List (At Plan)
  preloads : List (At Preload)
  layers : List Nat
  /-- section of the manifest, and the manifest with the chip's own shard entry -/
  manSect : Nat
  man : Manifest
  /-- whether the manifest assigns a shard to the node -/
  assigned : Bool
  deriving DecidableEq, Repr

/-- The graph of a cuvée that loads at column `col0`. -/
def Cuvee.graph (v : Cuvee) (col0 : Nat) : Graph where
  cols := v.cols
  col0 := col0
  imgs := v.imgs
  sched := parseSched v.schedAt.2
  cands := v.cands
  shapes := v.shapes
  plans := v.plans
  preloads := v.preloads

/-! ## Reading an image's index (R464) -/

/-- An image that begins at `off` of a section: as many lines as its `LEN` says. -/
def imageAt (body : Bytes) (off : Nat) : Bytes := slice body off (64 * max 1 (fld (slice body off 2) 0 0 16))

/-- The images of a section by its index of `n` entries. -/
def parseImages (sect : Nat) (body : Bytes) (n : Nat) : List (At Img) :=
  (List.range n).map fun i =>
    let e := slice body (16 * i) 16
    ⟨sect, i, ⟨fld e 0 0 11, fld e 0 11 2, imageAt body (fld e 8 0 64)⟩⟩

/-- Faults of an index of `n` entries in a section of `len` bytes for a partition of `cols` columns (R464). -/
def indexFault (body : Bytes) (len n cols : Nat) : Option (Nat × Nat) :=
  let e := fun i => slice body (16 * i) 16
  let key := fun i => fld (e i) 0 0 13
  ((List.range n).find? fun i =>
    let off := fld (e i) 8 0 64
    !(reservedZero (e i) layIndex) || decide (32 * cols ≤ fld (e i) 0 0 11) || off % 64 != 0
      || decide (off < 16 * n ∨ len < off + 64 * max 1 (fld (slice body off 2) 0 0 16))
      || (List.range i).any fun j => key j == key i).map fun i => (i, fld (e i) 0 0 11)

/-! ## Checks on one image (Table 4.10, orders 3, 4 and 7) -/

/-- Sections of an image that have entries: offset and length in bytes. -/
def imgSections (b : Bytes) : List (Nat × Nat) :=
  let at_ := fun (o n : Nat) => (64 * fld b o 0 16, n)
  [at_ 16 (8 * imgUops b), at_ 18 (16 * imgParams b), at_ 20 (16 * imgQueues b), at_ 22 (8 * imgEdges b), at_ 24 (8 * imgPairs b),
    at_ 26 (128 * imgEngineIdx b 4)].filter fun s => decide (0 < s.2)

/-- Engines an image uses. -/
def imgEngineList (b : Bytes) : List Nat := (List.range 4).filter (imgUses b)

/-- Order 3: length, sections, version, reserved fields, window granularity. -/
def imgStructure (b : Bytes) : Bool :=
  decide (1 ≤ imgLines b ∧ imgLines b ≤ 768) && imgFmtv b == 1 && reservedZero (b.take 64) layImage
    && (imgSections b).all (fun s => decide (s.1 + s.2 ≤ 64 * imgLines b))
    && (firstMeeting spansMeet [(0, 64)] (imgSections b)).isNone
    && imgWsBase b % 256 == 0 && imgWsLen b % 256 == 0
    && (List.range (imgParams b)).all (fun i => fld (imgParam b i) 15 0 8 != 0xA0 || reservedZero (imgParam b i) layTiling)
    && (List.range (imgQueues b)).all (fun i => reservedZero (imgQueue b i) layQueue)
    && (List.range (imgEdges b)).all (fun i => reservedZero (imgEdge b i) layEdge)
    && (List.range (imgPairs b)).all (fun i => reservedZero (imgPair b i) layPair)
    && (imgEngineList b).all fun e => reservedZero (imgActive b e) layStream && reservedZero (imgShadow b e) layStream && !(sdValid (imgActive b e))

/-- Order 4: counts within Table 4.3, no reserved opcode. -/
def imgCounts (b : Bytes) : Bool :=
  decide (1 ≤ imgUops b ∧ imgUops b ≤ 4096 ∧ imgParams b ≤ 1024 ∧ imgQueues b ≤ 64 ∧ imgEdges b ≤ 64 ∧ imgPairs b ≤ 32
    ∧ imgWsLen b ≤ 1048576 ∧ imgVatLen b ≤ 1024)
    && (List.range (imgUops b)).all fun i => opcodeOk (fld (imgUop b i) 0 0 8)

/-- Bytes of the working store that queues and rings of an image take: address and length. -/
def imgBuffers (b : Bytes) : List (Nat × Nat) :=
  ((List.range (imgQueues b)).map fun i => let q := imgQueue b i; (qeBase q, slotBytes q * qeSlots q))
    ++ (imgEngineList b).map fun e => let d := imgActive b e; (sdRbase d, 64 * (sdClines d + sdSlines d) * sdSlots d)

/-- Order 7: every queue and ring lies in the private window. An image declares no other buffer: the operand buffers of its
micro-operations stand in no entry of it (Tables 4.3 to 4.8; log 28). -/
def imgPlaced (b : Bytes) : Bool :=
  (imgBuffers b).all fun r => decide (imgWsBase b ≤ r.1 ∧ r.1 + r.2 ≤ imgWsBase b + imgWsLen b)

/-- Whether the windows of two casks of one tile overlap (order 5, R100). -/
def windowsMeet (a b : Bytes) : Bool :=
  spansMeet (imgWsBase a, imgWsLen a) (imgWsBase b, imgWsLen b) || spansMeet (imgVatBase a, imgVatLen a) (imgVatBase b, imgVatLen b)

/-- Whether two images of one graph declare different shared windows (order 6). -/
def sharedDiffers (a b : Bytes) : Bool :=
  imgGraph a == imgGraph b && (imgShBase a != imgShBase b || imgShLen a != imgShLen b)

/-- Orders 3 to 7 of Table 4.10 on images, each order on all of them before the next: the image and its status. -/
def imagesFault (l : List (At Img)) : Option (At Img × Nat) :=
  match l.find? fun x => !(imgStructure x.val.bytes) with
  | some x => some (x, stCaskImage)
  | none =>
    match l.find? fun x => !(imgCounts x.val.bytes) with
    | some x => some (x, stCaskImage)
    | none =>
      match firstMeeting (fun x y => x.val.tidx == y.val.tidx && x.val.slot != y.val.slot && windowsMeet x.val.bytes y.val.bytes) [] l with
      | some x => some (x, stCaskWindow)
      | none =>
        match firstMeeting (fun x y => sharedDiffers x.val.bytes y.val.bytes) [] l with
        | some x => some (x, stCaskWindow)
        | none => (l.find? fun x => !(imgPlaced x.val.bytes)).map fun x => (x, stCaskWindow)

/-! ## The graph's checks (Table 5.14, 5, 6, 10, 11, 13, 16, 17, 18) -/

/-- Slots that the schedule names. -/
def Graph.names (g : Graph) (c : Nat) : Bool := g.sched.any fun k => k.cask == c

/-- The image of a tile index and slot. -/
def Graph.img (g : Graph) (t c : Nat) : Option (At Img) := g.imgs.find? fun x => x.val.tidx == t && x.val.slot == c

/-- Whether a tile ID lies in the partition's columns. -/
def Graph.holds (g : Graph) (t : Nat) : Bool := decide (g.col0 ≤ tileCol t ∧ tileCol t < g.col0 + g.cols)

/-- The tile index of a tile ID. -/
def Graph.tidx (g : Graph) (t : Nat) : Nat := t - 32 * g.col0

/-- Check 5. -/
def Graph.check5 (g : Graph) : Option Flaw :=
  (imagesFault g.imgs).map fun r => ⟨5, r.2, some r.1.sect, some r.1.entry, some r.1.val.tidx⟩

/-- Check 6: images for every named slot on every tile, steering and ends within the partition, preloads of declared
queues. -/
def Graph.check6 (g : Graph) : Option Flaw :=
  let missing := (List.range (32 * g.cols)).find? fun t => (List.range 4).any fun c => g.names c && (g.img t c).isNone
  match missing with
  | some t => some (flaw 6 none none (some t))
  | none =>
    let bad := fun (x : At Img) =>
      let b := x.val.bytes
      decide (64 < imgQueues b ∨ 64 < imgEdges b ∨ 32 < imgPairs b)
        || (List.range (imgPairs b)).any (fun i => let q := peCq (imgPair b i); decide (imgQueues b ≤ q) || !(qeCtrl (imgQueue b q)))
        || (List.range (imgEdges b)).any (fun i => !(g.holds (eeTile (imgEdge b i))))
        || (List.range (imgQueues b)).any fun i => !(g.holds (qePtile (imgQueue b i)))
    match g.imgs.find? bad with
    | some x => some (x.flaw 6 (some x.val.tidx))
    | none =>
      (g.preloads.find? fun p => decide (32 * g.cols ≤ p.val.tidx)
        || (match g.img p.val.tidx p.val.cask with | some x => decide (imgQueues x.val.bytes ≤ p.val.queue) | none => true)).map
        fun p => p.flaw 6 (some p.val.tidx)

/-- Check 10: windows within 1 MiB, and the two buffers of every weight movement of a tile, laid one behind the other, within its
shared window (R144; log 37). -/
def Graph.check10 (g : Graph) : Option Flaw :=
  let wide := fun (x : At Img) =>
    decide (1048576 < imgWsBase x.val.bytes + imgWsLen x.val.bytes ∨ 1048576 < imgShBase x.val.bytes + imgShLen x.val.bytes)
      || !(imgPlaced x.val.bytes)
  match g.imgs.find? wide with
  | some x => some (x.flaw 10 (some x.val.tidx))
  | none =>
    firstFlaw (g.plans.zipIdx.map fun p =>
      (p.1.val.tiles.find? fun t =>
        let size := (((g.plans.take (p.2 + 1)).filter fun q => q.val.tiles.contains t).map fun q => 2 * q.val.buf).sum
        match g.imgs.find? fun x => x.val.tidx == t with
        | some x => decide (imgShLen x.val.bytes < size)
        | none => true).map fun t => p.1.flaw 10 (some t))

/-- A descriptor that check 11 refuses. -/
def streamInvalid (act shadow : Bytes) : Bool :=
  decide (sdSlots act < 3 ∨ sdExit act = 0 ∨ 4 < sdExit act)
    || (!(sdFab act) && decide (2 ^ 48 ≤ sdAddr act ∨ (0 < sdSlines act ∧ 2 ^ 48 ≤ sdSaddr act)))
    || (sdPersist act && sdTotal act % sdSlots act != 0)
    || (sdPersist act && sdValid shadow && (sdTotal shadow % sdSlots act != 0
      || (!(sdFab act) && decide (2 ^ 48 ≤ sdAddr shadow ∨ (0 < sdSlines act ∧ 2 ^ 48 ≤ sdSaddr shadow)))))

/-- Check 11. -/
def Graph.check11 (g : Graph) : Option Flaw :=
  (g.imgs.find? fun x => (imgEngineList x.val.bytes).any fun e => streamInvalid (imgActive x.val.bytes e) (imgShadow x.val.bytes e)).map
    fun x => x.flaw 11 (some x.val.tidx)

/-- Graph identifiers of the images of a slot. -/
def Graph.idsOf (g : Graph) (c : Nat) : List Nat := (g.imgs.filter fun x => x.val.slot == c).map fun x => imgGraph x.val.bytes

/-- Whether a step keeps R122: its ranges, an image for its slot, one graph identifier with the first step's. -/
def Graph.stepOk (g : Graph) (k : FoldStep) : Bool :=
  decide (256 ≤ k.dwell ∧ k.lead < k.dwell) && !(g.idsOf k.cask).isEmpty
    && decide ((g.idsOf (g.sched.headD k).cask ++ g.idsOf k.cask).dedup.length ≤ 1)

/-- R122 on what a schedule names. -/
def Graph.schedOk (g : Graph) : Bool := decide (2 ≤ g.sched.length ∧ g.sched.length ≤ 4) && g.sched.all g.stepOk

/-- An edge of a named cask into a cask that no step names. -/
def Graph.edgeOut (g : Graph) (x : At Img) : Bool :=
  g.names x.val.slot && (List.range (imgEdges x.val.bytes)).any fun i => !(g.names (eeQid (imgEdge x.val.bytes i) / 64))

/-- Check 13; a queue of a cask that no step names is refused of a cuvée alone. -/
def Graph.check13 (g : Graph) (cuvee : Bool) (sect : Option Nat) : Option Flaw :=
  if !g.schedOk then some (flaw 13 sect (g.sched.findIdx? fun k => !(g.stepOk k)) none)
  else (g.imgs.find? fun x => g.edgeOut x || (cuvee && !(g.names x.val.slot) && decide (0 < imgQueues x.val.bytes))).map
    fun x => x.flaw 13 (some x.val.tidx)

/-! ### Tiling candidates (R153 to R157) -/

/-- Micro-tiles that cover a × b accumulators (R156). -/
def microTiles (a b : Nat) : Nat := ceilDiv a 8 * ceilDiv b 4

/-- M and N of a shape at B, S, H (R153). -/
def shapeM (h : Shape) (b s : Nat) : Nat := h.mb * b + h.mbs * b * s
def shapeN (h : Shape) (hh : Nat) : Nat := h.nh * hh + h.n0

/-- A tile's shares Mt and Nt. -/
def shareM (h : Shape) (b s : Nat) : Nat := ceilDiv (shapeM h b s) (max 1 h.splitM)
def shareN (h : Shape) (hh : Nat) : Nat := ceilDiv (shapeN h hh) (max 1 h.splitN)

/-- Vat need of a candidate at its largest shape (Table 5.13). -/
def vatNeed (h : Shape) (c : Candidate) : Nat :=
  let mt := shareM h c.bmax c.smax
  let nt := shareN h c.hmax
  match c.order with
  | 0 | 1 => 2 * microTiles c.tm c.tn
  | 2 => microTiles c.tm nt + microTiles c.tm c.tn
  | 3 => microTiles mt c.tn + microTiles c.tm c.tn
  | _ => microTiles mt nt + microTiles c.tm c.tn

/-- Rounded up to a multiple of 256. -/
def up256 (n : Nat) : Nat := ceilDiv n 256 * 256

/-- Working-store need of a candidate (R157). -/
def wsNeed (c : Candidate) : Nat :=
  2 * (up256 (codeBytes c.afmt c.tm c.tk) + up256 (scaleBytes c.afmt c.tm c.tk) + up256 (codeBytes c.bfmt c.tn c.tk) + up256 (scaleBytes c.bfmt c.tn c.tk))

/-- The longest run of `true`. -/
def longestRun : List Bool → Nat → Nat → Nat
  | [], cur, best => max cur best
  | true :: l, cur, best => longestRun l (cur + 1) best
  | false :: l, cur, best => longestRun l 0 (max cur best)

/-- The longest run of the private window free of queue and ring slots, in bytes (R157). -/
def freeRun (b : Bytes) : Nat :=
  256 * longestRun ((List.range (imgWsLen b / 256)).map fun k =>
    (imgBuffers b).all fun r => !(spansMeet (imgWsBase b + 256 * k, 256) r)) 0 0

/-- Whether a cask uses the candidates: it has a parameter entry of type 0xA0, which the tiler fills (R155; log 28). -/
def imgTiled (b : Bytes) : Bool := (List.range (imgParams b)).any fun i => fld (imgParam b i) 15 0 8 == 0xA0

/-- The shape of a step kind. -/
def Graph.shape (g : Graph) (k : Nat) : Option Shape := (g.shapes.find? fun h => h.val.stepk == k).map At.val

/-- Candidates and the casks that use them, with the shape of their kind. -/
def Graph.tilings (g : Graph) : List (At Candidate × Shape × At Img) :=
  g.cands.flatMap fun c => match g.shape c.val.stepk with
    | some h => (g.imgs.filter fun x => g.names x.val.slot && imgTiled x.val.bytes).map fun x => (c, h, x)
    | none => []

/-- Check 16. -/
def Graph.check16 (g : Graph) : Option Flaw :=
  (g.tilings.find? fun x => decide (imgVatLen x.2.2.val.bytes < vatNeed x.2.1 x.1.val)).map fun x => x.1.flaw 16 (some x.2.2.val.tidx)

/-- Check 17. -/
def Graph.check17 (g : Graph) : Option Flaw :=
  (g.tilings.find? fun x => decide (freeRun x.2.2.val.bytes < wsNeed x.1.val)).map fun x => x.1.flaw 17 (some x.2.2.val.tidx)

/-! ### The credit rule (R161) -/

/-- An arc: producer node, consumer node, edge index, capacity, tokens. A node is 4 x tile index + cask. -/
structure Arc where
  src : Nat
  dst : Nat
  edge : Nat
  cap : Nat
  tok : Nat
  deriving DecidableEq, Repr

/-- Preloaded tokens of a queue. -/
def Graph.preload (g : Graph) (t c q : Nat) : Nat :=
  match g.preloads.find? fun p => p.val.tidx == t && p.val.cask == c && p.val.queue == q with
  | some p => p.val.k
  | none => 0

/-- The entry of the queue that an edge leads into. -/
def Graph.consumer (g : Graph) (e : Bytes) : Option Bytes :=
  match g.img (g.tidx (eeTile e)) (eeQid e / 64) with
  | some x => if eeQid e % 64 < imgQueues x.val.bytes then some (imgQueue x.val.bytes (eeQid e % 64)) else none
  | none => none

/-- Whether a rotation leads from a tile index to another: they follow each other in the ring of a plan (R145). -/
def Graph.rotates (g : Graph) (a b : Nat) : Bool :=
  g.plans.any fun p => p.val.move == 1 && (p.val.tiles.zip (p.val.tiles.drop 1 ++ p.val.tiles.take 1)).contains (a, b)

/-- The arcs of an image's edges. An edge along a rotation has the token of its producer's `HOLD` and the room of that buffer
besides (R161; log 28 for which edges those are). -/
def Graph.arcs (g : Graph) (x : At Img) : List Arc :=
  (List.range (imgEdges x.val.bytes)).map fun i =>
    let e := imgEdge x.val.bytes i
    let t := g.tidx (eeTile e)
    let cap := match g.consumer e with | some q => qeSlots q | none => 0
    let hold := b2n (g.rotates x.val.tidx t)
    ⟨4 * x.val.tidx + x.val.slot, 4 * t + eeQid e / 64, i, cap + hold, g.preload t (eeQid e / 64) (eeQid e % 64) + hold⟩

/-- Whether an edge's credits are its consumer's slots and its preload fits them. -/
def Graph.edgeOk (g : Graph) (x : At Img) (i : Nat) : Bool :=
  let e := imgEdge x.val.bytes i
  match g.consumer e with
  | some q => eeCredits e == qeSlots q && decide (g.preload (g.tidx (eeTile e)) (eeQid e / 64) (eeQid e % 64) ≤ qeSlots q)
  | none => false

/-- Keep the arcs whose source some arc enters; a graph without a cycle runs empty. -/
def peelArcs : Nat → List Arc → List Arc
  | 0, l => l
  | n + 1, l => peelArcs n (l.filter fun a => l.any fun b => b.dst == a.src)

/-- Whether arcs form no directed cycle. -/
def acyclic (l : List Arc) : Bool := (peelArcs l.length l).isEmpty

/-- Nodes that can be reached from some nodes. -/
def reachArcs (l : List Arc) : Nat → List Nat → List Nat
  | 0, ns => ns
  | k + 1, ns => reachArcs l k ((ns ++ (l.filter fun a => ns.contains a.src).map Arc.dst).dedup)

/-- Whether an arc lies on a cycle. -/
def onCycle (l : List Arc) (a : Arc) : Bool := (reachArcs l l.length [a.dst]).contains a.src

/-- Check 18: credits and preloads of every edge, a token and a free slot on every cycle, no cycle through a steered output. -/
def Graph.check18 (g : Graph) : Option Flaw :=
  match g.imgs.find? fun x => (List.range (imgEdges x.val.bytes)).any fun i => !(g.edgeOk x i) with
  | some x => some (x.flaw 18 (some x.val.tidx))
  | none =>
    match g.preloads.find? fun p => match g.img p.val.tidx p.val.cask with
        | some x => decide (qeSlots (imgQueue x.val.bytes p.val.queue) < p.val.k)
        | none => true with
    | some p => some (p.flaw 18 (some p.val.tidx))
    | none =>
      let arcs := g.imgs.flatMap g.arcs
      let stuck := [arcs.filter fun a => a.tok == 0, arcs.filter fun a => a.tok == a.cap].find? fun l => !(acyclic l)
      match stuck.bind fun l => g.imgs.find? fun x => (g.arcs x).any fun a => l.contains a && onCycle l a with
      | some x => some (x.flaw 18 (some x.val.tidx))
      | none =>
        (g.imgs.find? fun x => (List.range (imgPairs x.val.bytes)).any fun i =>
          let p := imgPair x.val.bytes i
          (g.arcs x).any fun a => (a.edge == peOut0 p || a.edge == peOut1 p) && onCycle arcs a).map fun x => x.flaw 18 (some x.val.tidx)

/-! ## A cuvée's own checks -/

/-- Whether the operand format words of an image are valid (check 4). -/
def imgFormatsOk (b : Bytes) : Bool :=
  (imgEngineList b).all fun e => opWordOk (fld (imgActive b e) 2 0 16) && opWordOk (fld (imgShadow b e) 2 0 16)

/-- Check 4. -/
def Cuvee.check4 (v : Cuvee) : Option Flaw :=
  firstFlaw [(v.tensors.find? fun t => !(opWordOk t.val.fmtw)).map fun t => t.flaw 4 none,
    (v.cands.find? fun c => !(opWordOk c.val.afmt && opWordOk c.val.bfmt)).map fun c => c.flaw 4 none,
    (v.imgs.find? fun x => !(imgFormatsOk x.val.bytes)).map fun x => x.flaw 4 (some x.val.tidx)]

/-- A descriptor or queue that check 9 refuses. -/
def imgMisaligned (b : Bytes) : Bool :=
  (List.range (imgQueues b)).any (fun i => qeBase (imgQueue b i) % 256 != 0)
    || (imgEngineList b).any fun e =>
      let d := imgActive b e
      let addrs := fun (x : Bytes) => sdAddr x % 256 != 0 || (decide (0 < sdSlines d) && sdSaddr x % 256 != 0)
        || sdStride0 x % 64 != 0 || sdSstride0 x % 64 != 0 || sdStride1 x % 64 != 0 || sdSstride1 x % 64 != 0
      sdRbase d % 256 != 0 || addrs d || (sdPersist d && sdValid (imgShadow b e) && addrs (imgShadow b e))

/-- Check 9. -/
def Cuvee.check9 (v : Cuvee) : Option Flaw :=
  firstFlaw [(v.imgs.find? fun x => imgMisaligned x.val.bytes).map fun x => x.flaw 9 (some x.val.tidx),
    (v.tensors.find? fun t => t.val.daddr % 65536 != 0).map fun t => t.flaw 9 none,
    if v.man.pool % 65536 = 0 ∧ v.man.lista % 65536 = 0 ∧ v.man.stepa % 65536 = 0 then none else some (flaw 9 (some v.manSect) none none)]

/-- Check 12. -/
def Cuvee.check12 (v : Cuvee) : Option Flaw :=
  (firstMeeting (fun x y => x.val.space == y.val.space && spansMeet (x.val.base, x.val.limit - x.val.base) (y.val.base, y.val.limit - y.val.base)) []
    v.ctrs).map fun x => x.flaw 12 none

/-- The shape of a step kind. -/
def Cuvee.shape (v : Cuvee) (k : Nat) : Option Shape := (v.shapes.find? fun h => h.val.stepk == k).map At.val

/-- A candidate that check 14 refuses. -/
def Cuvee.badCandidate (v : Cuvee) (c : Candidate) : Bool :=
  match v.shape c.stepk with
  | some h =>
    decide (c.tm % 8 ≠ 0 ∨ c.tn % 4 ≠ 0 ∨ c.tk % max (opExtK c.afmt) (opExtK c.bfmt) ≠ 0 ∨ 5 < c.order)
      || decide (c.bmax < c.bmin ∨ c.hmax < c.hmin ∨ c.smax < c.smin)
      || decide (h.bmax < c.bmax ∨ h.hmax < c.hmax ∨ h.smax < c.smax)
  | none => true

/-- Check 14. -/
def Cuvee.check14 (v : Cuvee) : Option Flaw := (v.cands.find? fun c => v.badCandidate c.val).map fun c => c.flaw 14 none

/-- Step kinds that the manifest's `ROLE` runs (R212). -/
def roleKinds (m : Manifest) : List Nat :=
  match m.role with | 0 => [m.stepkPre, m.stepkDec] | 1 => [m.stepkPre] | _ => [m.stepkDec]

/-- Whether a candidate's ranges contain a shape. -/
def Candidate.covers (c : Candidate) (b s h : Nat) : Bool :=
  decide (c.bmin ≤ b ∧ b ≤ c.bmax ∧ c.smin ≤ s ∧ s ≤ c.smax ∧ c.hmin ≤ h ∧ h ≤ c.hmax)

/-- A shape of a kind that no candidate covers. It is enough to look at B and S of 1 and just above each candidate's
largest: an uncovered shape can be lowered in B, then in S, until it stands at one of these. -/
def Cuvee.gap (v : Cuvee) (k : Nat) : Bool :=
  match v.shape k with
  | some h =>
    let cs := (v.cands.map At.val).filter fun c => c.stepk == k
    let bs := (1 :: cs.map fun c => c.bmax + 1).filter fun b => decide (1 ≤ b ∧ b ≤ h.bmax)
    let ss := (1 :: cs.map fun c => c.smax + 1).filter fun s => decide (1 ≤ s ∧ s ≤ h.smax)
    bs.any fun b => ss.any fun s => !(cs.any fun c => c.covers b s v.man.heads)
  | none => true

/-- Check 15: the step shape that has a gap. -/
def Cuvee.check15 (v : Cuvee) : Option Flaw :=
  ((roleKinds v.man).find? v.gap).map fun k => match v.shapes.find? fun h => h.val.stepk == k with
    | some h => h.flaw 15 none
    | none => flaw 15 none none none

/-! ### Resources: checks 3, 7, 8 and 19 -/

/-- Columns that partitions and reservations hold, but those of `skip` (R159). -/
def State.heldColumns (s : State) (skip : Option Nat) : List (Nat × Nat) :=
  (s.parts.filter fun e => some e.1 != skip).map fun e =>
    (e.2.col0, max e.2.cols (match e.2.job with | some j => (match j.res with | some r => r.cols | none => 0) | none => 0))

/-- Check 3. -/
def Cuvee.check3 (v : Cuvee) (s : State) (skip : Option Nat) (col0 slot : Nat) : Option Flaw :=
  if decide (64 < col0 + v.cols) || (s.heldColumns skip).any (fun h => spansMeet (col0, v.cols) h)
      || decide (8 ≤ (s.parts.filter fun e => some e.1 != skip).length) || (s.parts.any fun e => some e.1 != skip && e.2.slot == slot) then
    some (flaw 3 none none none)
  else none

/-- Counters allotted or reserved, but those of `skip`. -/
def State.heldCounters (s : State) (skip : Option Nat) : List Nat :=
  (s.parts.filter fun e => some e.1 != skip).flatMap fun e =>
    (e.2.counters.map CounterUse.phys) ++ (match e.2.job with | some j => (match j.res with | some r => r.counters.map CounterUse.phys | none => []) | none => [])

/-- Whether the counters declared so far pass what a die has free. -/
def State.overDie (s : State) (skip : Option Nat) (l : List (At CtrDecl)) (d : Nat) : Bool :=
  decide (1024 < (l.filter fun c => c.val.die == d).length + ((s.heldCounters skip).filter fun p => p / 1024 == d).length)

/-- Check 7: the first declaration for which its die has no counter left. -/
def Cuvee.check7 (v : Cuvee) (s : State) (skip : Option Nat) : Option Flaw :=
  ((v.ctrs.zipIdx.find? fun c => s.overDie skip (v.ctrs.take (c.2 + 1)) c.1.val.die).map fun c => c.1.flaw 7 none)

/-- Request-table entries shared out or reserved, but those of `skip`. -/
def State.heldShare (s : State) (skip : Option Nat) : List Nat :=
  (s.parts.filter fun e => some e.1 != skip).flatMap fun e =>
    e.2.share ++ (match e.2.job with | some j => (match j.res with | some r => r.share | none => []) | none => [])

/-- Pages given to pools or reserved, but those of `skip`. -/
def State.heldPages (s : State) (skip : Option Nat) : Nat :=
  ((s.parts.filter fun e => some e.1 != skip).map fun e =>
    max e.2.man.poolPages (match e.2.job with | some j => (match j.res with | some r => r.pool | none => 0) | none => 0)).sum

/-- Check 8. -/
def Cuvee.check8 (v : Cuvee) (s : State) (skip : Option Nat) : Option Flaw :=
  if decide (8192 < v.entries + (s.heldShare skip).length) then some (flaw 8 none none none)
  else if decide (2 ^ 24 < v.man.poolPages + s.heldPages skip) then some (flaw 8 (some v.manSect) none none)
  else none

/-- Bytes of a tensor's element codes, and of its scale plane (R35). -/
def Tensor.codes (t : Tensor) : Nat := codeBytes t.fmtw t.odim t.kdim
def Tensor.scales (t : Tensor) : Nat := scaleBytes t.fmtw t.odim t.kdim

/-- Bytes of a tensor's home: codes up to a multiple of 256, then the scale plane (R133). -/
def Tensor.bytes (t : Tensor) : Nat := up256 t.codes + t.scales

/-- Units that a range of bytes touches. -/
def unitsOf (a n : Nat) : List Nat := if n = 0 then [] else (List.range ((a + n - 1) / 65536 - a / 65536 + 1)).map fun i => a / 65536 + i

/-- Units of a tensor's home. -/
def Tensor.units (t : Tensor) : List Nat := unitsOf t.daddr t.bytes

/-- Pinned references but those of `skip`. -/
def State.heldPins (s : State) (skip : Option Nat) : List Nat :=
  (s.mem.tmiPins ++ (s.parts.filter fun e => some e.1 != skip).flatMap fun e =>
    e.2.pins ++ (match e.2.job with | some j => (match j.res with | some r => r.pins | none => []) | none => [])).dedup

/-- Units of the tensors with `PIN` 1 but those of the layers left in the cellar. -/
def Cuvee.pinSet (v : Cuvee) (left : List Nat) : List Nat :=
  ((v.tensors.filter fun t => t.val.pin && !(t.val.cellar && left.contains t.val.layer)).flatMap fun t => t.val.units).dedup

/-- Layers that Table 6.8 leaves in the cellar, in list order, until the pinned set fits. -/
def Cuvee.leaveLayers (v : Cuvee) (held : List Nat) : List Nat → List Nat → List Nat
  | [], left => left
  | l :: ls, left =>
    if (held ++ v.pinSet left).dedup.length ≤ pinLimit then left
    else if v.tensors.any fun t => t.val.layer == l && t.val.pin && t.val.cellar then v.leaveLayers held ls (left ++ [l])
    else v.leaveLayers held ls left

/-- The layers left in the cellar by a load (R188). -/
def Cuvee.left (v : Cuvee) (s : State) (skip : Option Nat) : List Nat := (v.leaveLayers (s.heldPins skip) v.layers []).dedup

/-- Check 19. -/
def Cuvee.check19 (v : Cuvee) (s : State) (skip : Option Nat) : Option Flaw :=
  if pinLimit < (s.heldPins skip ++ v.pinSet (v.left s skip)).dedup.length then some (flaw 19 none none none) else none

/-- Units of the layers left in the cellar. -/
def Cuvee.cellarUnits (v : Cuvee) (left : List Nat) : List Nat :=
  ((v.tensors.filter fun t => t.val.pin && t.val.cellar && left.contains t.val.layer).flatMap fun t => t.val.units).dedup

/-- Checks 2 to 19 of Table 5.14, in order; `skip` is the partition that a swap releases. -/
def Cuvee.checks (v : Cuvee) (s : State) (skip : Option Nat) (col0 slot : Nat) : Option Flaw :=
  let g := v.graph col0
  firstFlaw [if v.assigned then none else some (flaw 2 (some v.manSect) none none), v.check3 s skip col0 slot, v.check4, g.check5, g.check6,
    v.check7 s skip, v.check8 s skip, v.check9, g.check10, g.check11, v.check12, g.check13 true (some v.schedAt.1), v.check14, v.check15,
    g.check16, g.check17, g.check18, v.check19 s skip]

/-! ## Reading a cuvée: check 1 -/

/-- A section-table entry, with the section's bytes where the loader reads it. -/
structure Sect where
  idx : Nat
  kind : Nat
  shard : Nat
  count : Nat
  off : Nat
  len : Nat
  body : Bytes
  deriving DecidableEq, Repr

/-- A flaw of check 1 in a section. -/
def Sect.flaw (x : Sect) (entry : Option Nat) (tile : Option Nat) : Flaw := Machine.flaw 1 (some x.idx) entry tile

/-- Header faults. -/
def headerBad (h : Bytes) : Bool :=
  fld h 0 0 32 != 0x56435150 || fld h 4 0 16 != 1 || decide (fld h 6 0 7 = 0 ∨ 64 < fld h 6 0 7) || !(reservedZero h layHeader)
    || decide (fld h 28 0 16 = 0 ∨ 1024 < fld h 28 0 16) || fld h 32 0 64 % 64 != 0
    || decide (fld h 32 0 64 < 64 ∨ fld h 8 0 64 < fld h 32 0 64 + 32 * fld h 28 0 16)

/-- The section table. -/
def parseSects (tab : Bytes) (n : Nat) : List Sect :=
  (List.range n).map fun i =>
    let e := slice tab (32 * i) 32
    ⟨i, fld e 0 0 16, fld e 2 0 16, fld e 4 0 32, fld e 8 0 64, fld e 16 0 64, []⟩

/-- Faults of the section table: reserved bits and kinds, a section beyond `LEN` or over another, the header or the table. -/
def sectsBad (tab : Bytes) (h : Bytes) (l : List Sect) : Option Flaw :=
  let bad := l.find? fun x => !(reservedZero (slice tab (32 * x.idx) 32) laySect) || decide (x.kind = 0 ∨ 11 < x.kind)
    || decide (fld h 8 0 64 < x.off + x.len)
    || spansMeet (x.off, x.len) (0, 64) || spansMeet (x.off, x.len) (fld h 32 0 64, 32 * fld h 28 0 16)
  firstFlaw [bad.map fun x => x.flaw none none,
    (firstMeeting (fun x y => spansMeet (x.off, x.len) (y.off, y.len)) [] l).map fun x => x.flaw none none]

/-- Shard entry `i` of a manifest. -/
def shardAt (b : Bytes) (i : Nat) : Bytes := slice b (64 + 32 * i) 32

/-- The shard that a manifest assigns to a node: its entry. -/
def shardOf (b : Bytes) (node : Nat) : Option Bytes :=
  ((List.range (fld b 0 0 8)).map (shardAt b)).find? fun e => fld e 2 0 16 == node

/-- The manifest that the bytes give, with the entry of the chip's own shard. -/
def parseManifest (b : Bytes) (node : Nat) : Manifest :=
  let e := (shardOf b node).getD (shardAt b 0)
  { nshard := fld b 0 0 8, role := fld b 1 0 2, pageU := fld b 2 0 8, heads := fld b 3 0 8, poolPages := fld b 4 0 32, ctxMax := fld b 8 0 21,
    stepkPre := fld b 12 0 4, stepkDec := fld b 12 4 4, tmax := fld b 13 0 8, kvgeo := fld b 16 0 64, dnode := fld b 24 0 16, dslot := fld b 26 0 6,
    anode := fld b 28 0 16, aslot := fld b 30 0 6,
    shards := (List.range (fld b 0 0 8)).map fun i => (fld (shardAt b i) 0 0 8, fld (shardAt b i) 2 0 16, fld (shardAt b i) 24 0 48),
    shard := fld e 0 0 8, pool := fld e 8 0 48, lista := fld e 16 0 48, stepa := fld e 24 0 48 }

/-- Manifest faults of R212, with the shapes that section 5 declares. -/
def manifestBad (b : Bytes) (len : Nat) (shapes : List (At Shape)) : Bool :=
  let m := parseManifest b 0
  let shape := fun k => (shapes.find? fun h => h.val.stepk == k).map At.val
  !(reservedZero (b.take 64) layManifest) || decide (m.nshard < 1 ∨ 64 < m.nshard ∨ m.role = 3 ∨ m.pageU < 1 ∨ len < 64 + 32 * m.nshard)
    || decide (m.poolPages < 1 ∨ 2 ^ 24 < m.poolPages ∨ m.ctxMax < 64 ∨ 1048576 < m.ctxMax ∨ m.ctxMax % 64 ≠ 0)
    || (List.range m.nshard).any (fun i => !(reservedZero (shardAt b i) layShard) || decide (m.nshard ≤ fld (shardAt b i) 0 0 8))
    || (firstMeeting (fun (x y : Nat × Nat × Nat) => x.2.1 == y.2.1) [] m.shards).isSome
    || (roleKinds m).any (fun k => match shape k with
      | some h => decide (7340032 < h.bmax * h.smax)
      | none => true)
    || (m.role != 1 && (match shape m.stepkDec with | some h => decide (h.smax < m.tmax + 1) | none => true))

/-- Entries of `n` bytes of a section. -/
def Sect.entries (x : Sect) (n : Nat) : List (At Bytes) := (List.range x.count).map fun i => ⟨x.idx, i, slice x.body (n * i) n⟩

/-- Entries of a section: none beyond its length, no reserved bit set. -/
def Sect.entriesBad (x : Sect) (n : Nat) (lay : List (Nat × Nat × Nat)) : Option Flaw :=
  if x.len < n * x.count then some (x.flaw none none)
  else ((x.entries n).find? fun e => !(reservedZero e.val lay)).map fun e => x.flaw (some e.entry) none

def parseTensor (e : Bytes) : Tensor where
  fmtw := fld e 0 0 16
  move := fld e 2 0 2
  pin := fld e 2 2 1 == 1
  cellar := fld e 2 3 1 == 1
  layer := fld e 4 0 16
  kdim := fld e 8 0 32
  odim := fld e 12 0 32
  data := fld e 16 0 64
  daddr := fld e 24 0 64

def parseCounter (e : Bytes) : CtrDecl := ⟨fld e 0 0 2, fld e 0 2 1, fld e 1 0 8, fld e 4 0 32, fld e 8 0 32⟩

def parseShape (e : Bytes) : Shape where
  stepk := fld e 0 0 4
  hmax := fld e 1 0 8
  bmax := fld e 2 0 16
  smax := fld e 4 0 32
  mb := fld e 8 0 16
  mbs := fld e 10 0 16
  nh := fld e 12 0 16
  n0 := fld e 16 0 32
  kdim := fld e 20 0 32
  splitM := fld e 24 0 16
  splitN := fld e 26 0 16

def parseCandidate (e : Bytes) : Candidate where
  stepk := fld e 0 0 4
  order := fld e 1 0 3
  tm := fld e 2 0 16
  tn := fld e 4 0 16
  tk := fld e 6 0 16
  xexp := fld e 8 0 8
  bmin := fld e 10 0 16
  bmax := fld e 12 0 16
  hmin := fld e 14 0 8
  hmax := fld e 15 0 8
  smin := fld e 16 0 32
  smax := fld e 20 0 32
  c0 := fld e 24 0 32
  c1 := fld e 28 0 32
  c2 := fld e 32 0 32
  c3 := fld e 36 0 32
  afmt := fld e 40 0 16
  bfmt := fld e 42 0 16

/-- A plan with the tile list that it names in its section; where its tensor lies comes with the tensor (`Cuvee.movement`). -/
def parsePlan (body e : Bytes) : Plan where
  tensor := fld e 0 0 16
  move := fld e 2 0 2
  reload := fld e 2 2 1 == 1
  buf := fld e 8 0 32
  tiles := (List.range (fld e 4 0 12)).map fun i => fld (slice body (fld e 12 0 32 + 2 * i) 2) 0 0 16
  home := 0
  size := 0

/-- Bytes of a slot of the consumer queue that a preload entry names; 0 where no image declares it. -/
def preloadSlot (imgs : List (At Img)) (e : Bytes) : Nat :=
  match imgs.find? fun x => x.val.tidx == fld e 0 0 11 && x.val.slot == fld e 2 0 2 with
  | some x => if fld e 3 0 6 < imgQueues x.val.bytes then slotBytes (imgQueue x.val.bytes (fld e 3 0 6)) else 0
  | none => 0

/-- The preloads of a section from an offset on; reading ends at an entry whose queue is not declared, which check 6
refuses. The flaw is an entry that runs past the section or has a reserved bit set. -/
def parsePreloads (imgs : List (At Img)) (x : Sect) (off i : Nat) : Nat → List (At Preload) × Option Flaw
  | 0 => ([], none)
  | n + 1 =>
    let e := slice x.body off 16
    let w := preloadSlot imgs e
    let k := fld e 4 0 16
    if x.len < off + 16 ∨ reservedZero e layPreload = false ∨ x.len < off + 16 + k * w then
      ([], some (x.flaw (some i) (some (fld e 0 0 11))))
    else
      let p : At Preload := ⟨x.idx, i, ⟨fld e 0 0 11, fld e 2 0 2, fld e 3 0 6, k, (List.range k).map fun j => slice x.body (off + 16 + j * w) w⟩⟩
      if w = 0 then ([p], none)
      else
        let r := parsePreloads imgs x (off + 16 + k * w) (i + 1) n
        (p :: r.1, r.2)

/-- The sections of a kind. -/
def ofKind (l : List Sect) (k : Nat) : List Sect := l.filter fun x => x.kind == k

/-- The images of the sections read. -/
def sectImages (l : List Sect) : List (At Img) := (ofKind l 1).flatMap fun x => parseImages x.idx x.body x.count

/-- The shapes of the sections read. -/
def sectShapes (l : List Sect) : List (At Shape) := (ofKind l 5).flatMap fun x => (x.entries 32).map fun e => ⟨e.sect, e.entry, parseShape e.val⟩

/-- The preloads of the sections read, and the first flaw among them. -/
def sectPreloads (l : List Sect) : List (List (At Preload) × Option Flaw) := (ofKind l 8).map fun x => parsePreloads (sectImages l) x 0 0 x.count

/-- The cuvée that the sections read give. -/
def buildCuvee (h : Bytes) (l : List Sect) (node : Nat) : Cuvee :=
  let sched := (ofKind l 2).headD ⟨0, 2, 0, 0, 0, 0, []⟩
  let man := (ofKind l 9).headD ⟨0, 9, 0, 0, 0, 0, []⟩
  { cols := fld h 6 0 7, graphId := fld h 24 0 32, seed := fld h 16 0 64, entries := fld h 30 0 16
    schedAt := (sched.idx, sched.body)
    imgs := sectImages l
    tensors := (ofKind l 3).flatMap fun x => (x.entries 32).map fun e => ⟨e.sect, e.entry, parseTensor e.val⟩
    ctrs := (ofKind l 4).flatMap fun x => (x.entries 16).map fun e => ⟨e.sect, e.entry, parseCounter e.val⟩
    shapes := sectShapes l
    cands := (ofKind l 6).flatMap fun x => (x.entries 48).map fun e => ⟨e.sect, e.entry, parseCandidate e.val⟩
    plans := (ofKind l 7).flatMap fun x => (x.entries 16).map fun e => ⟨e.sect, e.entry, parsePlan x.body e.val⟩
    preloads := (sectPreloads l).flatMap Prod.fst
    layers := (ofKind l 10).flatMap fun x => (x.entries 8).map fun e => fld e.val 0 0 16
    manSect := man.idx
    man := parseManifest man.body node
    assigned := (shardOf man.body node).isSome }

/-- The weight movements of a cuvée, each with its tensor's home (R144). -/
def Cuvee.movement (v : Cuvee) : List Plan :=
  v.plans.map fun p => match v.tensors[p.val.tensor]? with
    | some t => { p.val with home := t.val.daddr, size := t.val.bytes }
    | none => p.val

/-- Check 1 on the sections read. -/
def sectionsBad (h : Bytes) (l : List Sect) (node : Nat) : Option Flaw :=
  let v := buildCuvee h l node
  let one := fun k => if (ofKind l k).length = 1 then none else some (flaw 1 none none none)
  let each := fun (k n : Nat) (lay : List (Nat × Nat × Nat)) => firstFlaw ((ofKind l k).map fun x => x.entriesBad n lay)
  firstFlaw [one 2, one 9,
    firstFlaw ((ofKind l 1).map fun x => if x.len < 16 * x.count then some (x.flaw none none)
      else (indexFault x.body x.len x.count v.cols).map fun r => x.flaw (some r.1) (some r.2)),
    (firstMeeting (fun x y => x.val.tidx == y.val.tidx && x.val.slot == y.val.slot) [] v.imgs).map fun x => x.flaw 1 (some x.val.tidx),
    (v.imgs.find? fun x => imgGraph x.val.bytes != v.graphId).map fun x => x.flaw 1 (some x.val.tidx),
    firstFlaw ((ofKind l 2).map fun x => if decide (x.len < 8 ∨ x.len < 8 + 8 * fld x.body 0 0 3) || !(schedReserved x.body) then some (x.flaw none none) else none),
    each 3 32 layTensor, each 4 16 layCounter,
    (v.ctrs.find? fun c => decide (c.val.limit ≤ c.val.base)).map fun c => c.flaw 1 none,
    each 5 32 layShape, each 6 48 layCandidate, each 7 16 layPlan,
    firstFlaw ((ofKind l 7).map fun x => ((x.entries 16).find? fun e => decide (x.len < fld e.val 12 0 32 + 2 * fld e.val 4 0 12)).map fun e => x.flaw (some e.entry) none),
    firstFlaw ((sectPreloads l).map Prod.snd),
    (firstMeeting (fun x y => x.val.tidx == y.val.tidx && x.val.cask == y.val.cask && x.val.queue == y.val.queue) [] v.preloads).map
      fun p => p.flaw 1 (some p.val.tidx),
    each 10 8 layLayer,
    firstFlaw ((ofKind l 9).map fun x => if manifestBad x.body x.len v.shapes then some (x.flaw none none) else none)]

/-- Read the bodies of sections; none where a line fails. -/
def State.readSects (s : State) (image : Nat) : List Sect → Option (List Sect) × State
  | [] => (some [], s)
  | x :: xs =>
    let r := s.readBytes .firmware (image + x.off) x.len
    match r.1 with
    | some b =>
      let q := r.2.readSects image xs
      (q.1.map fun l => { x with body := b } :: l, q.2)
    | none => (none, r.2)

/-- What reading a cuvée came to. -/
inductive LoadRead where
  /-- a line could not be read (R158) -/
  | failed
  /-- check 1 refuses it -/
  | flawed (f : Flaw)
  | ok (v : Cuvee)
  deriving DecidableEq, Repr

/-- Read the sections that the chip's shard reads and make check 1 on them; tensor data is not read here. -/
def State.readBodies (s : State) (image : Nat) (h : Bytes) (l : List Sect) : LoadRead × State :=
  let node := s.nodeId
  let m := s.readSects image (ofKind l 9)
  match m.1 with
  | none => (.failed, m.2)
  | some ms =>
    let mine := ms.filter fun x => x.shard == 0xFFFF || (match shardOf x.body node with | some e => fld e 0 0 8 == x.shard | none => false)
    let shard := match mine.head? with | some x => (shardOf x.body node).map fun e => fld e 0 0 8 | none => none
    let want := l.filter fun x => x.kind != 9 && x.kind != 11 && (x.shard == 0xFFFF || some x.shard == shard)
    let r := m.2.readSects image want
    match r.1 with
    | none => (.failed, r.2)
    | some bs =>
      match sectionsBad h (mine ++ bs) node with
      | some f => (.flawed f, r.2)
      | none => (.ok (buildCuvee h (mine ++ bs) node), r.2)

/-- Steps 1 and 2 of R158 up to check 1: header, section table, sections. -/
def State.readCuvee (s : State) (image : Nat) : LoadRead × State :=
  let r := s.readBytes .firmware image 64
  match r.1 with
  | none => (.failed, r.2)
  | some h =>
    if headerBad h then (.flawed (flaw 1 none none none), r.2)
    else
      let q := r.2.readBytes .firmware (image + fld h 32 0 64) (32 * fld h 28 0 16)
      match q.1 with
      | none => (.failed, q.2)
      | some tab =>
        let l := parseSects tab (fld h 28 0 16)
        match sectsBad tab h l with
        | some f => (.flawed f, q.2)
        | none => q.2.readBodies image h l

end Sys2Proof.Machine
end

