-- ==== Sys2Proof/Machine/CommitOps.lean ====
section
/-! DEFINITION. Configuration: the settings, what a commit closes, its application to a partition and to the device, and its end (R119, R186, R338 to R343). -/

namespace Sys2Proof.Machine

def stAborted : Nat := 0x0305
def stCfgAborted : Nat := 0x0306

/-! ## The cellar cache (R186) -/

/-- Give `n` near-tier frames to a partition's cellar cache, demoting units to free them; none where that fails. -/
def State.takeFrames (s : State) (pn : Nat) : Nat → Option State
  | 0 => some s
  | n + 1 => (s.makeRoom 0 s.roomFuel).bind fun t =>
      let f := t.freeFrame 0
      (State.marks { t.used with mem := { t.mem with cacheFree := kput t.mem.cacheFree pn ((kget t.mem.cacheFree pn).getD [] ++ [f]) } }).takeFrames pn n

/-- Set the quota of a partition: the cache is written back and takes its new frames (log 30). -/
def State.setQuota (s : State) (pn n : Nat) : Option State :=
  match s.part pn with
  | some p =>
    if n = p.cacheUnits then some s
    else ((s.dropCacheUnits pn).takeFrames pn n).map fun t => t.modPart pn fun p => { p with cacheUnits := n }
  | none => none

/-! ## Settings of a partition (Table 11.14) -/

/-- The value last set for a key (R339). -/
def Txn.value (t : Txn) (key : Nat) : Option Bytes := (t.sets.find? fun x => x.1 == key).map Prod.snd

/-- The fold schedule that a transaction sets. -/
def Txn.sched (t : Txn) : Option (List FoldStep) := (t.value 0x0001).map parseSched

/-- Casks that a partition's transaction removes from the schedule, which must close first (R119). -/
def Partition.removed (p : Partition) : List Nat :=
  match p.txn.bind Txn.sched with
  | some l => (List.range 4).filter fun c => p.names c && !(l.any fun k => k.cask == c)
  | none => []

/-- A new schedule takes effect: staged slots it names become `ACTIVE`, closed ones `READY` and drained (Table 4.2). -/
def Partition.applySched (p : Partition) (l : List FoldStep) : Partition :=
  { p with
    sched := l
    slots := p.slots.zipIdx.map fun (e : Slot × Nat) =>
      if l.any fun k => k.cask == e.2 then (if e.1.st = .ready then { e.1 with st := CaskState.active } else e.1)
      else if e.1.st = .closed then { e.1 with st := CaskState.ready, drained := true, still := none } else e.1 }

/-- One setting of a partition but `CACHE_UNITS`. -/
def Partition.applySet (p : Partition) (x : Nat × Bytes) : Partition :=
  match x.1 with
  | 0x0001 => p.applySched (parseSched x.2)
  | 0x0002 => { p with trapMask := ofLe x.2 }
  | 0x0003 => { p with trapHold := ofLe x.2 == 1 }
  | _ => p

/-! ## The end of a commit -/

/-- A partition's commit ends with a status and the count flushed; on success the transaction ends too (R342, R343). -/
def State.endPartCommit (s : State) (pn st : Nat) (keep : Bool) : State :=
  match (s.part pn).bind Partition.commit with
  | some k => (s.modPart pn fun p => { p with commit := none, txn := if keep then p.txn else none }).finishRun k.cmd st (le 4 k.flushed)
  | none => s

/-- The device's commit, and the one that firmware makes for a vintage, ends; a record written for it is named. -/
def State.endDeviceCommit (s : State) (st seq : Nat) (keep : Bool) : State :=
  match s.cfg.commit with
  | some k => State.finishRec { s with cfg := { s.cfg with commit := none, txn := if keep then s.cfg.txn else none } } k.cmd st seq (le 4 k.flushed)
  | none => { s with cfg := { s.cfg with autoVintage := false } }

/-- The last `TXID` applied on a target (R343). -/
def State.noteApplied (s : State) (target txid : Nat) : State := { s with cfg := { s.cfg with applied := kput s.cfg.applied target txid } }

/-- Apply a transaction to a partition: every setting in the same cycle; without its frames nothing of it (R342, step 5).
The flag tells whether it applied. -/
def State.applyPartTxn (s : State) (pn : Nat) (t : Txn) : Bool × State :=
  let q := match t.value 0x0004 with
    | some v => s.setQuota pn (ofLe v)
    | none => some s
  match q with
  | some u => (true, (u.modPart pn fun p => t.sets.foldl Partition.applySet p).noteApplied pn t.txid)
  | none => (false, s)

/-- The pending commit of a partition applies, or fails for want of frames. -/
def State.applyPartCommit (s : State) (pn : Nat) : State :=
  match (s.part pn).bind Partition.txn with
  | some t =>
    let r := s.applyPartTxn pn t
    if r.1 then r.2.endPartCommit pn stOk false else s.endPartCommit pn stMemExhausted true
  | none => s

/-! ## The device (R341, R342) -/

/-- One setting of the device but `VINTAGE`. -/
def Cfg.applySet (c : Cfg) (x : Nat × Bytes) : Cfg :=
  let v := ofLe x.2
  match x.1 with
  | 0x0010 => { c with nearLow := v }
  | 0x0011 => { c with nearHigh := v }
  | 0x0012 => { c with celLow := v }
  | 0x0013 => { c with celHigh := v }
  | 0x0014 => { c with promote := v }
  | 0x0015 => { c with scrubHours := v }
  | 0x0020 => { c with timeoutUs := v }
  | _ => c

/-- Whether a transaction sets a vintage that is not the newest planned (R370). -/
def State.vintageUnknown (s : State) (t : Txn) : Bool :=
  match t.value 0x0030 with
  | some v => s.mtz.planned.map Vintage.epoch != some (ofLe v)
  | none => false

/-- Apply a transaction to the device. -/
def State.applyDeviceTxn (s : State) (t : Txn) : State :=
  let u := State.marks { s with cfg := t.sets.foldl Cfg.applySet s.cfg }
  (if (t.value 0x0030).isSome then u.applyVintage else u).noteApplied 255 t.txid

/-- Whether a device-wide commit waits. -/
def Cfg.waits (c : Cfg) : Bool := c.commit.isSome || c.autoVintage

/-- Whether a device-wide `DRAIN` is in effect. -/
def Cfg.drains (c : Cfg) : Bool := match c.commit with | some k => k.drain | none => false

/-- Whether a device quiescent point is reached: every partition held at an idle quiescent point, `now` standing at one,
or `STOPPED` with `TRAP_HOLD` 1 (R341). -/
def State.deviceQuiescent (s : State) (now : Option Nat) : Bool :=
  s.parts.all fun e => now == some e.1 || (e.2.heldClock && e.2.idled.isNone) || (e.2.st == .stopped && e.2.trapHold)

/-- Whether a partition's active casks hold `STEP_END` (R113). -/
def State.hasSteps (s : State) (pn : Nat) : Bool := match s.part pn with | some p => !(s.stepTiles p).isEmpty | none => false

/-- Whether batches may be formed for a partition: no `DRAIN` in effect, its clock not held (R342, step 3). -/
def State.mayForm (s : State) (p : Partition) : Bool :=
  !s.cfg.drains && !p.heldClock && (match p.commit with | some k => !k.drain | none => true)

/-- Held fold clocks are released; at an application batch formation resumes at the same boundary (R342). -/
def State.releaseHolds (s : State) (form : Bool) : State :=
  (s.parts.filter fun e => e.2.heldClock).foldl (fun (s : State) (e : Nat × Partition) =>
    let t := s.modPart e.1 fun p => { p with heldClock := false }
    match t.part e.1 with
    | some p => if form && t.mayForm p then t.boundaryForm e.1 (t.hasSteps e.1) else t
    | none => t) s

/-- At a device quiescent point the pending device-wide commit applies (R342, R371). -/
def State.settleDevice (s : State) (now : Option Nat) : State :=
  if s.cfg.waits && s.deviceQuiescent now && !s.pwr.stopped then
    match s.cfg.commit, s.cfg.txn with
    | some _, some t =>
      if s.vintageUnknown t then (s.endDeviceCommit stVintage 0xFFFFFFFF true).releaseHolds true
      else ((s.applyDeviceTxn t).endDeviceCommit stOk (evseqOf s (s.applyDeviceTxn t)) false).releaseHolds true
    | _, _ => s.applyVintage.endDeviceCommit stOk 0xFFFFFFFF false
  else s

/-- The device's pending commit fails: nothing of it is applied, holds are released (R342, step 6). -/
def State.failDeviceCommit (s : State) (st : Nat) (keep : Bool) : State := (s.endDeviceCommit st 0xFFFFFFFF keep).releaseHolds false

end Sys2Proof.Machine
end

