-- ==== Sys2Proof/Machine/Approx.lean ====
section
/-! DEFINITION. The shaper's functions to within 2^-60 of a unit in the last place, in exact integer arithmetic, and the interval of results that the bound of Table 2.8 leaves. -/

namespace Sys2Proof.Machine

/-- Fractional bits of the working precision. -/
def fixBits : Nat := 192

/-- 1 in the working precision. -/
def fixOne : Int := 2 ^ fixBits

/-- Product of two values of the working precision. -/
def fixMul (a b : Int) : Int := a * b / fixOne

/-- The series of e^(-r) for 0 ≤ r < 1, 48 terms: the running sum and the running term. -/
def expSeries (r : Int) : Int :=
  ((List.range 48).foldl (fun (p : Int × Int) k =>
    let t := -(fixMul p.2 r) / ((k : Int) + 1)
    (p.1 + t, t)) (fixOne, fixOne)).1

/-- e^(-y) for y = `num / den` ≥ 0 in the working precision; 0 from y = 160 on. -/
def expNeg (num den : Nat) : Int :=
  if 160 * den ≤ num then 0
  else
    let y : Int := (num : Int) * fixOne / (den : Int)
    (List.range 8).foldl (fun v _ => fixMul v v) (expSeries (y / 256))

/-- Guard bits below a unit in the last place. -/
def guard : Nat := 64

/-- e^x · 2^(g + guard) for x = X / 2^f. -/
def expScaled (X : Int) (f g : Nat) : Int :=
  let u := expNeg X.natAbs (2 ^ f)
  if X ≤ 0 then u * 2 ^ (g + guard) / fixOne else if u = 0 then 2 ^ 200 else fixOne * 2 ^ (g + guard) / u

/-- 1 / (1 + e^(-z)) in the working precision, for z = `num / den`. -/
def sigFix (num : Int) (den : Nat) : Int :=
  let u := expNeg num.natAbs den
  if 0 ≤ num then fixOne * fixOne / (fixOne + u) else u * fixOne / (fixOne + u)

/-- tanh z in the working precision. -/
def tanhFix (num : Int) (den : Nat) : Int :=
  let u := expNeg (2 * num.natAbs) den
  let t := (fixOne - u) * fixOne / (fixOne + u)
  if 0 ≤ num then t else -t

/-- 2z of `GLU`, as a fraction: z = 0.797885 · (x + 0.044715 · x³), x = X / 2^f. -/
def gluArg (X : Int) (f : Nat) : Int × Nat :=
  (2 * 797885 * (X * 1000000 * 2 ^ (2 * f) + 44715 * X ^ 3), 1000000 * 1000000 * 2 ^ (3 * f))

/-- The exact value of a function times 2^(g + guard), to within 1; none outside the part of the domain that the operand
alone decides (Table 2.8). -/
def exactScaled (fn : ShaperFn) (X : Int) (f g : Nat) : Option Int :=
  match fn with
  | .exp => some (expScaled X f g)
  | .rcp => if X = 0 then none else some (2 ^ (f + g + guard) / X)
  | .rsq => if X ≤ 0 then none else some (Nat.sqrt (2 ^ (f + 2 * (g + guard)) / X.toNat))
  | .sig => some (sigFix X (2 ^ f) * 2 ^ (g + guard) / fixOne)
  | .tnh => some (tanhFix X (2 ^ f) * 2 ^ (g + guard) / fixOne)
  | .slu => some (X * sigFix X (2 ^ f) * 2 ^ (g + guard) / (fixOne * 2 ^ f))
  | .glu => some (X * sigFix (gluArg X f).1 (gluArg X f).2 * 2 ^ (g + guard) / (fixOne * 2 ^ f))

/-- Whether the exact result has magnitude 2^31 or more in units of the last place (R51): `RCP` and `RSQ` by exact
comparison, the others by the value above, which no rational operand but 0 puts on the limit. -/
def outOfRange (fn : ShaperFn) (X : Int) (f g : Nat) (z : Int) : Bool :=
  match fn with
  | .rcp => decide (2 ^ 31 * X.natAbs ≤ 2 ^ (f + g))
  | .rsq => decide (2 ^ 62 * X.toNat ≤ 2 ^ (f + 2 * g))
  | .sig | .tnh => false
  | .exp => decide ((2 ^ (31 + guard) : Nat) ≤ z.natAbs)
  | .slu | .glu => decide ((2 ^ (31 + guard) : Nat) ≤ z.natAbs ∧ (2 ^ (31 + f) : Nat) < X.natAbs * 2 ^ g)

/-- Bound of a function in units of the last place (Table 2.8). -/
def ulpBound (fn : ShaperFn) : Nat := match fn with | .slu | .glu => 2 | _ => 1

/-- The integer nearest to `y0` among those within `b` units of `z / 2^guard`, which is known to 2 parts in 2^guard. -/
def within (z : Int) (b : Nat) (y0 : Int) : Int :=
  let lo := -((-(z - 2 - (b : Int) * 2 ^ guard)) / 2 ^ guard)
  let hi := (z + 2 + (b : Int) * 2 ^ guard) / 2 ^ guard
  max lo (min hi y0)

/-- Largest magnitude of a shaper result (R51). -/
def resultLimit : Int := 2147483647

/-- A shaper result: the part's own integer (`Config.shaper`) held to the bound and to the largest magnitude; none
outside the domain (R51; log 7). -/
def shaperResult (fn : ShaperFn) (X : Int) (f g : Nat) : Option Int :=
  match exactScaled fn X f g with
  | none => none
  | some z =>
    if outOfRange fn X f g z then none
    else some (max (-resultLimit) (min resultLimit (within z (ulpBound fn) (Config.shaper fn X f g))))

/-- The exact softmax of element `i` times 2^(g + guard) (R52). -/
def smxScaled (row : List Int) (f g i : Nat) : Int :=
  let top := row.foldl max (row.getD 0 0)
  let es := row.map fun x => expNeg (top - x).toNat (2 ^ f)
  es.getD i 0 * 2 ^ (g + guard) / (max 1 es.sum)

/-- An `SMX` result: the part's own integer held to 3 units, to 0 from below and to 2^g from above (R52; log 7). -/
def smxResult (row : List Int) (f g i : Nat) : Int :=
  max 0 (min (2 ^ g) (within (smxScaled row f g i) 3 (Config.smx row f g i)))

end Sys2Proof.Machine
end

