-- ==== Sys2Proof/Machine/Press.lean ====
section
/-! DEFINITION. The press and the vat: a press operation, its write, a clear. -/

namespace Sys2Proof.Machine

/-! ## One segment (R39 to R42) -/

/-- Whether a NaR code of either operand is examined: codes of a block whose `m` is 0 never are (R33, R42). -/
def Segment.narIn (g : Segment) : Bool :=
  (g.ma != 0 && g.qa.any fun q => (decodeCode g.fmtA q).isNone) || (g.mb != 0 && g.qb.any fun q => (decodeCode g.fmtB q).isNone)

/-- Steps 1 to 3: the exact segment sum S, 0 where a block's `m` is 0; the decoded first element of A may be disturbed. -/
def Segment.sum (g : Segment) (u : Option Upset) (lane : Nat) : Int :=
  if g.ma = 0 ∨ g.mb = 0 then 0
  else
    let as := g.qa.map fun q => (decodeCode g.fmtA q).getD 0
    let as := match as with | a :: r => disturbed u .decode lane 16 a :: r | [] => []
    ((as.zip (g.qb.map fun q => (decodeCode g.fmtB q).getD 0)).map fun p => p.1 * p.2).sum

/-- Steps 6 and 7: the shift d. -/
def Segment.shift (g : Segment) (x : Int) (u : Option Upset) (lane : Nat) : Int := disturbed u .exponent lane 9 (g.ea + g.eb) - x

/-- The aligned value A of a segment (steps 1 to 8), none for a NaR input; and whether a residue check fails. A disturbed
value goes on through the later steps. -/
def Segment.run (g : Segment) (x : Int) (u : Option Upset) (lane : Nat) : Option Int × Bool :=
  let S := g.sum u lane
  let M : Int := (g.ma * g.mb : Nat)
  let P := disturbed u .segmentSum lane 39 S * disturbed u .scaleProduct lane 17 M
  let P' := disturbed u .scaledProduct lane 55 P
  let A := if P' = 0 then 0 else shiftEven P' (g.shift x u lane)
  (if g.narIn then none else some (disturbed u .align lane 48 A),
    caught u .segmentSum lane 39 S || caught u .scaleProduct lane 17 M || caught u .scaledProduct lane 55 P || caught u .align lane 48 A)

/-- The segments of one lane in K order; a disturbance falls on the first. -/
def runLane (x : Int) (u : Option Upset) (lane : Nat) : List Segment → List (Option Int) × Bool
  | [] => ([], false)
  | g :: gs =>
    let a := g.run x u lane
    let rest := gs.map fun g => (g.run x none lane).1
    (a.1 :: rest, a.2)

/-! ## Operands read from the working store (R30, R32, R35, R36, R63) -/

/-- A scale word of the working store. -/
def Tile.scaleAt (x : Tile) (a : Nat) : Nat := ofLe (x.wsRead a 2)

/-- The code of element (o, k) of an operand; a missing position reads as 0 (R35). -/
def Tile.codeAt (x : Tile) (r : OpRef) (o k : Nat) : Nat :=
  if r.stores o k then elementAt (opFmt r.word) (x.wsRead (r.codeRange o k 1).1 (r.codeRange o k 1).2)
    (if fmtBits (opFmt r.word) < 8 then r.index o k % (8 / fmtBits (opFmt r.word)) else 0) else 0

/-- The scale word over element (o, k) of an operand: m and e; a row or column beyond the operand is missing. -/
def Tile.scaleOf (x : Tile) (r : OpRef) (o k : Nat) : Nat × Int :=
  if r.stores o k then (scaleM (x.scaleAt (r.scaleAddr o k)), scaleE (x.scaleAt (r.scaleAddr o k))) else (0, 0)

/-- The segment that lane row `r` and column `c` reduces from index `k` on, `n` long. -/
def Tile.segment (x : Tile) (a b : OpRef) (r c k n : Nat) : Segment where
  fmtA := opFmt a.word
  fmtB := opFmt b.word
  qa := (List.range n).map fun i => x.codeAt a (a.out0 + r) (k + i)
  qb := (List.range n).map fun i => x.codeAt b (b.out0 + c) (k + i)
  ma := (x.scaleOf a (a.out0 + r) k).1
  mb := (x.scaleOf b (b.out0 + c) k).1
  ea := (x.scaleOf a (a.out0 + r) k).2
  eb := (x.scaleOf b (b.out0 + c) k).2

/-- The 32 lanes of a micro-tile of 8 rows by 4 columns, row by row (R63; log 35): each its segments in K order. The lanes of a
row share its block of A, those of a column its block of B. -/
def Tile.lanes (x : Tile) (a b : OpRef) (k0 n : Nat) : List (List Segment) :=
  (List.range 32).map fun l => (segments a b k0 n).map fun g => x.segment a b (l / 4) (l % 4) g.1 g.2

/-- The bytes that a block of `w` output indices of an operand takes: codes and scale words over the run. -/
def OpRef.ranges (r : OpRef) (w k0 n : Nat) : List Range :=
  ((List.range w).filter fun i => r.stores (r.out0 + i) k0).flatMap fun i =>
    (0, r.codeRange (r.out0 + i) k0 n) :: (List.range (ceilDiv n (opExtK r.word) + 1)).filterMap fun j =>
      let k := k0 + j * opExtK r.word
      if k / opExtK r.word * opExtK r.word < k0 + n ∧ k / opExtK r.word < r.kBlocks then some (0, r.scaleAddr (r.out0 + i) k, 2) else none

/-- The bytes of the working store that a press operation reads: an 8 × D block of the left operand and a D × 4 block of the
right one, with their scale words (R63). -/
def pressRanges (a b : OpRef) (k0 n : Nat) : List Range := a.ranges 8 k0 n ++ b.ranges 4 k0 n

/-- A press operation as it enters the pipeline. -/
def pressOp (x : Int) (cask uop mt orow ocol ac : Nat) (lanes : List (List Segment)) (u : Option Upset) : PressOp :=
  let rs := lanes.zipIdx.map fun l => runLane x u l.2 l.1
  { cask := cask, uop := uop, mt := mt, orow := orow, ocol := ocol, addends := rs.map Prod.fst, bad := rs.any Prod.snd, upset := u,
    ac := ac }

/-- The operands of a press operation are read, and it enters the pipeline; a bad word delivers nothing (R91). -/
def State.pressRead (s : State) (t cask uop mt orow ocol ac : Nat) (a b : OpRef) (k0 n : Nat) (u : Option Upset) (es : List WordErr) :
    State :=
  let r := s.readStores t cask false (pressRanges a b k0 n) es
  if r.1 then r.2.modTile t fun x => { x with pipe := x.pipe ++ [pressOp (x.accX mt) cask uop mt orow ocol ac (x.lanes a b k0 n) u] }
  else r.2

/-- Whether ranges of the working store lie in a cask's windows (R100). -/
def rangesInside (img : Bytes) (rs : List Range) : Bool := rs.all fun r => inWindow img r.2.1 r.2.2

/-- PRESS_OPERATION (R39), issued in ac `ac`: its operands must lie in the cask's working-store windows and its micro-tile in
its vat window (R100). -/
def execPressOperation (tile cask uop microTile orow ocol ac : Nat) (a b : OpRef) (k0 n : Nat) (upset : Option Upset) (errs : List WordErr)
    (s : State) : Host.Outcome State Fault Refusal :=
  if s.opRuns tile cask uop 0x00 0x1F then
    match s.image tile cask with
    | some img =>
      if inVat img microTile && rangesInside img (pressRanges a b k0 n) then
        .next (s.pressRead tile cask uop microTile orow ocol ac a b k0 n upset errs)
      else .next (s.uopFault tile cask 7 uop)
    | none => .next s
  else .next s

/-! ## The write (R41, R64 to R66) -/

/-- Magnitude limit of an accumulator: 2^47 − 1 (R41). -/
def accLimit : Int := 140737488355327

/-- Whether a magnitude is beyond the limit. -/
def accOver (v : Int) : Bool := decide (accLimit < v ∨ v < -accLimit)

/-- One addition (step 9): the accumulator, and the source and unit where it becomes NaR: NaR input, overflow of the
alignment, overflow of the adder (R41). `flip` inverts the adder's overflow detection, an unchecked stage; a sum beyond
the limit that goes undetected keeps its low 48 bits. -/
def addTo (flip : Bool) : Acc → Option Int → Acc × Option (Nat × Nat)
  | .nar, _ => (.nar, none)
  | .val _, none => (.nar, some (0, 0))
  | .val v, some a =>
    if accOver a then (.nar, some (1, 0))
    else if accOver (v + a) != flip then (.nar, some (1, 1))
    else if accOver (v + a) then (.val (ofTwos 48 (toTwos 48 (v + a))), none)
    else (.val (v + a), none)

/-- The additions of one lane, in ascending order of K (R64): the accumulator and how it became NaR, if it did. -/
def addLane (flip : Bool) (v : Acc) (as : List (Option Int)) : Acc × Option (Nat × Nat) :=
  as.foldl (fun (r : Acc × Option (Nat × Nat)) a =>
    let q := addTo flip r.1 a
    (q.1, match r.2 with | some n => some n | none => q.2)) (v, none)

/-- Whether the vat adder's residue check fails under the operation's disturbance: a flipped bit of the first sum of the
lane. -/
def PressOp.adderBad (o : PressOp) (x : Tile) : Bool :=
  (o.addends.zipIdx).any fun l => match x.acc o.mt l.2, l.1 with
    | .val v, some a :: _ => caught o.upset .vatAdd l.2 48 (v + a)
    | _, _ => false

/-- The lanes' results, by accumulator index: lane l is accumulator l of its micro-tile, row l / 4, column l mod 4 (the
spec numbers no accumulators: log 35). -/
def PressOp.results (o : PressOp) (x : Tile) : List (Acc × Option (Nat × Nat)) :=
  o.addends.zipIdx.map fun l => addLane (upsetBit o.upset .vatOverflow l.2).isSome (x.acc o.mt l.2) l.1

/-- The micro-tile written. -/
def PressOp.write (o : PressOp) (x : Tile) : Tile :=
  (o.results x).zipIdx.foldl (fun (y : Tile) r => y.setAcc o.mt r.2 r.1.1) x

/-- The operations left in the pipeline when one does not write: those that took a value forwarded from it, directly or
through another, do not write either. A value is forwarded to the operation of the next ac on the same micro-tile (R65, R66). -/
def keepUnforwarded (mt : Nat) : Nat → List PressOp → List PressOp
  | _, [] => []
  | ac, q :: rest => if q.mt = mt ∧ q.ac = ac + 1 then keepUnforwarded mt q.ac rest else q :: keepUnforwarded mt ac rest

/-- A failing operation does not write, nor does one that took a value forwarded from it (R66). -/
def State.pressFails (s : State) (t : Nat) (o : PressOp) (rest : List PressOp) (unit : Nat) : State :=
  (s.modTile t fun x => { x with pipe := keepUnforwarded o.mt o.ac rest }).residueFailure t o.cask o.uop unit o.orow o.ocol

/-- What became NaR in a press operation's write, by lane. -/
def PressOp.nars (o : PressOp) (x : Tile) : List NarAt :=
  (o.results x).zipIdx.filterMap fun r => r.1.2.map fun n => (r.2, n.1, n.2)

/-- The oldest press operation of a tile ends in ac `ac`: it writes the vat, or fails its check. -/
def State.pressWrite (s : State) (t ac : Nat) (es : List WordErr) : State :=
  match (s.tile t).pipe with
  | o :: rest =>
    if o.bad then s.pressFails t o rest 0
    else if o.adderBad (s.tile t) then s.pressFails t o rest 1
    else
      let r := (s.modTile t fun x => { x with pipe := rest }).readStores t o.cask false (vatRanges [o.mt]) es
      if r.1 then (r.2.setTile t (o.write (r.2.tile t))).becameNar t o.cask o.uop o.orow o.ocol ac (o.nars (r.2.tile t)) else r.2
  | [] => s

/-- PRESS_VAT_WRITE (R65, R66); the last operation of a tile that stops lets it report its idling (R55). -/
def execPressVatWrite (tile ac : Nat) (errs : List WordErr) (s : State) : Host.Outcome State Fault Refusal :=
  .next ((s.pressWrite tile ac errs).idleReport tile)

/-! ## The clear (R43, R67, R68) -/

/-- Micro-tiles cleared: every accumulator 0, the exponent set. -/
def Tile.vatClear (x : Tile) (mts : List Nat) (e : Int) : Tile :=
  mts.foldl (fun (y : Tile) mt => ({ y with
    vat := y.vat.filter fun a => a.1 / 32 != mt
    vatX := kput y.vatX mt (ofTwos 8 (toTwos 8 e)) } : Tile).mend 1 (192 * mt) 192) x

/-- The accumulator exponent that a clear carries: that of the parameter entry its `PARAM` names, where the entry is one the
tiler fills, of type 0xA0 (Tables 4.4 and 4.5, R155); for any other entry, whose form the spec does not give, the operand. -/
def CaskCtx.clearX (k : CaskCtx) (u : Nat) (x : Int) : Int :=
  let e := imgParam k.image (fld (imgUop k.image u) 5 4 10)
  if fld e 15 0 8 = 0xA0 then ofTwos 8 (fld e 7 0 8) else x

/-- VAT_CLEAR (R43): it waits until every press operation issued to its micro-tiles has written (R67). -/
def execVatClear (tile cask : Nat) (microTiles : List Nat) (x : Int) (s : State) : Host.Outcome State Fault Refusal :=
  if s.classRuns tile cask 0x20 0x2F ∧ (microTiles.all fun m => !(s.tile tile).pressPending m) = true then
    match s.image tile cask, (s.tile tile).cask cask with
    | some img, some k =>
      let u := k.issued.getD 0
      if microTiles.all (inVat img) then .next (s.modTile tile fun y => y.vatClear microTiles (k.clearX u x))
      else .next (s.uopFault tile cask 7 u)
    | _, _ => .next s
  else .next s

end Sys2Proof.Machine
end

