-- ==== Sys2Proof/Machine/Shaper.lean ====
section
/-! DEFINITION. The way out of the vat: conversion, the shaper, SMX, the scale finder with its generator. -/

namespace Sys2Proof.Machine

/-! ## Sources and destinations -/

/-- Micro-tiles that a list of accumulators touches. -/
def accTiles (accs : List (Nat × Nat)) : List Nat := (accs.map Prod.fst).dedup

/-- Whether accumulators may be drained or stored to now: inside the cask's vat window, no press operation pending on
their micro-tiles (R67, R100); none: wait. -/
def State.vatReady (s : State) (t : Nat) (accs : List (Nat × Nat)) : Bool :=
  (accTiles accs).all fun m => !(s.tile t).pressPending m

/-- Whether accumulators lie in the cask's vat window. -/
def State.vatInside (s : State) (t c : Nat) (accs : List (Nat × Nat)) : Bool :=
  match s.image t c with | some img => (accTiles accs).all (inVat img) | none => false

/-- An accumulator as a value, none for NaR. -/
def Acc.value : Acc → Option Int
  | .nar => none
  | .val v => some v

/-! ## Conversion (R44) -/

/-- A value times 2^d as shaper input, and how it became NaR: NaR input, or a magnitude above 2^31 − 1. -/
def convertOne (d : Int) (v : Option Int) : Option Int × Option (Nat × Nat) :=
  match v with
  | none => (none, some (0, 4))
  | some v =>
    let X := shiftEven v d
    if resultLimit < X ∨ X < -resultLimit then (none, some (1, 4)) else (some X, none)

/-- Bytes that `n` codes of a block take. -/
def blockBytes (fmt n : Nat) : Nat := ceilDiv (n * fmtBits fmt) 8

/-- The bytes of a tile's stores that a drain reads: vat words, or a block's codes and scale word (R72). -/
def DrainSrc.ranges : DrainSrc → List Range
  | .vat accs => vatRanges (accTiles accs)
  | .shaper _ => []
  | .codes fmt a n w => [(0, a, blockBytes fmt n), (0, w, 2)]

/-- The inputs of a conversion, each with its place in the output and the exponent that takes it to X: accumulators at their
tile's x, or the codes of a QB block of the working store, of which none is read when its `m` is 0 (R33, R44). -/
def Tile.convertInputs (x : Tile) (f : Nat) (src : DrainSrc) : List (Nat × Int × Option Int) :=
  match src with
  | .vat accs => accs.map fun a => (32 * a.1 + a.2, x.accX a.1 + f, (x.acc a.1 a.2).value)
  | .codes fmt a n w =>
    let b := x.wsRead a (blockBytes fmt n)
    let m := scaleM (x.scaleAt w)
    (List.range n).map fun i => (i, scaleE (x.scaleAt w) + f, if m = 0 then some 0 else (decodeCode fmt (elementAt fmt b i)).map fun v => v * m)
  | .shaper _ => []

/-- The conversion of a drain: its results wait at the shaper under their cask's tag (R107); a failed check writes nothing
(R60). -/
def State.convert (s : State) (t c uop orow ocol ac f : Nat) (src : DrainSrc) (u : Option Upset) : State :=
  let rs := ((s.tile t).convertInputs f src).map fun i => (i.1, convertOne i.2.1 i.2.2)
  if (rs.zipIdx.any fun r => caught u .conversion r.2 32 (r.1.2.1.getD 0)) then s.residueFailure t c uop 4 orow ocol
  else (s.modTile t fun x => { x with shaperIn := x.shaperIn ++ rs.map fun r => (c, r.2.1) }).becameNar t c uop orow ocol ac
    (rs.filterMap fun r => r.2.2.map fun n => (r.1, n.1, n.2))

/-- Accumulators that a source names. -/
def DrainSrc.accs : DrainSrc → List (Nat × Nat)
  | .vat accs => accs
  | .shaper _ | .codes _ _ _ _ => []

/-- Whether what a drain reads lies in the cask's windows (R100). -/
def State.drainInside (s : State) (t c : Nat) (src : DrainSrc) : Bool :=
  s.vatInside t c src.accs && match s.image t c with | some img => rangesInside img (src.ranges.filter fun r => r.1 == 0) | none => false

/-- CONVERSION_DRAIN (R44), in ac `ac`. -/
def execConversionDrain (tile cask uop orow ocol : Nat) (src : DrainSrc) (f ac : Nat) (upset : Option Upset) (errs : List WordErr) (s : State) :
    Host.Outcome State Fault Refusal :=
  if s.opRuns tile cask uop 0x30 0x3F ∧ s.vatReady tile src.accs = true then
    if s.drainInside tile cask src then
      let r := s.readStores tile cask false src.ranges errs
      .next (if r.1 then r.2.convert tile cask uop orow ocol ac f src upset else r.2)
    else .next (s.uopFault tile cask 7 uop)
  else .next s

/-! ## Shaper functions (R50, R51) -/

/-- One result and how it became NaR. -/
def shapeOne (fn : ShaperFn) (f g : Nat) (X : Option Int) : Option Int × Option (Nat × Nat) :=
  match X with
  | none => (none, some (0, 2))
  | some X =>
    match shaperResult fn X f g with
    | some y => (some y, none)
    | none => (none, some (2, 2))

/-- A result back into the vat: at the tile's exponent, by the rounding of R40 (R50). Beyond the accumulator's limit it is
accumulator overflow, reported with `UNIT` 2, shaper, for which the spec names no unit (log 36). -/
def toVat (x : Int) (g : Nat) (y : Option Int) : Acc × Option (Nat × Nat) :=
  match y with
  | none => (.nar, none)
  | some y =>
    let v := shiftEven y (-(g : Int) - x)
    if accOver v then (.nar, some (1, 2)) else (.val v, none)

/-- Results, each with its place, go to the scale finder, at exponent −g, behind those that wait there, or to accumulators,
which they replace, a NaR one too (log 36). -/
def State.placeResults (s : State) (t c uop orow ocol ac g : Nat) (dst : ShaperDst) (rs : List (Option Int × Option (Nat × Nat))) : State :=
  match dst with
  | .finder =>
    (s.modTile t fun x => { x with shaperOut := x.shaperOut ++ rs.map fun r => (c, g, r.1) }).becameNar t c uop orow ocol ac
      (rs.zipIdx.filterMap fun r => r.1.2.map fun n => (r.2, n.1, n.2))
  | .vat accs =>
    let vs := (accs.zip rs).map fun p => (p.1, toVat ((s.tile t).accX p.1.1) g p.2.1, p.2.2)
    (s.modTile t fun x => vs.foldl (fun (y : Tile) v => y.setAcc v.1.1 v.1.2 v.2.1.1) x).becameNar t c uop orow ocol ac
      (vs.filterMap fun v => (match v.2.2 with | some n => some n | none => v.2.1.2).map fun (n : Nat × Nat) => (32 * v.1.1 + v.1.2, n.1, n.2))

/-- Whether a checked stage of the shaper catches a disturbance; a table entry's parity catches any (R53, R59, R60). -/
def shaperCaught (u : Option Upset) (rs : List (Option Int × Option (Nat × Nat))) : Bool :=
  rs.zipIdx.any fun r => caught u .shaperShift r.2 64 (r.1.1.getD 0) || caught u .shaperInterp r.2 64 (r.1.1.getD 0)
    || (upsetBit u .shaperTable r.2).isSome || caught u .smxSum r.2 48 (r.1.1.getD 0)

/-- Accumulators that a destination names. -/
def ShaperDst.accs : ShaperDst → List (Nat × Nat)
  | .finder => []
  | .vat accs => accs

/-- Results of a shaper micro-operation over the inputs taken: checked, then placed; `rest` stays at the shaper. -/
def State.shape (s : State) (t c uop orow ocol ac g : Nat) (dst : ShaperDst) (u : Option Upset)
    (rs : List (Option Int × Option (Nat × Nat))) (rest : List (Nat × Option Int)) : State :=
  let s := s.modTile t fun x => { x with shaperIn := rest }
  if shaperCaught u rs then s.residueFailure t c uop 2 orow ocol else s.placeResults t c uop orow ocol ac g dst rs

/-- The inputs that wait at the shaper for a cask. -/
def Tile.inputsOf (x : Tile) (c : Nat) : List (Option Int) := (x.shaperIn.filter fun v => v.1 == c).map Prod.snd

/-- What waits at the shaper once the first `n` inputs of a cask are taken. -/
def dropOf {α : Type} (c : Nat) : Nat → List (Nat × α) → List (Nat × α)
  | 0, l => l
  | _, [] => []
  | n + 1, v :: l => if v.1 = c then dropOf c n l else v :: dropOf c (n + 1) l

/-- SHAPER_FUNCTION (R51), in ac `ac`: it takes the inputs of its cask that wait at the shaper. -/
def execShaperFunction (tile cask uop orow ocol : Nat) (fn : ShaperFn) (f g : Nat) (dst : ShaperDst) (ac : Nat) (upset : Option Upset) (s : State) :
    Host.Outcome State Fault Refusal :=
  if s.opRuns tile cask uop 0x40 0x5F ∧ s.vatReady tile dst.accs = true then
    if s.vatInside tile cask dst.accs then
      .next (s.shape tile cask uop orow ocol ac g dst upset (((s.tile tile).inputsOf cask).map (shapeOne fn f g))
        ((s.tile tile).shaperIn.filter fun v => v.1 != cask))
    else .next (s.uopFault tile cask 7 uop)
  else .next s

/-- A row of `SMX`: every output NaR where an element is (R52). A disturbance of the row maximum, an unchecked stage, leaves
the outputs free (log 25). -/
def State.smxRow (s : State) (row : List (Option Int)) (f g : Nat) (u : Option Upset) : List (Option Int × Option (Nat × Nat)) :=
  if row.any Option.isNone then row.map fun _ => (none, some (0, 2))
  else
    let xs := row.map fun x => x.getD 0
    (List.range row.length).map fun i =>
      (some (if (upsetBit u .smxMax 0).isSome then ofTwos 32 (Config.freeNat (s.free + i)) else smxResult xs f g i), none)

/-- SMX (R52), in ac `ac`: a row of 1 to 65,536 inputs of its cask. -/
def execSmx (tile cask uop orow ocol : Nat) (n f g : Nat) (dst : ShaperDst) (ac : Nat) (upset : Option Upset) (s : State) :
    Host.Outcome State Fault Refusal :=
  let ins := (s.tile tile).inputsOf cask
  if s.opRuns tile cask uop 0x40 0x5F ∧ s.vatReady tile dst.accs = true ∧ 1 ≤ n ∧ n ≤ 65536 ∧ n ≤ ins.length then
    if s.vatInside tile cask dst.accs then
      .next (State.shape { s with free := s.free + n } tile cask uop orow ocol ac g dst upset (s.smxRow (ins.take n) f g upset)
        (dropOf cask n (s.tile tile).shaperIn))
    else .next (s.uopFault tile cask 7 uop)
  else .next s

/-! ## The stochastic generator (R49) -/

/-- The seed of tile `t`. -/
def genSeed (seed t : Nat) : BitVec 64 :=
  let s := BitVec.ofNat 64 seed ^^^ BitVec.ofNat 64 (t * 0x9E3779B97F4A7C15)
  if s = 0 then 1 else s

/-- One step of the Galois form. -/
def genStep (s : BitVec 64) : BitVec 64 := if s.getLsbD 0 then (s >>> 1) ^^^ 0xD800000000000000 else s >>> 1

/-- A draw of 16 bits: the generator after 16 steps. -/
def genDraw (s : BitVec 64) : BitVec 64 := (List.range 16).foldl (fun s _ => genStep s) s

/-! ## The scale finder (R45 to R48) -/

/-- Smallest n with 255 · L · 2^n ≥ t, for t of 1 to 2^48. -/
def sfExponent (l t : Nat) : Int :=
  match (List.range 90).find? fun k => decide (t * 2 ^ 35 ≤ 255 * l * 2 ^ k) with
  | some k => (k : Int) - 35
  | none => 55

/-- Ceiling of t / (L · 2^n). -/
def sfMultiplier (l t : Nat) (n : Int) : Nat :=
  if 0 ≤ n then ceilDiv t (l * 2 ^ n.toNat) else ceilDiv (t * 2 ^ (-n).toNat) l

/-- The choice for a block whose largest magnitude t is not 0: m, e, n, and whether the clamp at the high end acts
(R45, R46). -/
def sfChoose (l t : Nat) (x : Int) : Nat × Int × Int × Bool :=
  let n := sfExponent l t
  if x + n < -128 then (sfMultiplier l t (-128 - x), -128, -128 - x, false)
  else if 127 < x + n then (255, 127, 127 - x, true)
  else (sfMultiplier l t n, x + n, n, false)

/-- The quotient v / (m · 2^n) as a fraction. -/
def sfQuotient (m : Nat) (n v : Int) : Int × Nat := ((ratio v (-n)).1, (ratio v (-n)).2 * m)

/-- A quotient rounded in stochastic mode with the draw `u` (R48). -/
def roundStoch (num : Int) (den u : Nat) : Int :=
  let q := num / (den : Int)
  let F := (num % (den : Int)).toNat * 65536 / den
  if 65536 ≤ F + u then q + 1 else q

/-- The codes of a block in element order and the generator after it: one draw for each stored element in stochastic mode. -/
def sfCodes (fmt m : Nat) (n : Int) (stoch : Bool) (u : Option Upset) : List (Option Int) → Nat → BitVec 64 → List Nat × BitVec 64
  | [], _, g => ([], g)
  | v :: vs, i, g =>
    let g' := if stoch then genDraw g else g
    let code := match v with
      | none => fmtNar fmt
      | some v =>
        let y := sfQuotient m n v
        encodeCode fmt (some (if stoch then roundStoch y.1 y.2 (g'.toNat % 65536) else roundEven y.1 y.2))
    let code := match upsetBit u .sfRound i with | some b => if b < fmtBits fmt then code ^^^ 2 ^ b else code | none => code
    let r := sfCodes fmt m n stoch u vs (i + 1) g'
    (code :: r.1, r.2)

/-- A requantised block: codes, m, e, whether the high clamp acted, the generator after it. -/
structure SfResult where
  codes : List Nat
  m : Nat
  e : Int
  clamped : Bool
  gen : BitVec 64
  deriving DecidableEq, Repr

/-- Requantise a block of values that share exponent `x` (R45). -/
def requantise (fmt : Nat) (x : Int) (vs : List (Option Int)) (stoch : Bool) (u : Option Upset) (g : BitVec 64) : SfResult :=
  let t := (vs.map fun v => match v with | some v => v.natAbs | none => 0).foldl max 0
  if t = 0 then
    let g' := if stoch then vs.foldl (fun g _ => genDraw g) g else g
    if vs.any Option.isNone then ⟨vs.map fun v => if v.isNone then fmtNar fmt else 0, 128, 0, false, g'⟩
    else ⟨vs.map fun _ => 0, 0, 0, false, g'⟩
  else
    let c := sfChoose (fmtLimit fmt) t x
    let m := match upsetBit u .sfChoice 0 with | some b => if b < 8 then max 1 (c.1 ^^^ 2 ^ b) else c.1 | none => c.1
    let r := sfCodes fmt m c.2.2.1 stoch u vs 0 g
    ⟨r.1, m, c.2.1, c.2.2.2, r.2⟩

/-- The results of a cask that wait for the scale finder. -/
def Tile.outputsOf (x : Tile) (c : Nat) : List (Nat × Option Int) := (x.shaperOut.filter fun v => v.1 == c).map Prod.snd

/-- The values of the one block that a scale-finder drain takes, each with its place, and the exponent that they share: the
first `n` results of the cask that wait, as far as they carry the `g` of the first (R45). -/
def Tile.sfInputs (x : Tile) (c : Nat) (src : DrainSrc) : List (Nat × Option Int) × Int :=
  match src with
  | .vat accs => (accs.map fun a => (32 * a.1 + a.2, (x.acc a.1 a.2).value), match accs with | a :: _ => x.accX a.1 | [] => 0)
  | .shaper n =>
    match x.outputsOf c with
    | v :: l => ((((v :: l).take n).takeWhile fun w => w.1 == v.1).zipIdx.map fun w => (w.2, w.1.2), -(v.1 : Int))
    | [] => ([], 0)
  | .codes _ _ _ _ => ([], 0)

/-- The results that wait once a drain has taken its block. -/
def Tile.afterDrain (x : Tile) (c taken : Nat) (src : DrainSrc) : List (Nat × Nat × Option Int) :=
  match src with | .shaper _ => dropOf c taken x.shaperOut | _ => x.shaperOut

/-- Store a requantised block: codes, scale word, the generator, the clamp count; a NaR code is a value that became NaR
by NaR input (R54; log 25). -/
def State.sfStore (s : State) (t c uop orow ocol ac fmt : Nat) (src : DrainSrc) (codeAddr scaleAddr : Nat) (vs : List (Nat × Option Int))
    (r : SfResult) : State :=
  let s := s.modTile t fun x =>
    let y := (x.wsWrite codeAddr (packCodes fmt r.codes)).wsWrite scaleAddr (scaleWord r.m r.e)
    { y with gen := r.gen, shaperOut := x.afterDrain c vs.length src }
  let s := match s.partOf t with
    | some pn => if r.clamped then s.modPart pn fun p => { p with scaleClamp := satAdd 32 p.scaleClamp 1 } else s
    | none => s
  s.becameNar t c uop orow ocol ac (vs.filterMap fun v => if v.2.isNone then some (v.1, 0, 3) else none)

/-- The block of a drain requantised and stored; a failed quotient check writes nothing, and the generator stays before the
block's draws (log 36). -/
def State.sfDrain (s : State) (t c uop orow ocol ac fmt : Nat) (src : DrainSrc) (stoch : Bool) (codeAddr scaleAddr : Nat) (u : Option Upset) :
    State :=
  let i := (s.tile t).sfInputs c src
  if (i.1.zipIdx.any fun v => caught u .sfQuotient v.2 64 (v.1.2.getD 0)) then s.residueFailure t c uop 3 orow ocol
  else s.sfStore t c uop orow ocol ac fmt src codeAddr scaleAddr i.1 (requantise fmt i.2 (i.1.map Prod.snd) stoch u (s.tile t).gen)

/-- SCALE_FINDER_DRAIN (R45 to R48), in ac `ac`: one block goes to the working store, inside the cask's windows (R100). -/
def execScaleFinderDrain (tile cask uop orow ocol : Nat) (src : DrainSrc) (fmt : Nat) (stochastic : Bool) (codeAddr scaleAddr ac : Nat)
    (upset : Option Upset) (errs : List WordErr) (s : State) : Host.Outcome State Fault Refusal :=
  if s.opRuns tile cask uop 0x30 0x3F ∧ s.vatReady tile src.accs = true then
    match s.image tile cask with
    | some img =>
      let n := ((s.tile tile).sfInputs cask src).1.length
      if s.drainInside tile cask src && inWindow img codeAddr (blockBytes fmt n) && inWindow img scaleAddr 2 then
        let r := s.readStores tile cask false src.ranges errs
        .next (if r.1 then r.2.sfDrain tile cask uop orow ocol ac fmt src stochastic codeAddr scaleAddr upset else r.2)
      else .next (s.uopFault tile cask 7 uop)
    | none => .next s
  else .next s

end Sys2Proof.Machine
end

