-- ==== Sys2Proof/Machine/Streams.lean ====
section
/-! DEFINITION. Stream engines: rings, issue, landing, acknowledgements, re-arming through the shadow. -/

namespace Sys2Proof.Machine

/-! ## Rings (R135, R136) -/

/-- Lines of a slot: code lines, then scale lines. -/
def sdLines (d : Bytes) : Nat := sdClines d + sdSlines d

/-- Working-store address of ring slot `i`. -/
def ringAddr (d : Bytes) (i : Nat) : Nat := sdRbase d + 64 * sdLines d * i

/-- Whether the ring is full. -/
def Stream.full (g : Stream) : Bool := g.issue == g.head && g.iwrap != g.hwrap

/-- Whether the ring is empty. -/
def Stream.empty (g : Stream) : Bool := g.issue == g.head && g.iwrap == g.hwrap

/-- A pointer advanced: from the last slot to slot 0 it inverts its wrap bit. -/
def advance (slots : Nat) (i : Nat) (w : Bool) : Nat × Bool := if i + 1 = slots then (0, !w) else (i + 1, w)

/-- Address of line `l` of the stream's slot number `k` (R135). -/
def sdLineAddr (d : Bytes) (k l : Nat) : Int :=
  let i : Int := (k / max 1 (sdCount0 d) : Nat)
  let j : Int := (k % max 1 (sdCount0 d) : Nat)
  if l < sdClines d then sdAddr d + i * sdStride1 d + j * sdStride0 d + 64 * l
  else sdSaddr d + i * sdSstride1 d + j * sdSstride0 d + 64 * (l - sdClines d : Nat)

/-- The shadow's address, stride and count fields in the active descriptor (R141). -/
def rearmed (act shadow : Bytes) : Bytes := act.take 12 ++ slice shadow 12 40 ++ act.drop 52

/-- A persistent stream at a wrap with nothing remaining takes a valid shadow (R141). -/
def Stream.rearm (g : Stream) : Stream :=
  if sdPersist g.active && g.remain == 0 && g.issue == 0 && sdValid g.shadow then
    { g with active := rearmed g.active g.shadow, shadow := sdSetValid g.shadow false, remain := sdTotal (rearmed g.active g.shadow) }
  else g

/-- `ISSUE` advances past a slot: one slot less remains, and the shadow is looked at. -/
def Stream.issueNext (g : Stream) : Stream :=
  let a := advance (sdSlots g.active) g.issue g.iwrap
  Stream.rearm { g with issue := a.1, iwrap := a.2, remain := g.remain - 1 }

/-- `HEAD` advances: its slot is free. -/
def Stream.headNext (g : Stream) : Stream :=
  let a := advance (sdSlots g.active) g.head g.hwrap
  { g with head := a.1, hwrap := a.2, slots := kdel g.slots g.head }

/-- A non-persistent stream that has run out starts again at a serving-step boundary (R140). -/
def Stream.restart (g : Stream) : Stream :=
  if !(sdPersist g.active) && g.remain == 0 then { g with remain := sdTotal g.active } else g

/-- A stream of a resident cask. -/
def State.streamAt (s : State) (t c e : Nat) : Option Stream := ((s.tile t).cask c).bind fun k => kget k.streams e

/-- Store a stream. -/
def State.setStream (s : State) (t c e : Nat) (g : Stream) : State := s.modCask t c fun k => { k with streams := kput k.streams e g }

/-! ## Issue (R74, R110, R137 to R139) -/

/-- Reads that an engine holds outstanding, under all casks (R74). -/
def Tile.engineReads (x : Tile) (e : Nat) : Nat :=
  (x.casks.map fun k => match kget k.2.streams e with | some g => g.outstanding | none => 0).sum

/-- The cask of the step after the current one. -/
def Partition.nextCask (p : Partition) : Nat :=
  match p.sched[(p.step + 1) % max 1 p.sched.length]? with | some k => k.cask | none => 0

/-- Whether the engines of a tile issue for cask `c`: it runs, or the `LEAD` span of the step before it has begun (R110). -/
def State.engineServes (s : State) (t c : Nat) : Bool :=
  match (s.partOf t).bind s.part with
  | some p => p.clockRuns && !(s.tile t).idle && !s.pwr.stopped
      && ((s.tile t).running == c || (p.lead && p.nextCask == c))
  | none => false

/-- Whether slot `c` of the partition of a tile is `CLOSED`. -/
def State.closedSlot (s : State) (t c : Nat) : Bool :=
  match (s.partOf t).bind s.part with | some p => (p.slotAt c).st == .closed | none => false

/-- Kind of the request for an address: memory, or fabric where a full address names another node (R134). -/
def State.requestKind (s : State) (d : Bytes) (a mem : Nat) : Nat :=
  if sdFab d && a / 2 ^ 48 != s.nodeId then 10 else mem

/-- The addresses of the lines of the stream's slot number `k`, as a descriptor gives them (R135). -/
def slotAddrs (d : Bytes) (k : Nat) : List Nat := (List.range (sdLines d)).map fun l => toTwos 64 (sdLineAddr d k l)

/-- A request flit of an engine: to memory or the fabric by its address, in the stream's class, by the stream's exit, under the
engine's next `SEQ` (R77, R80; log 27 for what it carries and where). -/
def State.requestFlit (s : State) (t c e : Nat) (g : Stream) (a mem : Nat) (last : Bool) (b : Bytes) : Flit :=
  mkFlit t (exitTile t (sdExit g.active)) (sdExit g.active) (sdCls g.active) c (s.requestKind g.active a mem) (64 * c + e) g.seq last b

/-- The payload of a read request: the line's address, and whether it is a prefetch. -/
def readPayload (a : Nat) (prefetch : Bool) : Bytes := le 8 a ++ le 1 (b2n prefetch)

/-- The lines that the issue of the stream's slot number `k` brings into the distance `RIMPF`: those of slot k + n, and at the
first slot those of the slots before it too (R143). -/
def prefetchAddrs (d : Bytes) (k : Nat) : List Nat :=
  ((List.range (sdRimpf d)).filterMap fun i =>
    let q := k + i + 1
    if (k = 0 ∨ i + 1 = sdRimpf d) ∧ q < sdTotal d then some q else none).flatMap fun q => slotAddrs d q

/-- A ring slot not begun. -/
def RingSlot.fresh (addrs : List Nat) : RingSlot where
  issued := 0
  landed := []
  pushed := false
  acks := 0
  addrs := addrs

/-- The engine's request for one line of ring slot `slot` goes out: its answer is awaited under its `SEQ`. -/
def Stream.await (g : Stream) (slot line : Nat) : Stream :=
  { g with waits := g.waits ++ [(g.seq, slot, line)], seq := (g.seq + 1) % 256 }

/-- A read ring issues the next line of the slot at `ISSUE` (R137): never more than 64 reads of the engine outstanding, one
request at a time (R74). The whole slot issued, `ISSUE` advances and its prefetches are due. -/
def State.issueRead (s : State) (t c e : Nat) (g : Stream) : State :=
  let k := sdTotal g.active - g.remain
  let r := (kget g.slots g.issue).getD (RingSlot.fresh (slotAddrs g.active k))
  if 64 ≤ (s.tile t).engineReads e then s
  else
    let f := s.requestFlit t c e g (r.addrs.getD r.issued 0) 0 true (readPayload (r.addrs.getD r.issued 0) false)
    let g' := Stream.await { g with slots := kput g.slots g.issue { r with issued := r.issued + 1 }, outstanding := g.outstanding + 1 }
      g.issue r.issued
    let g' := if r.issued + 1 = sdLines g.active then Stream.issueNext { g' with ahead := g'.ahead ++ prefetchAddrs g.active k } else g'
    (s.setStream t c e g').injectBy t e [f]

/-- A prefetch that is due goes out; no answer comes (R143). -/
def State.issueAhead (s : State) (t c e : Nat) (g : Stream) : State :=
  match g.ahead with
  | a :: rest => (s.setStream t c e { g with ahead := rest }).injectBy t e [s.requestFlit t c e g a 0 true (readPayload a true)]
  | [] => s

/-- A write ring writes the next line of the slot at `HEAD`, once pushed (R138): its address, then its data (log 27). A bad word
is not delivered (R91). -/
def State.issueWrite (s : State) (t c e : Nat) (g : Stream) (es : List WordErr) : State :=
  match kget g.slots g.head with
  | some r =>
    if r.pushed && decide (r.issued < sdLines g.active) then
      let w := ringAddr g.active g.head + 64 * r.issued
      let a := r.addrs.getD r.issued 0
      let v := s.readStores t c false [(0, w, 64)] es
      if v.1 then
        (v.2.setStream t c e (Stream.await { g with slots := kput g.slots g.head { r with issued := r.issued + 1 } } g.head r.issued)).injectBy t e
          [s.requestFlit t c e g a 1 false (le 8 a), s.requestFlit t c e g a 1 true ((s.tile t).wsRead w 64)]
      else v.2
    else s
  | none => s

/-- Whether a read ring may issue: it is not full, slots remain, and a `CLOSED` cask begins no new slot (R137, R139). -/
def State.mayRead (s : State) (t c : Nat) (g : Stream) : Bool :=
  !g.full && g.remain != 0 && !(s.closedSlot t c && (kget g.slots g.issue).isNone)

/-- STREAM_ISSUE (R74, R137 to R139): one request; a read before a prefetch (log 36). Write rings of a `CLOSED` cask keep
writing. -/
def execStreamIssue (tile cask engine : Nat) (errs : List WordErr) (s : State) : Host.Outcome State Fault Refusal :=
  match s.streamAt tile cask engine with
  | some g =>
    if s.engineServes tile cask then
      if sdDirn g.active = 0 then
        if s.mayRead tile cask g && decide ((s.tile tile).engineReads engine < 64) then .next (s.issueRead tile cask engine g)
        else if s.closedSlot tile cask then .next s
        else .next (s.issueAhead tile cask engine g)
      else .next (s.issueWrite tile cask engine g errs)
    else .next s
  | none => .next s

/-! ## Landing, popping, pushing -/

/-- The answer that an engine awaits under a `SEQ`, for a slot and a line. -/
def Stream.awaits (g : Stream) (seq slot line : Nat) : Bool := g.waits.contains (seq, slot, line)

/-- An answer has come. -/
def Stream.answered (g : Stream) (seq : Nat) : Stream := { g with waits := g.waits.filter fun w => w.1 != seq }

/-- READ_DATA_ARRIVAL (R137): a delivered flit of read data lands its line in its slot, whatever cask runs (R108). -/
def execReadDataArrival (tile cask engine slot line : Nat) (data : Bytes) (s : State) : Host.Outcome State Fault Refusal :=
  match s.streamAt tile cask engine with
  | some g =>
    let k := fun (f : Flit) => f.kind == 2 && f.qid == 64 * cask + engine && f.payload == payload64 data && g.awaits f.seq slot line
    match s.delivered tile k, kget g.slots slot with
    | some f, some r =>
      let g' := Stream.answered { g with slots := kput g.slots slot { r with landed := r.landed ++ [line] }, outstanding := g.outstanding - 1 } f.seq
      .next (((s.takeKind tile k).modTile tile fun x => x.wsWrite (ringAddr g.active slot + 64 * line) (payload64 data)).setStream tile cask engine g')
    | _, _ => .next s
  | none => .next s

/-- STREAM_RING_POP (R137): only the slot at `HEAD`, and only when every line of it has landed. -/
def execStreamRingPop (tile cask engine : Nat) (errs : List WordErr) (s : State) : Host.Outcome State Fault Refusal :=
  match s.streamAt tile cask engine with
  | some g =>
    match kget g.slots g.head with
    | some r =>
      if s.anyRuns tile cask ∧ sdDirn g.active = 0 ∧ r.landed.length = sdLines g.active then
        let v := s.readStores tile cask false [(0, ringAddr g.active g.head, 64 * sdLines g.active)] errs
        .next (if v.1 then v.2.setStream tile cask engine g.headNext else v.2)
      else .next s
    | none => .next s
  | none => .next s

/-- STREAM_RING_PUSH (R138): the slot at `ISSUE` takes the data; a push waits while the ring is full. -/
def execStreamRingPush (tile cask engine : Nat) (data : Bytes) (s : State) : Host.Outcome State Fault Refusal :=
  match s.streamAt tile cask engine with
  | some g =>
    if s.anyRuns tile cask ∧ sdDirn g.active = 1 ∧ g.full = false ∧ 0 < g.remain then
      let b := (data ++ List.replicate (64 * sdLines g.active) 0).take (64 * sdLines g.active)
      let r := RingSlot.fresh (slotAddrs g.active (sdTotal g.active - g.remain))
      .next ((s.modTile tile fun x => x.wsWrite (ringAddr g.active g.issue) b).setStream tile cask engine
        (Stream.issueNext { g with slots := kput g.slots g.issue { r with pushed := true } }))
    else .next s
  | none => .next s

/-- WRITE_ACK_ARRIVAL (R138): a delivered acknowledgement; the last of a slot advances `HEAD`. -/
def execWriteAckArrival (tile cask engine slot : Nat) (s : State) : Host.Outcome State Fault Refusal :=
  match s.streamAt tile cask engine with
  | some g =>
    let k := fun (f : Flit) => f.kind == 3 && f.qid == 64 * cask + engine && g.waits.any fun w => w.1 == f.seq && w.2.1 == slot
    match s.delivered tile k, kget g.slots slot with
    | some f, some r =>
      let s := s.takeKind tile k
      let g := g.answered f.seq
      if r.acks + 1 = sdLines g.active ∧ slot = g.head then .next (s.setStream tile cask engine g.headNext)
      else .next (s.setStream tile cask engine { g with slots := kput g.slots slot { r with acks := r.acks + 1 } })
    | _, _ => .next s
  | none => .next s

/-! ## Re-arming (R141, R142) -/

/-- SHADOW_WRITE (R142): it does not issue while the shadow is valid. In the fc in which the engine applies the shadow,
the earlier contents are applied and the write lands after them. A valid shadow at a wrap with nothing remaining is
applied at once (R141). -/
def execShadowWrite (tile cask engine : Nat) (desc : Bytes) (sameFc : Bool) (s : State) : Host.Outcome State Fault Refusal :=
  match s.streamAt tile cask engine with
  | some g =>
    let g := if sameFc then g.rearm else g
    if s.classRuns tile cask 0x70 0x7F ∧ sdValid g.shadow = false then
      .next (s.setStream tile cask engine (Stream.rearm { g with shadow := sdSetValid (payload64 desc) true }))
    else .next s
  | none => .next s

end Sys2Proof.Machine
end

