-- ==== Sys2Proof/Machine/TallyUnit.lean ====
section
/-! DEFINITION. Tally units and tally ports: requests, grants, replays, re-sending. -/

namespace Sys2Proof.Machine

/-- The request flit of a tally port (R148). The spec names neither the exit side nor the class of a tally request: it leaves by
the north exit of the tile's own column, in class 0 (log 27). -/
def tallyFlit (t : Nat) (r : TallyReq) : Flit :=
  mkFlit t (exitTile t 1) 1 0 r.cask 4 0 r.seq true (le 2 (r.counter % 4096) ++ le 2 r.epoch ++ le 2 r.count)

/-- TALLY_REQUEST_ISSUE (R150): at most one request is outstanding; it is numbered from the sequence of the counter's die. -/
def execTallyRequestIssue (tile counter count : Nat) (s : State) : Host.Outcome State Fault Refusal :=
  let x := s.tile tile
  let die := counter / 1024 % 4
  if s.classRuns tile x.running 0x70 0x7F ∧ x.tallyReq = none ∧ 1 ≤ count ∧ count ≤ 256 then
    let r : TallyReq := ⟨x.running, x.tallySeq.getD die 0, counter, (kget x.epochs counter).getD 0, count⟩
    .next ((s.modTile tile fun x => { x with tallyReq := some r, tallySeq := modAt x.tallySeq die fun n => (n + 1) % 256 }).inject tile
      [tallyFlit tile r])
  else .next s

/-- TALLY_RESEND_TIMER (R150): the identical request again. -/
def execTallyResendTimer (tile : Nat) (s : State) : Host.Outcome State Fault Refusal :=
  match (s.tile tile).tallyReq with
  | some r => .next (s.inject tile [tallyFlit tile r])
  | none => .next s

/-- A counter that is not allotted has nothing to grant. -/
def Counter.absent : Counter where
  value := 0
  base := 0
  limit := 0
  epoch := 0

/-- The grant of a request that is neither a replay nor a duplicate, and the counter after it (R151). -/
def Counter.serve (k : Counter) (epoch count : Nat) : Grant × Counter :=
  if epoch ≠ k.epoch then (⟨3, k.epoch, 0xFFFFFFFF, 0⟩, k)
  else if k.limit ≤ k.value then (⟨2, epoch, 0xFFFFFFFF, 0⟩, k)
  else
    let got := min count (k.limit - k.value)
    (⟨if got = count then 0 else 1, epoch, k.value, got⟩, { k with value := k.value + got })

/-- The payload of a grant (Table 5.10). -/
def Grant.bytes (g : Grant) : Bytes := pack 16 [(0, 0, 3, g.status), (2, 0, 16, g.epoch), (4, 0, 32, g.first), (8, 0, 9, g.got)]

/-- Service of one request: a replay, a late copy, or a new one (R151). -/
def Tally.request (y : Tally) (t seq counter epoch count : Nat) : Grant × Tally :=
  let key := 4096 * (counter / 1024) + t
  let fresh := fun (_ : Unit) =>
    let r := ((kget y.counters counter).getD Counter.absent).serve epoch count
    (r.1, ({ y with
      counters := if (kget y.counters counter).isSome then kput y.counters counter r.2 else y.counters
      recs := kput y.recs key (seq, r.1) } : Tally))
  match kget y.recs key with
  | some (last, g) =>
    if seq = last then (g, y)
    else if seq ≠ (last + 1) % 256 then (⟨4, g.epoch, 0xFFFFFFFF, 0⟩, y)
    else fresh ()
  | none => fresh ()

/-- The payload of a tally request (R148). -/
def tallyPayload (counter epoch count : Nat) : Bytes := payload64 (le 2 (counter % 4096) ++ le 2 epoch ++ le 2 count)

/-- The flit of a grant: the `SEQ` of its request, back to the tile by the attach link the request left by (R79, R148). -/
def grantFlit (t cask seq : Nat) (g : Grant) : Flit := mkFlit (exitTile t 1) t 0 0 cask 5 0 seq true g.bytes

/-- TALLY_REQUEST (R151): the request flit that has reached the rim is served, and its grant goes back. -/
def execTallyRequest (tile seq counter epoch count : Nat) (s : State) : Host.Outcome State Fault Refusal :=
  let k := fun (f : Flit) => f.kind == 4 && f.seq == seq && f.payload == tallyPayload counter epoch count
  match s.atRim tile 1 k with
  | some b =>
    let r := s.tally.request tile seq counter epoch count
    .next ((State.takeRim { s with tally := r.2 } tile 1 k).rimSend tile 1 (grantFlit tile b.flit.cask seq r.1))
  | none => .next s

/-- The work that a grant gives: `GRANT` and `PARTIAL` alone (R152). -/
def Grant.work (g : Grant) : Option (Nat × Nat) := if g.status ≤ 1 then some (g.first, g.got) else none

/-- TALLY_GRANT (R150): a grant flit delivered to the tile: that whose `SEQ` is the outstanding request's is accepted, every
other discarded. -/
def execTallyGrant (tile seq : Nat) (grant : Grant) (s : State) : Host.Outcome State Fault Refusal :=
  let k := fun (f : Flit) => f.kind == 5 && f.seq == seq && f.payload == payload64 grant.bytes
  if (s.delivered tile k).isSome then
    let s := s.takeKind tile k
    match (s.tile tile).tallyReq with
    | some r =>
      if r.seq = seq then .next (s.modTile tile fun x => { x with tallyReq := none, work := grant.work }) else .next s
    | none => .next s
  else .next s

/-- Re-arm counters: the value returns to `BASE`, the epoch rises (R149). -/
def Tally.rearm (y : Tally) (cs : List CounterUse) : Tally :=
  { y with counters := cs.foldl (fun m c => kmod m c.phys fun k => { k with value := k.base, epoch := (k.epoch + 1) % 65536 }) y.counters }

end Sys2Proof.Machine
end

