-- ==== Sys2Proof/Machine/Loader.lean ====
section
/-! DEFINITION. Partitions: CUVEE_LOAD, CUVEE_SWAP, CUVEE_UNLOAD, CASK_LOAD, CASK_EVICT and the other commands of Table 11.8, and the completion of loads. -/

namespace Sys2Proof.Machine

/-! ## Refusals of the loader (R162, R317) -/

/-- `RESULT` of a refusal by a loader check; where no section or entry is concerned the spec gives no value, so it is free
(log 5). -/
def flawResult (f : Flaw) (free : Nat) : Bytes :=
  pack 16 [(0, 0, 8, f.check), (2, 0, 16, f.sect.getD free), (4, 0, 32, f.entry.getD free), (8, 0, 11, f.tile.getD 0x7FF)]

/-- A load refused by a check of Table 5.14. -/
def refuseLoad (c : Cmd) (f : Flaw) (s : State) : State := complete c f.status 0xFFFFFFFF (flawResult f s.freshNat) s.used

/-! ## Allotting (R147, R159) -/

/-- `n` numbers below `bound` that `used` does not hold, any of them (log 5). -/
def State.chooseList (s : State) (bound : Nat) (used : List Nat) : Nat → List Nat × State
  | 0 => ([], s)
  | n + 1 =>
    let k := s.chooseFree bound used
    let r := s.used.chooseList bound (used ++ [k]) n
    (k :: r.1, r.2)

/-- A physical counter on the die that each declaration names. -/
def State.allotCounters (s : State) (used : List Nat) : List (At CtrDecl) → Nat → List CounterUse × State
  | [], _ => ([], s)
  | d :: ds, i =>
    let k := s.chooseFree 1024 ((used.filter fun p => p / 1024 == d.val.die).map fun p => p % 1024)
    let phys := 1024 * d.val.die + k
    let r := s.used.allotCounters (used ++ [phys]) ds (i + 1)
    (⟨phys, i, d.val.arm, d.val.base, d.val.limit⟩ :: r.1, r.2)

/-- Slots as a cuvée's images leave them while they are written. -/
def loadSlots (v : Cuvee) : List Slot :=
  (List.range 4).map fun c => { Slot.fresh with st := if v.imgs.any fun x => x.val.slot == c then .loading else .empty }

/-- A partition just created (R329, R340). -/
def newPartition (v : Cuvee) (slot col0 : Nat) (ctrs : List CounterUse) (share pins : List Nat) (job : LoadJob) : Partition where
  st := .loading
  col0 := col0
  cols := v.cols
  slot := slot
  graph := v.graphId
  seed := v.seed
  slots := loadSlots v
  sched := parseSched v.schedAt.2
  step := 0
  rounds := 0
  roundInStep := 0
  heldClock := false
  lead := false
  stepEnds := []
  trapMask := 0
  trapHold := false
  cacheUnits := 0
  nar := [0, 0, 0]
  scaleClamp := 0
  missed := 0
  capture := none
  idled := none
  lastTrap := none
  lastGraph := none
  lastMem := none
  faulted := false
  counters := ctrs
  share := share
  man := v.man
  shapes := v.shapes.map At.val
  cands := v.cands.map At.val
  preloads := v.preloads.map fun p => (p.val.tidx, p.val.cask, p.val.queue, p.val.k)
  plans := v.movement
  cur := none
  formed := none
  tilerDone := false
  stepn := 0
  afterDecode := true
  rebuild := false
  txn := none
  commit := none
  job := some job
  caskJob := none
  pins := pins

/-- The journal entry of a load about to write (R393). -/
def State.addJournal (s : State) (j : Journal) : State := { s with life := { s.life with journal := s.life.journal ++ [j] } }

/-! ## Backing what a partition needs (R213, R465) -/

/-- Units that a cuvée needs: its tensors' homes, the pool, the list area, the step area. -/
def Cuvee.needs (v : Cuvee) : List Nat :=
  ((v.tensors.flatMap fun t => t.val.units) ++ unitsOf v.man.pool (v.man.poolPages * v.man.pageU * unitBytes)
    ++ unitsOf v.man.lista (v.entries * listBlockBytes v.man.ctxMax) ++ unitsOf v.man.stepa 0x4000000).dedup

/-- Back the units not yet backed, as `MEM_MAP` with `TIER` 00 does, those of `cellar` in the cellar with `NOPROMO`; none
where a unit has no frame or lies outside unit space. -/
def State.backAll (s : State) (cellar : List Nat) : List Nat → Option State
  | [] => some s
  | u :: us =>
    if (s.mem.entry u).isSome then s.backAll cellar us
    else
      let t := if cellar.contains u then 1 else 0
      if unitSpace ≤ u ∨ leafMax < s.leavesWith [u] ∨ (s.mem.tierWithRoom t).isNone = true then none
      else (s.mapUnit t (cellar.contains u) u).backAll cellar us

/-- Units of a list that nothing backs. -/
def State.unbacked (s : State) (us : List Nat) : List Nat := us.filter fun u => (s.mem.entry u).isNone

/-- Back at acceptance what the load needs (R159): the units backed, or none of them where the frames lack, which the load
proper then finds (log 28). -/
def State.reserveUnits (s : State) (v : Cuvee) (left : List Nat) : List Nat × State :=
  match s.backAll (v.cellarUnits left) v.needs with
  | some t => (s.unbacked v.needs, t)
  | none => ([], s)

/-! ## CUVEE_LOAD (R158, R329) -/

/-- The checks have passed: the partition is created `LOADING`, with what they allot reserved. -/
def beginLoad (c : Cmd) (v : Cuvee) (image slot col0 : Nat) (s : State) : State :=
  let left := v.left s none
  let a := s.allotCounters (s.heldCounters none) v.ctrs 0
  let b := a.2.chooseList 8192 (s.heldShare none) v.entries
  let r := b.2.reserveUnits v left
  let job : LoadJob := ⟨c.running s, image, 0, false, false, false, true, true, none, r.1, left, (v.cellarUnits left).length⟩
  let t := r.2.setPart c.target (newPartition v slot col0 a.1 b.1 (v.pinSet left) job)
  (t.addJournal ⟨c.target, slot, 0x0201, image⟩).keepRunning c

/-- `CUVEE_LOAD` after the common checks. -/
def doCuveeLoad (c : Cmd) (s : State) : State :=
  let image := fld c.desc 16 0 48
  let slot := fld c.desc 24 0 6
  let col0 := fld c.desc 25 0 6
  match s.readCuvee image with
  | (.failed, t) => refuse c stLoadFailed t
  | (.flawed f, t) => refuseLoad c f t
  | (.ok v, t) =>
    match v.checks t none col0 slot with
    | some f => refuseLoad c f t
    | none => beginLoad c v image slot col0 t

/-- CUVEE_LOAD (R158). -/
def execCuveeLoad (c : Cmd) (s : State) : Host.Outcome State Fault Refusal := .next (runCmd 0x0201 c doCuveeLoad s)

/-! ## CUVEE_SWAP and CUVEE_UNLOAD (R234, R235, R329) -/

/-- Whether `KVKEEP` is refused (R234, step 1). -/
def geometryDiffers (v : Cuvee) (p : Partition) : Bool :=
  let m := v.man
  let o := p.man
  decide (m.kvgeo ≠ o.kvgeo ∨ m.role ≠ o.role ∨ m.pageU ≠ o.pageU ∨ m.poolPages ≠ o.poolPages ∨ m.ctxMax ≠ o.ctxMax ∨ m.tmax ≠ o.tmax
    ∨ v.entries ≠ p.share.length ∨ m.pool ≠ o.pool ∨ m.lista ≠ o.lista ∨ m.stepa ≠ o.stepa)

/-- A drain begins (R234, step 2). -/
def State.beginDrain (s : State) (c : Cmd) (job : LoadJob) : State :=
  (s.modPart c.target fun p => { p with st := .swapping, job := some job }).keepRunning c

/-- The checks have passed: what they allot is reserved, and the drain begins. -/
def beginSwap (c : Cmd) (v : Cuvee) (p : Partition) (s : State) : State :=
  let keep := fld c.desc 26 0 1 == 1
  let left := v.left s (some c.target)
  let a := s.allotCounters (s.heldCounters (some c.target)) v.ctrs 0
  let b := a.2.chooseList 8192 (s.heldShare none) (if keep then 0 else v.entries - p.share.length)
  let r := b.2.reserveUnits v left
  let res : Reserve := ⟨v.cols, a.1, b.1, v.man.poolPages, v.pinSet left, (v.imgs.map fun x => x.val.slot).dedup⟩
  r.2.beginDrain c ⟨c.running s, fld c.desc 16 0 48, fld c.desc 24 0 16, keep, false, true, false, false, some res, r.1, left, (v.cellarUnits left).length⟩

/-- `CUVEE_SWAP` after the common checks. After a graph fault only a partition reset helps (R322; log 29). -/
def doCuveeSwap (c : Cmd) (s : State) : State :=
  match s.part c.target with
  | none => refuse c stTarget s
  | some p =>
    if p.faulted then refuse c stPartFaulted s
    else match s.readCuvee (fld c.desc 16 0 48) with
      | (.failed, t) => refuse c stLoadFailed t
      | (.flawed f, t) => refuseLoad c f t
      | (.ok v, t) =>
        match v.checks t (some c.target) p.col0 p.slot with
        | some f => refuseLoad c f t
        | none => if fld c.desc 26 0 1 = 1 ∧ geometryDiffers v p = true then refuse c stGeometry t else beginSwap c v p t

/-- CUVEE_SWAP (R234). -/
def execCuveeSwap (c : Cmd) (s : State) : Host.Outcome State Fault Refusal := .next (runCmd 0x0202 c doCuveeSwap s)

/-- `CUVEE_UNLOAD` after the common checks. -/
def doCuveeUnload (c : Cmd) (s : State) : State :=
  match s.part c.target with
  | none => refuse c stTarget s
  | some p =>
    if p.faulted then refuse c stPartFaulted s
    else s.beginDrain c ⟨c.running s, 0, fld c.desc 24 0 16, false, true, false, false, false, none, [], [], 0⟩

/-- CUVEE_UNLOAD (R329). -/
def execCuveeUnload (c : Cmd) (s : State) : Host.Outcome State Fault Refusal := .next (runCmd 0x0203 c doCuveeUnload s)

/-- The slots once their casks are emptied: those that a swap's load step writes are `LOADING`, the others `EMPTY` (Table 4.2). -/
def LoadJob.nextSlots (j : LoadJob) : List Slot :=
  let names := fun (c : Nat) => match j.res with | some r => r.slots.contains c | none => false
  (List.range 4).map fun c => { Slot.fresh with st := if names c then CaskState.loading else .empty }

/-- The casks of a drained partition are emptied (R234, step 5). An unload then ends its entries and releases the
partition (R227, R329); a swap waits for its load. -/
def State.emptyCasks (s : State) (pn : Nat) : State :=
  match s.part pn with
  | some p =>
    match p.job with
    | some j =>
      let s := s.modTiles p.tiles fun _ t => t.release
      let s := (s.modPart pn fun p => { p with slots := j.nextSlots }).dropPins pn
      if j.unload then (s.releasePart pn svReset).finishRun j.cmd stOk []
      else (s.modPart pn fun p => { p with job := some { j with emptied := true } }).addJournal ⟨pn, p.slot, 0x0202, j.image⟩
    | none => s
  | none => s

/-! ## LOAD_COMPLETION: steps 3 to 8 of R158 -/

/-- The physical counters in the parameter entries of an image that name a declaration (R147). -/
def imgCounters (ctrs : List CounterUse) (b : Bytes) : Bytes :=
  (List.range (imgParams b)).foldl (fun b i =>
    match (Config.counterNamed (imgParam b i)).bind fun d => ctrs.find? fun c => c.decl == d with
    | some c => if fld (imgParam b i) 15 0 8 = 0xA0 then b else putParam b i ((Config.withCounter (imgParam b i) c.phys ++ List.replicate 16 0).take 16)
    | none => b) b

/-- A cask store's words of a slot are written whole (R98). -/
def Tile.mendSlot (x : Tile) (slot off n : Nat) : Tile := x.mend 2 (49152 * slot + off) n

/-- Step 3: an image in a tile's cask store. -/
def State.placeImage (s : State) (col0 : Nat) (ctrs : List CounterUse) (x : Img) : State :=
  s.modTile (32 * col0 + x.tidx) fun t =>
    (t.setCask x.slot (CaskCtx.fresh (imgCounters ctrs x.bytes))).mendSlot x.slot 0 x.bytes.length

/-- A unit of a layer left in the cellar: decanted there where a frame is free, `NOPROMO` set (Table 6.8). -/
def State.toCellar (s : State) (u : Nat) : State :=
  let s := s.settle u
  match s.mem.entry u with
  | some e =>
    let t := if e.tier ≠ 1 ∧ 0 < s.mem.freeFrames 1 ∧ e.pin = false ∧ e.dfail = false then s.relocate u 1 else s
    match t.mem.entry u with
    | some e => { t with mem := t.mem.setEntry u { e with nopromo := true } }
    | none => t
  | none => s

/-- Bytes go from one device address to another: whether every line took part. -/
def State.copyBytes (s : State) (src dst n : Nat) : Bool × State :=
  let r := s.readBytes .firmware src n
  match r.1 with
  | some b => r.2.writeBytes .firmware dst b
  | none => (false, r.2)

/-- Step 4: a tensor's codes go from the image to its home, then its scale plane, which follows at the next multiple of 256 in
either (R133). -/
def State.copyTensor (s : State) (image : Nat) (t : Tensor) : Bool × State :=
  let r := s.copyBytes (image + t.data) t.daddr t.codes
  if r.1 then r.2.copyBytes (image + up256 (t.data + t.codes)) (t.daddr + up256 t.codes) t.scales else r

/-- The tensors in order: whether all were written, and the state they leave. -/
def State.copyTensors (s : State) (image : Nat) : List Tensor → Bool × State
  | [] => (true, s)
  | t :: ts =>
    let r := s.copyTensor image t
    if r.1 then r.2.copyTensors image ts else r

/-- Step 6: the tokens of a preload stand in their queue, numbered from 0; the producer's edge has as many credits less and
numbers on from there (R158, R161). -/
def State.placePreload (s : State) (col0 : Nat) (x : Preload) : State :=
  let t := 32 * col0 + x.tidx
  match s.queueAt t x.cask x.queue with
  | some (q, e) =>
    let n := (s.tile t).arrivals
    let s := s.setQueue t x.cask x.queue { q with seqs := (List.range x.k).map fun j => (j % 256, qeLines e, n + j) }
    let s := s.modTile t fun y => { y with arrivals := n + x.k }
    let s := x.tokens.zipIdx.foldl (fun s b => s.modTile t fun y => y.wsWrite (slotAddr e b.2) b.1) s
    s.modCask (qePtile e) (qePcask e) fun k => { k with edges := kmod k.edges (qePedge e) fun d => { d with credits := d.credits - x.k, seq := x.k % 256 } }
  | none => s

/-- Step 7: a counter at `BASE`, epoch 0, and the tiles' copies of its epoch. -/
def State.armCounter (s : State) (p : Partition) (c : CounterUse) : State :=
  let s := { s with tally := { s.tally with counters := kput s.tally.counters c.phys ⟨c.base, c.base, c.limit, 0⟩ } }
  s.modTiles p.tiles fun _ t => { t with epochs := kdel t.epochs c.phys }

/-- Slots as a completed load leaves them: those the schedule names `ACTIVE`, other images `READY`, drained (Table 4.2). -/
def loadedSlots (v : Cuvee) (sched : List FoldStep) : List Slot :=
  (List.range 4).map fun c =>
    if v.imgs.any fun x => x.val.slot == c then
      ⟨if sched.any fun k => k.cask == c then .active else .ready, true, true, none⟩
    else Slot.fresh

/-- A load or the load step of a swap failed after writing began: the partition is left `EMPTY`, everything released
(R158, R227, R234). -/
def State.loadFailed (s : State) (pn : Nat) (j : LoadJob) : State := (s.releasePart pn svReset).finishRun j.cmd stLoadFailed []

/-- Request-table share after a swap without `KVKEEP`: the entries in use first, then what was held and reserved (log 29). -/
def State.newShare (s : State) (pn : Nat) (p : Partition) (j : LoadJob) (entries : Nat) : List Nat :=
  let live := (s.entriesOf pn).map Prod.fst
  let more := match j.res with | some r => r.share | none => []
  (live ++ p.share ++ more).dedup.take (max entries live.length)

/-- The partition as the new cuvée of a swap makes it, before its load step. -/
def State.adopt (s : State) (pn : Nat) (p : Partition) (v : Cuvee) (j : LoadJob) : State :=
  match j.res with
  | some r =>
    let s := { s with tally := { s.tally with counters := p.counters.foldl (fun (m : KMap Counter) (c : CounterUse) => kdel m c.phys) s.tally.counters } }
    s.setPart pn { p with
      cols := v.cols, graph := v.graphId, seed := v.seed, sched := parseSched v.schedAt.2, counters := r.counters, man := v.man
      share := if j.kvkeep then p.share else s.newShare pn p j v.entries
      shapes := v.shapes.map At.val, cands := v.cands.map At.val
      preloads := v.preloads.map fun (x : At Preload) => (x.val.tidx, x.val.cask, x.val.queue, x.val.k)
      plans := v.movement
      pins := r.pins, step := 0, roundInStep := 0, lead := false, stepEnds := [], cur := none, formed := none, tilerDone := false }
  | none => s

/-- After a swap with `KVKEEP` 1 the entries it paused resume; with 0 every paused entry ends `SWAPPED` and the pool is rebuilt.
`ADMITTED` entries become candidates again, and one with nothing to compute goes on (R234, R235). -/
def State.afterSwap (s : State) (pn : Nat) (p : Partition) (keep : Bool) : State :=
  let es := (s.entriesOf pn).filter fun e => e.2.st == .paused
  let s :=
    if keep then (es.filter fun e => e.2.swapPaused).foldl (fun s e => (s.modReq e.1 fun r => { r with resreq := true }).resumeReq e.1) s
    else
      let s := (es.foldl (fun s e => s.endReq e.1 svSwapped) s).rebuildPool pn p.slot
      (s.entriesOf pn).foldl (fun s e => s.probeAgain e.1) s
  (s.entriesOf pn).foldl (fun s e => s.skipPrefill e.1 p.man.role) s

/-! ### Rotation buffers (R145) -/

/-- A block of a rotation enters `HOLD` of the tile at a place of the ring; whether its lines could be read. The tile's own read
stream brings it, in the same row (log 37). -/
def State.fillRing (s : State) (col0 n : Nat) (p : Plan) (i tidx : Nat) : Bool × State :=
  let t := 32 * col0 + tidx
  let r := s.readBytes .firmware (p.home + i * p.buf) (min p.buf (p.size - i * p.buf))
  match r.1, (List.range 4).findSome? fun c => s.image t c with
  | some b, some img =>
    (true, r.2.modTile t fun x => (x.wsWrite (s.planBase t n img) b).setRing n ⟨false, true, none⟩)
  | some _, none => (true, r.2)
  | none, _ => (false, r.2)

/-- The rotations of a partition whose blocks are loaded now take them: at load those of `RELOAD` 0, at each serving step the
others. The flag tells whether every line could be read. -/
def State.fillRings (s : State) (pn : Nat) (reload : Bool) : Bool × State :=
  match s.part pn with
  | some q =>
    q.plans.zipIdx.foldl (fun r p =>
      if p.1.move = 1 ∧ p.1.reload = reload then
        p.1.tiles.zipIdx.foldl (fun (r : Bool × State) t => if r.1 then r.2.fillRing q.col0 p.2 p.1 t.2 t.1 else r) r
      else r) (true, s)
  | none => (true, s)

/-- Steps 5 to 8: seeds, credits and preloads, counters, then the partition runs from step 0 of a new round. -/
def State.finishLoad (s : State) (pn : Nat) (p : Partition) (v : Cuvee) (j : LoadJob) : State :=
  let s := s.modTiles p.tiles fun t x => { x with gen := genSeed v.seed t, running := (p.sched.headD ⟨0, 0, 0⟩).cask, idle := false, switchTo := none }
  let s := (v.preloads.map At.val).foldl (fun s x => s.placePreload p.col0 x) s
  let s := p.counters.foldl (fun s c => s.armCounter p c) s
  let s := s.modPart pn fun p => { p with st := .running, job := none, idled := none, slots := loadedSlots v p.sched }
  let s := if j.swap then s.afterSwap pn p j.kvkeep else s
  (s.clearJournal pn).finishRun j.cmd stOk (pack 16 [(0, 0, 16, j.layers.length), (4, 0, 32, j.cellarUnits)])

/-- Steps 3 to 8 of R158 for a cuvée read again from its image; a failing line or a lack of frames fails the load. -/
def State.writeLoad (s : State) (pn : Nat) (v : Cuvee) (j : LoadJob) : State :=
  match s.part pn with
  | none => s
  | some p0 =>
    let s := s.adopt pn p0 v j
    match s.part pn with
    | none => s
    | some p =>
      let s := (v.imgs.map At.val).foldl (fun s x => s.placeImage p.col0 p.counters x) s
      let cellar := v.cellarUnits j.layers
      match s.backAll cellar v.needs with
      | none => s.loadFailed pn j
      | some t =>
        let t := t.modPart pn fun p => { p with job := some { j with backed := (j.backed ++ s.unbacked v.needs).dedup } }
        let t := cellar.foldl State.toCellar t
        let w := t.copyTensors j.image (v.tensors.map At.val)
        if w.1 then
          match (p.pins.foldl State.refreshPin w.2).allNear p.pins with
          | some u =>
            let r := u.fillRings pn false
            if r.1 then r.2.finishLoad pn p v j else r.2.loadFailed pn j
          | none => w.2.loadFailed pn j
        else w.2.loadFailed pn j

/-! ## CASK_LOAD and CASK_EVICT (R121, R329, R464) -/

/-- Orders 1 and 2 of Table 4.10. -/
def slotBusy (x : Slot) : Option Nat :=
  match x.st with
  | .loading | .active | .closed => some stCaskInUse
  | .ready => if x.drained then none else some stCaskNotDrained
  | .empty => none

/-- Images resident in a partition's slots, but those of one slot. -/
def State.resident (s : State) (p : Partition) (skip : Option Nat) : List (At Img) :=
  p.tiles.zipIdx.flatMap fun t => (List.range 4).filterMap fun c =>
    if some c = skip ∨ (p.slotAt c).st = .empty ∨ (p.slotAt c).st = .loading then none
    else (s.image t.1 c).map fun b => ⟨0, 0, ⟨t.2, c, b⟩⟩

/-- Orders 3 to 7 of Table 4.10 on a section of `n` bytes: its status, or the images. -/
def State.sectionImages (s : State) (p : Partition) (slot len : Nat) (body : Bytes) : Nat ⊕ List Img :=
  let n := 32 * p.cols
  if len < 16 * n then .inl stCaskImage
  else if (indexFault body len n p.cols).isSome || (List.range n).any fun i => fld (slice body (16 * i) 16) 0 11 2 != slot then .inl stCaskImage
  else
    let l := parseImages 0 body n
    match imagesFault (s.resident p (some slot) ++ l) with
    | some r => .inl r.2
    | none => .inr (l.map At.val)

/-- The slot begins to load: its old image goes, every tile awaits its lines (Table 4.2, R98, R123). -/
def beginCaskLoad (c : Cmd) (p : Partition) (slot : Nat) (l : List Img) (s : State) : State :=
  let sect := fld c.desc 16 0 48
  let s := s.modTiles p.tiles fun _ t => (t.dropCask slot).setCask slot (CaskCtx.fresh [])
  let s := s.modPart c.target fun p => { p.modSlot slot fun _ => { Slot.fresh with st := .loading } with
    caskJob := some ⟨c.running s, slot, sect, l.foldl (fun (m : KMap (Nat × Nat)) x => kput m x.tidx (0, imgLines x.bytes)) []⟩ }
  (s.addJournal ⟨c.target, slot, 0x0204, sect⟩).keepRunning c

/-- `CASK_LOAD` after the common checks. -/
def doCaskLoad (c : Cmd) (s : State) : State :=
  match s.part c.target with
  | none => refuse c stTarget s
  | some p =>
    let slot := fld c.desc 28 0 2
    match slotBusy (p.slotAt slot) with
    | some st => refuse c st s
    | none =>
      let r := s.readBytes .firmware (fld c.desc 16 0 48) (fld c.desc 24 0 32)
      match r.1 with
      | none => refuse c stLoadFailed r.2
      | some body =>
        match r.2.sectionImages p slot (fld c.desc 24 0 32) body with
        | .inl st => refuse c st r.2
        | .inr l => beginCaskLoad c p slot l r.2

/-- CASK_LOAD (R329). -/
def execCaskLoad (c : Cmd) (s : State) : Host.Outcome State Fault Refusal := .next (runCmd 0x0204 c doCaskLoad s)

/-- Line `n` of an image takes 64 bytes. -/
def putLine (b : Bytes) (n : Nat) (d : Bytes) : Bytes := (b ++ List.replicate (64 * n - b.length) 0).take (64 * n) ++ d ++ b.drop (64 * n + 64)

/-- A line of a cask load is written; the last of a tile makes its context, the last of all makes the slot `READY`. -/
def State.writeLine (s : State) (pn : Nat) (p : Partition) (j : CaskJob) (tidx line : Nat) (data : Bytes) : State :=
  match kget j.lines tidx with
  | some (nx, n) =>
    if nx = line ∧ line < n then
      let t := 32 * p.col0 + tidx
      let s := (s.modCask t j.slot fun k =>
        let b := putLine k.image line (payload64 data)
        if line + 1 = n then CaskCtx.fresh b else { k with image := b }).modTile t fun x => x.mendSlot j.slot (64 * line) 64
      let ls := kput j.lines tidx (line + 1, n)
      if ls.all fun x => x.2.1 == x.2.2 then
        let s := s.modPart pn fun p => { p.modSlot j.slot fun _ => ⟨.ready, true, false, none⟩ with caskJob := none }
        (s.clearJournal pn).finishRun j.cmd stOk []
      else s.modPart pn fun p => { p with caskJob := some { j with lines := ls } }
    else s
  | none => s

/-- A cask load fails after writing began: the slot is `EMPTY` on every tile (R98, Table 4.2). -/
def State.caskFailed (s : State) (pn : Nat) (j : CaskJob) : State :=
  let s := (s.emptySlot pn j.slot).modPart pn fun p => { p with caskJob := none }
  (s.clearJournal pn).finishRun j.cmd stLoadFailed []

/-- LOAD_COMPLETION (R158): the writing of a load, or of the load step of a swap, ends; `ok` is false where a line written
was uncorrectable or a source could not be read, which fails a cask load in progress too (R97, Table 4.2). -/
def execLoadCompletion (part : Nat) (ok : Bool) (s : State) : Host.Outcome State Fault Refusal :=
  match s.part part with
  | some p =>
    match p.job, p.caskJob with
    | some j, _ =>
      if s.running && j.emptied && !j.unload then
        if ok then
          match s.readCuvee j.image with
          | (.ok v, t) => .next (t.writeLoad part v j).settlePeers
          | (_, t) => .next (t.loadFailed part j)
        else .next (s.loadFailed part j)
      else .next s
    | none, some j => if s.running && !ok then .next (s.caskFailed part j) else .next s
    | none, none => .next s
  | none => .next s

/-- CASK_IMAGE_LINE_WRITE (R98): the tile checks the line's code; an uncorrectable line fails the whole load. -/
def execCaskImageLineWrite (part slot tileIndex line : Nat) (data : Bytes) (found : Ecc) (s : State) : Host.Outcome State Fault Refusal :=
  let bad := match found with | .uncorrectable _ => true | _ => false
  match s.part part with
  | some p =>
    match p.caskJob, p.job with
    | some j, _ =>
      if j.slot = slot ∧ (kget j.lines tileIndex).isSome = true then
        if bad then .next (s.caskFailed part j) else .next (s.writeLine part p j tileIndex line data)
      else .next s
    | none, some j =>
      if j.emptied && !j.unload && bad then .next (s.loadFailed part j) else .next s
    | none, none => .next s
  | none => .next s

/-- `CASK_EVICT` after the common checks. -/
def doCaskEvict (c : Cmd) (s : State) : State :=
  match s.part c.target with
  | none => refuse c stTarget s
  | some p =>
    let slot := fld c.desc 28 0 2
    match slotBusy (p.slotAt slot) with
    | some st => refuse c st s
    | none => done c [] (if (p.slotAt slot).st = .empty then s else s.emptySlot c.target slot)

/-- CASK_EVICT (R329). -/
def execCaskEvict (c : Cmd) (s : State) : Host.Outcome State Fault Refusal := .next (runCmd 0x0205 c doCaskEvict s)

/-! ## PART_RESET, PART_QUERY, PART_INSPECT (R321, R328, R330) -/

/-- `PART_RESET` after the common checks; with the partition gone a device-wide commit may find its point (R341). -/
def doPartReset (c : Cmd) (s : State) : State := (done c [] (s.resetPart c.target)).settleDevice none

/-- PART_RESET (R321). -/
def execPartReset (c : Cmd) (s : State) : Host.Outcome State Fault Refusal := .next (runCmd 0x0206 c doPartReset s)

/-- Codes of Table 11.5. -/
def PartState.code : PartState → Nat
  | .loading => 1
  | .running => 2
  | .stopped => 3
  | .swapping => 4

/-- Codes of Table 4.1. -/
def CaskState.code : CaskState → Nat
  | .empty => 0
  | .loading => 1
  | .ready => 2
  | .active => 3
  | .closed => 4

/-- `RESULT` of `PART_QUERY`. -/
def partReport (p : Partition) : Bytes :=
  pack 16 [(0, 0, 3, p.st.code), (1, 0, 6, p.col0), (2, 0, 7, p.cols), (3, 0, 6, p.slot), (4, 0, 3, (p.slotAt 0).st.code), (4, 3, 3, (p.slotAt 1).st.code),
    (4, 6, 3, (p.slotAt 2).st.code), (4, 9, 3, (p.slotAt 3).st.code), (6, 0, 16, match p.txn with | some t => t.txid | none => 0), (8, 0, 32, p.rounds)]

/-- `PART_QUERY` after the common checks. -/
def doPartQuery (c : Cmd) (s : State) : State :=
  match s.part c.target with
  | some p => done c (partReport p) s
  | none => refuse c stTarget s

/-- PART_QUERY (R328). -/
def execPartQuery (c : Cmd) (s : State) : Host.Outcome State Fault Refusal := .next (runCmd 0x0209 c doPartQuery s)

/-- The 48 bits of an accumulator: NaR is the most negative code (R41). -/
def accBits (a : Acc) : Nat := match a with | .nar => 2 ^ 47 | .val v => toTwos 48 v

/-- A micro-tile's 192 bytes: its 32 accumulators in order (log 29). -/
def vatBytes (x : Tile) (mt : Nat) : Bytes := (List.range 32).flatMap fun i => le 6 (accBits (x.acc mt i))

/-- A stream pointer entry (Table 11.8a). -/
def streamEntry (x : Tile) (c e : Nat) : Bytes :=
  match (x.cask c).bind fun k => kget k.streams e with
  | some g => pack 16 [(0, 0, 4, g.issue), (0, 4, 1, b2n g.iwrap), (1, 0, 4, g.head), (1, 4, 1, b2n g.hwrap), (2, 0, 1, b2n (sdValid g.shadow)), (4, 0, 32, g.remain)]
  | none => List.replicate 16 0

/-- A last record, zeros where there is none (Table 11.8b). -/
def lastRecord (r : Option Bytes) : Bytes := r.getD (List.replicate 32 0)

/-- Bytes `[off, off + n)` of what `PART_INSPECT` reads, and its size (R330). -/
def inspectBytes (x : Tile) (p : Partition) (what c off n : Nat) : Bytes :=
  match what with
  | 0 => mread x.ws off (min n (1048576 - off))
  | 1 => slice ((List.range ((off % 192 + n + 191) / 192)).flatMap fun i => if off / 192 + i < 1024 then vatBytes x (off / 192 + i) else []) (off % 192) n
  | 2 => slice (match x.cask c with | some k => (k.image ++ List.replicate (49152 - k.image.length) 0).take 49152 | none => List.replicate 49152 0) off n
  | 3 => slice ((List.range 4).flatMap fun e => (List.range 4).flatMap fun c => streamEntry x c e) off n
  | _ => slice (lastRecord p.lastTrap ++ lastRecord p.lastGraph ++ lastRecord p.lastMem) off n

/-- `PART_INSPECT` after the common checks. -/
def doPartInspect (c : Cmd) (s : State) : State :=
  match s.part c.target with
  | none => refuse c stTarget s
  | some p =>
    if p.st ≠ .stopped then refuse c stNotStopped s
    else
      let what := fld c.desc 16 0 3
      let off := fld c.desc 20 0 20
      let x := s.tile (fld c.desc 18 0 11)
      let b := inspectBytes x p what (fld c.desc 17 0 2) off (fld c.desc 24 0 32)
      let at_ := if what = 2 then 49152 * fld c.desc 17 0 2 + off else off
      let bad := if what ≤ 2 then (x.badIn [(what, at_, b.length)]).length else 0
      doneBuffer c b (pack 16 [(0, 0, 32, b.length), (4, 0, 32, bad)]) s

/-- PART_INSPECT (R330). -/
def execPartInspect (c : Cmd) (s : State) : Host.Outcome State Fault Refusal := .next (runCmd 0x0208 c doPartInspect s)

end Sys2Proof.Machine
end

