-- ==== Sys2Proof/Machine/Commit.lean ====
section
/-! DEFINITION. Configuration transactions: CFG_BEGIN, CFG_SET, CFG_COMMIT, CFG_ABORT, CFG_READ, the deadline and the automatic abort (R338 to R343). -/

namespace Sys2Proof.Machine

def stCfgNotOpen : Nat := 0x0300
def stCfgOpen : Nat := 0x0301
def stCfgMany : Nat := 0x0302
def stCfgKey : Nat := 0x0303
def stCfgValue : Nat := 0x0304
def stCfgApplied : Nat := 0x0307

/-! ## Targets -/

/-- The open transaction of a target: a partition, or 255 the device (R338). -/
def State.txnOf (s : State) (target : Nat) : Option Txn :=
  if target = 255 then s.cfg.txn else (s.part target).bind Partition.txn

/-- Store a target's transaction. -/
def State.setTxn (s : State) (target : Nat) (t : Option Txn) : State :=
  if target = 255 then { s with cfg := { s.cfg with txn := t } } else s.modPart target fun p => { p with txn := t }

/-- The commit pending on a target. -/
def State.commitOf (s : State) (target : Nat) : Option Commit :=
  if target = 255 then s.cfg.commit else (s.part target).bind Partition.commit

/-! ## CFG_BEGIN, CFG_SET (R339) -/

/-- `CFG_BEGIN` after the common checks; `TXID` is any number but 0 (log 5). A vintage that firmware commits is a device-wide
transaction of its own (R371). -/
def doCfgBegin (c : Cmd) (s : State) : State :=
  if (s.txnOf c.target).isSome || (c.target == 255 && s.cfg.autoVintage) then refuse c stCfgOpen s
  else
    let id := s.freshNat % 65535 + 1
    done c (le 2 id) (s.used.setTxn c.target (some ⟨id, [], 0⟩))

/-- CFG_BEGIN (R339). -/
def execCfgBegin (c : Cmd) (s : State) : Host.Outcome State Fault Refusal := .next (runCmd 0x0301 c doCfgBegin s)

/-- Keys of Table 11.14, and whether their scope is the device. -/
def keyScope (key : Nat) : Option Bool :=
  if [0x0001, 0x0002, 0x0003, 0x0004].contains key then some false
  else if [0x0010, 0x0011, 0x0012, 0x0013, 0x0014, 0x0015, 0x0020, 0x0030].contains key then some true
  else none

/-- A value's length and its own range (Table 11.14); the ranges of a schedule are checked at commit (R122). -/
def valueOk (key : Nat) (v : Bytes) : Bool :=
  let n := ofLe v
  match key with
  | 0x0001 =>
    let k := fld v 0 0 3
    if 2 ≤ k ∧ k ≤ 4 then v.length == 8 + 8 * k && schedReserved v
    else (v.length == 24 || v.length == 32 || v.length == 40) && reservedZero (slice v 0 8) [(0, 0, 3)]
  | 0x0002 => v.length == 1 && decide (n ≤ 7)
  | 0x0003 => v.length == 1 && decide (n ≤ 1)
  | 0x0004 => v.length == 4 && decide (n ≤ 4194304) && n % 8 == 0
  | 0x0010 => v.length == 4 && decide (n ≤ 1048576)
  | 0x0011 => v.length == 4 && decide (n ≤ 2097152)
  | 0x0012 => v.length == 4 && decide (n ≤ 4194304)
  | 0x0013 => v.length == 4 && decide (n ≤ 8388608)
  | 0x0014 => v.length == 1 && decide (n ≤ 7)
  | 0x0015 => v.length == 1 && decide (1 ≤ n ∧ n ≤ 168)
  | 0x0020 => v.length == 4 && decide (100 ≤ n ∧ n ≤ 50000) && n % 10 == 0
  | _ => v.length == 4

/-- Settings that a transaction takes (R339). -/
def txnMax : Nat := 256

/-- A setting put into a transaction; one of the same key is replaced. -/
def Txn.put (t : Txn) (key : Nat) (v : Bytes) : Txn :=
  { t with sets := (t.sets.filter fun x => x.1 != key) ++ [(key, v)], count := t.count + 1 }

/-- `CFG_SET` after the common checks. -/
def doCfgSet (c : Cmd) (s : State) : State :=
  let key := fld c.desc 18 0 16
  let v := slice c.desc 24 (fld c.desc 20 0 8)
  match (s.txnOf c.target).filter fun t => t.txid == fld c.desc 16 0 16 with
  | none => refuse c stCfgNotOpen s
  | some t =>
    if (s.commitOf c.target).isSome then refuse c stBusy s
    else if txnMax ≤ t.count then refuse c stCfgMany s
    else if keyScope key ≠ some (c.target == 255) then refuse c stCfgKey s
    else if !(valueOk key v) then refuse c stCfgValue s
    else done c [] (s.setTxn c.target (some (t.put key v)))

/-- CFG_SET (R339). -/
def execCfgSet (c : Cmd) (s : State) : Host.Outcome State Fault Refusal := .next (runCmd 0x0302 c doCfgSet s)

/-! ## CFG_COMMIT (R122, R292, R342) -/

/-- The graph that a schedule would make active: images of the casks it names, with the preloads that still count (R292). -/
def State.graphWith (s : State) (p : Partition) (l : List FoldStep) : Graph :=
  let imgs := s.resident p none
  let counts := fun (x : Nat × Nat × Nat × Nat) =>
    (p.slotAt x.2.1).fromCuvee && (match imgs.find? fun i => i.val.tidx == x.1 && i.val.slot == x.2.1 with
      | some i => (p.slotAt (qePcask (imgQueue i.val.bytes x.2.2.1))).fromCuvee
      | none => false)
  { cols := p.cols
    col0 := p.col0
    imgs := imgs.filter fun i => l.any fun k => k.cask == i.val.slot
    sched := l
    cands := p.cands.map fun x => ⟨0, 0, x⟩
    shapes := p.shapes.map fun x => ⟨0, 0, x⟩
    plans := p.plans.map fun x => ⟨0, 0, x⟩
    preloads := (p.preloads.filter counts).map fun x => ⟨0, 0, ⟨x.1, x.2.1, x.2.2.1, x.2.2.2, []⟩⟩ }

/-- Whether two schedules name different casks. -/
def namesDiffer (a b : List FoldStep) : Bool := (List.range 4).any fun c => (a.any fun k => k.cask == c) != (b.any fun k => k.cask == c)

/-- The checks of R122 on a schedule, then those of R292 where it makes a different set of images active; check 12 holds as
it did at the load, since counters belong to no cask. -/
def State.schedCheck (s : State) (p : Partition) (l : List FoldStep) : Option Nat :=
  let g := s.graphWith p l
  if !g.schedOk then some (checkStatus 13)
  else if namesDiffer l p.sched then
    (firstFlaw [g.check5, g.check6, g.check10, g.check11, g.check13 false none, g.check16, g.check17, g.check18]).map Flaw.status
  else none

/-- The marks that a device-wide commit would leave are in order (R342, step 1). -/
def Cfg.marksOk (c : Cfg) (t : Txn) : Bool :=
  let d := t.sets.foldl Cfg.applySet c
  decide (d.nearLow ≤ d.nearHigh ∧ d.celLow ≤ d.celHigh)

/-- The checks on receipt of a commit: the status of the first that fails. -/
def State.commitCheck (s : State) (target : Nat) (t : Txn) : Option Nat :=
  if target = 255 then
    if !(s.cfg.marksOk t) then some stCfgValue else if s.vintageUnknown t then some stVintage else none
  else match s.part target, t.sched with
    | some p, some l => s.schedCheck p l
    | _, _ => none

/-- A commit whose settings all need nothing (Table 11.14). -/
def Txn.needsNothing (t : Txn) : Bool := t.sets.all fun x => keyScope x.1 == some true && x.1 != 0x0030

/-- A commit that needs nothing applies at once. -/
def State.applyNow (s : State) (target : Nat) (t : Txn) : State :=
  State.setTxn (if target = 255 then s.applyDeviceTxn t else s.noteApplied target t.txid) target none

/-- The commit is pending; a device-wide one may find its point at once (R341). -/
def beginCommit (c : Cmd) (t : Txn) (s : State) : State :=
  let k : Commit := ⟨c.running s, t.txid, fld c.desc 18 0 1 == 1, s.clk.tick + ticksPerUs * fld c.desc 20 0 32, [], 0⟩
  let s := s.keepRunning c
  if c.target = 255 then State.settleDevice { s with cfg := { s.cfg with commit := some k } } none
  else s.modPart c.target fun p => { p with commit := some k }

/-- `CFG_COMMIT` after the common checks. -/
def doCfgCommit (c : Cmd) (s : State) : State :=
  match (s.txnOf c.target).filter fun t => t.txid == fld c.desc 16 0 16 with
  | none => refuse c stCfgNotOpen s
  | some t =>
    if (s.commitOf c.target).isSome then refuse c stBusy s
    else match s.commitCheck c.target t with
      | some st => refuse c st s
      | none => if t.needsNothing then done c (le 4 0) (s.applyNow c.target t) else beginCommit c t s

/-- CFG_COMMIT (R342). -/
def execCfgCommit (c : Cmd) (s : State) : Host.Outcome State Fault Refusal := .next (runCmd 0x0303 c doCfgCommit s)

/-- CFG_COMMIT_DEADLINE (R342, step 6): the transaction stays open with its settings. -/
def execCfgCommitDeadline (target : Nat) (s : State) : Host.Outcome State Fault Refusal :=
  if target = 255 then
    if s.cfg.waits then .next (s.failDeviceCommit stAborted true) else .next s
  else .next (s.endPartCommit target stAborted true)

/-! ## CFG_ABORT, CFG_READ, the automatic abort -/

/-- `CFG_ABORT` after the common checks (Table 11.15). -/
def doCfgAbort (c : Cmd) (s : State) : State :=
  let id := fld c.desc 16 0 16
  if ((s.txnOf c.target).filter fun t => t.txid == id).isSome then
    let t := if (s.commitOf c.target).isNone then s
      else if c.target = 255 then s.failDeviceCommit stCfgAborted false else s.endPartCommit c.target stCfgAborted false
    done c [] (t.setTxn c.target none)
  else if kget s.cfg.applied c.target = some id then refuse c stCfgApplied s
  else refuse c stCfgNotOpen s

/-- CFG_ABORT (R343). -/
def execCfgAbort (c : Cmd) (s : State) : Host.Outcome State Fault Refusal := .next (runCmd 0x0304 c doCfgAbort s)

/-- The current value of a setting (Table 11.14). -/
def State.setting (s : State) (target key : Nat) : Bytes :=
  match s.part target with
  | some p =>
    match key with
    | 0x0001 => schedBytes p.sched
    | 0x0002 => le 1 p.trapMask
    | 0x0003 => le 1 (b2n p.trapHold)
    | _ => le 4 p.cacheUnits
  | none =>
    match key with
    | 0x0010 => le 4 s.cfg.nearLow
    | 0x0011 => le 4 s.cfg.nearHigh
    | 0x0012 => le 4 s.cfg.celLow
    | 0x0013 => le 4 s.cfg.celHigh
    | 0x0014 => le 1 s.cfg.promote
    | 0x0015 => le 1 s.cfg.scrubHours
    | 0x0020 => le 4 s.cfg.timeoutUs
    | _ => le 4 s.mtz.current.epoch

/-- `CFG_READ` after the common checks; a buffer too short for the value is refused as check 3 of R318 has it (R319). -/
def doCfgRead (c : Cmd) (s : State) : State :=
  let key := fld c.desc 16 0 16
  let n := fld c.desc 20 0 32
  if keyScope key ≠ some (c.target == 255) then refuse c stCfgKey s
  else
    let v := s.setting c.target key
    if n = 0 then done c v s
    else if n < v.length then refuse c stParam s
    else doneBuffer c v v s

/-- CFG_READ (R338). -/
def execCfgRead (c : Cmd) (s : State) : Host.Outcome State Fault Refusal := .next (runCmd 0x0305 c doCfgRead s)

/-- CFG_AUTO_ABORT (R339): a transaction idle for 60 s with no commit pending. -/
def execCfgAutoAbort (target : Nat) (s : State) : Host.Outcome State Fault Refusal :=
  match s.txnOf target, s.commitOf target with
  | some t, none =>
    .next ((s.setTxn target none).report 0x000F (pack 32 [(0, 0, 8, 0), (1, 0, 8, target), (2, 0, 16, t.txid)]) 0x000F [])
  | _, _ => .next s

end Sys2Proof.Machine
end

