-- ==== Sys2Proof/Machine/Fabric.lean ====
section
/-! DEFINITION. Dvoriq's commands: requests and responses, barriers, ports and charters, cables, and the fabric commands of Table 11.10. -/

namespace Sys2Proof.Machine

/-! ## Requests of this chip and of its peers -/

/-- Whether a request is where the rim can take it up: a stream engine's flits stand at its attach link, and the engine holds
the space for the answer, the line of its ring slot that it awaits under the `SEQ` (R79, R258, R259). -/
def State.fabricAsked (s : State) (r : FabReq) : Bool :=
  match r.user with
  | .stream t c e seq exit =>
    s.asked t exit (fabricFlit c e seq) r.cls (2 ^ 48 * r.node + r.addr) (if r.ptype = 0x02 then some (payload64 r.data) else none)
      && (match ((s.tile t).cask c).bind fun k => kget k.streams e with | some g => g.waits.any fun w => w.1 == seq | none => false)
      && decide (r.granules ≤ 1)
  | .serving _ | .shard _ _ | .firmware | .barrier _ => true

/-- The request is taken, its flits holding their buffers while it waits at the rim (R258). -/
def State.takeFabric (s : State) (r : FabReq) : State :=
  match r.user with
  | .stream t cask engine seq exit => s.holdRim t exit (fabricFlit cask engine seq)
  | .serving _ | .shard _ _ | .firmware | .barrier _ => s

/-- FABRIC_REQUEST (R258). -/
def execFabricRequest (r : FabReq) (s : State) : Host.Outcome State Fault Refusal :=
  if s.running && s.fabricAsked r then .next (((s.takeFabric r).fabRequest r).settleFrom s.fab.done.length) else .next s

/-- A request row: a packet of that type that waits in an ingress buffer leaves it and is performed (R245, R261). -/
def requestRow (ptype : Nat) (p : Packet) (s : State) : State :=
  if s.running && p.ptype == ptype && s.inIngress p then (s.leaveIngress p).serveRequest p else s

/-- RD (R252 to R254). -/
def execRd (p : Packet) (s : State) : Host.Outcome State Fault Refusal := .next (requestRow 0x01 p s)

/-- WR (R252, R253). -/
def execWr (p : Packet) (s : State) : Host.Outcome State Fault Refusal := .next (requestRow 0x02 p s)

/-- ADD32 (R255). -/
def execAdd32 (p : Packet) (s : State) : Host.Outcome State Fault Refusal := .next (requestRow 0x03 p s)

/-- ADD64 (R255). -/
def execAdd64 (p : Packet) (s : State) : Host.Outcome State Fault Refusal := .next (requestRow 0x04 p s)

/-- FADD32 (R255). -/
def execFadd32 (p : Packet) (s : State) : Host.Outcome State Fault Refusal := .next (requestRow 0x05 p s)

/-- FADD64 (R255). -/
def execFadd64 (p : Packet) (s : State) : Host.Outcome State Fault Refusal := .next (requestRow 0x06 p s)

/-- BAR_ARRIVE (R269). -/
def execBarArrive (p : Packet) (s : State) : Host.Outcome State Fault Refusal := .next (requestRow 0x09 p s)

/-- BAR_RELEASE (R269). -/
def execBarRelease (p : Packet) (s : State) : Host.Outcome State Fault Refusal := .next (requestRow 0x0A p s).arriveRetry

/-- A response row (R260): it completes or advances its transaction; one that answers none is counted against its port.
A serving-engine transaction that ends in an error ends or moves its handoff (R230, R231). -/
def responseRow (ptype port : Nat) (p : Packet) (s : State) : State :=
  if p.ptype = ptype ∧ s.inIngress p = true then
    let s := s.leaveIngress p
    match (s.txOf p.tag).filter fun t => t.node == p.src && answersType t.ptype p.ptype with
    | some t => (s.takeResponse t p).afterTx.settleFrom s.fab.done.length
    | none => s.countDiscard port
  else s

/-- RDDATA (R254). -/
def execRddata (port : Nat) (p : Packet) (s : State) : Host.Outcome State Fault Refusal := .next (responseRow 0x11 port p s)

/-- ACK (R260). -/
def execAck (port : Nat) (p : Packet) (s : State) : Host.Outcome State Fault Refusal := .next (responseRow 0x12 port p s)

/-- ATDATA (R255). -/
def execAtdata (port : Nat) (p : Packet) (s : State) : Host.Outcome State Fault Refusal := .next (responseRow 0x13 port p s)

/-- SEREPLY (R250). -/
def execSereply (port : Nat) (p : Packet) (s : State) : Host.Outcome State Fault Refusal := .next (responseRow 0x15 port p s)

/-- ERR (R254). -/
def execErr (port : Nat) (p : Packet) (s : State) : Host.Outcome State Fault Refusal := .next (responseRow 0x16 port p s)

/-- Ticks of `n` fabric timeouts (R284). -/
def State.timeouts (s : State) (n : Nat) : Nat := n * s.cfg.timeoutUs * ticksPerUs

/-- A transaction times out: its tag is withheld for four timeouts (R260, R285). -/
def timeOut (t : FabTx) (s : State) : State :=
  let u := s.closeTx t fsTimeout []
  let u := { u with fab := { u.fab with withheld := u.fab.withheld ++ [(t.tag, u.clk.tick + u.timeouts 4, t.cls)] } }
  u.afterTx.settleFrom s.fab.done.length

/-- FABRIC_TIMEOUT (R285): a transaction over a port ends; one served by the chip's own rim never times out. -/
def execFabricTimeout (tag : Nat) (s : State) : Host.Outcome State Fault Refusal :=
  match (s.txOf tag).filter fun t => t.at_.isSome with
  | some t => .next (timeOut t s)
  | none => .next s

/-- TAG_WITHHOLD_EXPIRY (R260). -/
def execTagWithholdExpiry (tag : Nat) (s : State) : Host.Outcome State Fault Refusal :=
  .next ({ s with fab := { s.fab with withheld := s.fab.withheld.filter fun e => e.1 != tag } }.afterTx.settleFrom s.fab.done.length)

/-- PORT_HOLD_END (R281): no transaction to the next hop is outstanding any more, so the held requests go on. -/
def execPortHoldEnd (hop : Nat) (s : State) : Host.Outcome State Fault Refusal :=
  match kget s.fab.holds hop with
  | some l =>
    if s.fab.txs.any fun t => t.hop == hop then .next s
    else .next ((l.foldl State.fabTakeUp { s with fab := { s.fab with holds := kdel s.fab.holds hop } }).rimRetry.settleFrom s.fab.done.length)
  | none => .next s

/-- GENERATION_HOLD_EXPIRY (R282): the requests to the hop that have waited longest end with `STALE_GENERATION`. -/
def execGenerationHoldExpiry (hop : Nat) (s : State) : Host.Outcome State Fault Refusal :=
  let mine := fun (e : Nat × FabReq) => s.hopTo e.2.node == some hop
  match s.fab.genHeld.find? mine with
  | some f =>
    let due := fun (e : Nat × FabReq) => mine e && decide (e.1 ≤ f.1)
    .next (((s.fab.genHeld.filter due).foldl (fun (s : State) e => s.endLocal e.2 fsStale)
      { s with fab := { s.fab with genHeld := s.fab.genHeld.filter fun e => !due e } }).rimRetry.settleFrom s.fab.done.length)
  | none => .next s

/-! ## Barriers (R286, R287) -/

/-- BARRIER_KEEPALIVE (R286): without an answer the rim sends `BAR_ARRIVE` again with a new tag; an answer decides the
pending arrival by Table 9.6. -/
def execBarrierKeepalive (home id : Nat) (answer : Option Nat) (s : State) : Host.Outcome State Fault Refusal :=
  match s.fab.arrivals.find? fun a => a.home == home && a.id == id && a.acked with
  | some a =>
    match answer with
    | none => .next (s.fabRequest ⟨.barrier id, 0x09, a.cls, a.home, barAddr id a.round, 0, []⟩)
    | some st =>
      let mine := fun (t : FabTx) => t.user == FabUser.barrier id && t.ptype == 0x09 && t.node == home
      let late := if st = fsTimeout then (s.fab.txs.filter mine).map fun t => (t.tag, s.clk.tick + s.timeouts 4, t.cls) else []
      let s := { s with fab := { s.fab with txs := s.fab.txs.filter fun t => !mine t, withheld := s.fab.withheld ++ late } }
      .next ((if st = fsOk then s else s.arrivalAnswer a st).afterTx.settleFrom s.fab.done.length)
  | none => .next s

/-- The home makes a barrier unconfigured: its ID is not reusable for three timeouts (R288). -/
def State.unsetBarrier (s : State) (id : Nat) : State :=
  { s with fab := { s.fab with barriers := kdel s.fab.barriers id, barrierFree := kput s.fab.barrierFree id (s.clk.tick + s.timeouts 3) } }

/-- BARRIER_ROUND_LIMIT (R287). -/
def execBarrierRoundLimit (id : Nat) (s : State) : Host.Outcome State Fault Refusal :=
  match (kget s.fab.barriers id).filter fun b => !b.list.isEmpty with
  | some b => .next ((s.unsetBarrier id).report 0x000A (packArgs 32 [(2, id), (2, b.round), (4, b.list.length)]) 0x000A [])
  | none => .next s

/-! ## Links (R261 to R264, R283) -/

/-- A credit returned to a port. -/
def Port.credit (p : Port) (c : Nat × Bool) : Port :=
  if c.2 then { p with reserved := modAt p.reserved c.1 fun n => min 8 (n + 1) } else { p with shared := modAt p.shared c.1 fun n => min 96 (n + 1) }

/-- The far end has received every sequence below one: those packets need not be kept. -/
def Port.acked (p : Port) (ack : Nat) : Port :=
  { p with replay := p.replay.filter fun e => decide (ack ≤ e.seq), replaying := p.replaying.filter fun e => decide (ack ≤ e.1) }

/-- What a trailer or idle word tells a port: credits and the acknowledged sequence (R247, R261). -/
def Port.told (p : Port) (t : Trailer) : Port := (t.credits.foldl Port.credit p).acked t.ack

/-- The trailer with which a port sends a packet, or its idle word (R247, R261, R264). -/
def Port.trailer (q : Port) (seq : Nat) (reserved : Bool) (p : Option Packet) : Trailer :=
  let t : Trailer := ⟨seq, q.rxSeq, q.owed, q.askReplay, reserved, 0⟩
  { t with crc := t.check p }

/-- A packet or an idle word goes onto the wire of a port. What it returns and asks for is no longer owed. -/
def State.onWire (s : State) (k : Nat) (p : Option Packet) (t : Trailer) : State :=
  State.modPort { s with out := { s.out with dvq := s.out.dvq ++ [(k, p, t)] } } k fun q => { q with owed := [], askReplay := none }

/-- Link virtual channel of a type: bit 4 tells responses, the reserved ones among them (R250, log 13). -/
def vcOf (ptype : Nat) : Nat := if ptype / 16 % 2 = 1 then 1 else 0

/-- The next sequence expected once a run of already accepted ones is passed. -/
def passAhead (l : List Nat) : Nat → Nat → Nat
  | 0, n => n
  | k + 1, n => if l.contains n then passAhead l k (n + 1) else n

/-- A packet accepted by the link waits in the ingress buffer, in the buffer of the credit it took, unless it is addressed to
another node, of a reserved type, or a message with a `LEN` out of range (R245, R250, R251, R261). -/
def State.acceptPacket (s : State) (k : Nat) (res : Bool) (p : Packet) : State :=
  let vc := vcOf p.ptype
  if p.dst ≠ s.nodeId ∨ (vc = 1 ∧ isResponse p.ptype = false) then
    (s.modPort k fun q => { q with owed := q.owed ++ [(vc, res)] }).countDiscard k
  else if (isRequest p.ptype = false ∧ isResponse p.ptype = false) ∨ (p.ptype = 0x08 ∧ (p.len = 0 ∨ 4 < p.len)) then
    (s.modPort k fun q => { q with owed := q.owed ++ [(vc, res)] }).respondErr p (if s.staleRequest p then fsStale else fsType)
  else s.modPort k fun q => { q with ingress := q.ingress ++ [(p, res)] }

/-- Ticks of 60 s. -/
def ticksPerMinute : Nat := 6000000000

/-- Replay of a packet is exhausted: the port goes `DOWN`, or `FAILED` the second time within 60 s (R283). -/
def replayExhausted (port : Nat) (s : State) : State :=
  let again := match (s.port port).exhaustedAt with | some t => decide (s.clk.tick ≤ t + ticksPerMinute) | none => false
  let s := s.portDown port
  let s := s.modPort port fun p => { p with
    exhausts := satAdd 32 p.exhausts 1, exhaustedAt := some s.clk.tick, st := if again then .failed else p.st }
  ((s.portMoved port).settleFrom s.fab.done.length).report 0x0009 (packArgs 32 [(1, 1), (1, port)]) 0x0009 []

/-- The packets from one on are sent again in order; each may be sent again eight times (R264, R283). -/
def State.replayFrom (s : State) (port seq : Nat) : State :=
  let q := s.port port
  let l := q.replay.filter fun e => decide (seq ≤ e.seq)
  let n := fun (e : OnLink) => (kget q.replaying e.seq).getD 0 + 1
  if q.replay.all fun e => e.seq != seq then s
  else if l.any fun e => decide (8 < n e) then replayExhausted port s
  else s.modPort port fun q => { q with resend := l, replaying := l.foldl (fun m e => kput m e.seq (n e)) q.replaying }

/-- DVQ_REPLAY_REQUEST (R264, R283). -/
def execDvqReplayRequest (port seq : Nat) (s : State) : Host.Outcome State Fault Refusal :=
  if (s.port port).st = .opened then .next (s.replayFrom port seq) else .next s

/-- A replay asked for by a trailer or an idle word. -/
def State.replayAsked (s : State) (port : Nat) (t : Trailer) : State :=
  match t.replay with
  | some seq => s.replayFrom port seq
  | none => s

/-- The receiver discards from a sequence on, on one channel, and asks for a replay (R264). -/
def Port.discardFrom (q : Port) (vc : Nat) : Port :=
  { q with discarding := if q.discarding.contains vc then q.discarding else q.discarding ++ [vc], askReplay := some q.rxSeq }

/-- DVQ_PACKET_RECEIVE (R264): a wrong CRC or a sequence out of order discards the packet and those after it on its
channel and asks for a replay; a sequence accepted before is discarded. -/
def execDvqPacketReceive (port : Nat) (t : Trailer) (p : Packet) (s : State) : Host.Outcome State Fault Refusal :=
  let q := s.port port
  let vc := vcOf p.ptype
  if q.st ≠ .opened then .next s
  else if t.crc ≠ t.check (some p) then .next (s.modPort port fun q => q.discardFrom vc)
  else
    let u := (s.modPort port fun q => q.told t).replayAsked port t
    if t.seq < q.rxSeq ∨ q.ahead.contains t.seq then .next u
    else if t.seq = q.rxSeq then
      .next ((u.modPort port fun q => { q with
        rxSeq := passAhead q.ahead q.ahead.length (q.rxSeq + 1)
        ahead := q.ahead.filter fun n => decide (passAhead q.ahead q.ahead.length (q.rxSeq + 1) ≤ n)
        discarding := [] }).acceptPacket port t.reserved p)
    else if q.discarding.isEmpty ∨ q.discarding.contains vc then .next (u.modPort port fun q => q.discardFrom vc)
    else .next ((u.modPort port fun q => { q with ahead := q.ahead ++ [t.seq] }).acceptPacket port t.reserved p)

/-- Whether a port holds a credit for a packet (R261). -/
def Port.hasCredit (q : Port) (p : Packet) : Bool :=
  decide (0 < q.shared.getD (vcOf p.ptype) 0) || (decide (p.cls < 2) && decide (0 < q.reserved.getD (vcOf p.ptype) 0))

/-- Spend a credit: a shared one while there is any. -/
def Port.spend (q : Port) (p : Packet) : Port :=
  if 0 < q.shared.getD (vcOf p.ptype) 0 then { q with shared := modAt q.shared (vcOf p.ptype) fun n => n - 1 }
  else { q with reserved := modAt q.reserved (vcOf p.ptype) fun n => n - 1 }

/-- The rank of a packet at an egress: class, responses first, time of arrival (R262). -/
def egressKey (e : Queued) : Nat := e.pkt.cls * 2 ^ 65 + (1 - vcOf e.pkt.ptype) * 2 ^ 64 + e.order

/-- Whether a packet takes a reserved credit: no shared one is left (R261). -/
def Port.takesReserved (q : Port) (p : Packet) : Bool := q.shared.getD (vcOf p.ptype) 0 == 0

/-- EGRESS_PACKET_SEND (R262): the next packet goes onto the wire with its trailer; where no packet can go and credits are owed
or a replay is to be asked for, an idle word does (R261, R264; log 13). -/
def execEgressPacketSend (port : Nat) (s : State) : Host.Outcome State Fault Refusal :=
  let q := s.port port
  if q.st ≠ .opened then .next s
  else match q.resend with
    | w :: rest => .next ((s.modPort port fun q => { q with resend := rest }).onWire port (some w.pkt) (q.trailer w.seq w.reserved (some w.pkt)))
    | [] =>
      match sortBy egressKey (q.egress.filter fun e => q.hasCredit e.pkt) with
      | e :: _ => .next ((s.modPort port fun q => { (q.spend e.pkt) with
          egress := q.egress.filter fun x => x != e
          replay := (q.replay ++ [(⟨q.txSeq, e.pkt, q.takesReserved e.pkt⟩ : OnLink)]).drop (q.replay.length + 1 - 256)
          txSeq := q.txSeq + 1 }).onWire port (some e.pkt) (q.trailer q.txSeq (q.takesReserved e.pkt) (some e.pkt)))
      | [] =>
        if q.owed.isEmpty ∧ q.askReplay = none then .next s
        else .next (s.onWire port none (q.trailer q.txSeq false none))

/-- IDLE_WORD_RECEIVE (R261). -/
def execIdleWordReceive (port : Nat) (t : Trailer) (s : State) : Host.Outcome State Fault Refusal :=
  if (s.port port).st = .opened then .next ((s.modPort port fun q => q.told t).replayAsked port t) else .next s

/-! ## Training (R277, R278) -/

/-- LOSS_OF_SIGNAL (R277). -/
def execLossOfSignal (port : Nat) (s : State) : Host.Outcome State Fault Refusal :=
  let st := (s.port port).st
  if st = .opened ∨ st = .quarantined ∨ st = .charter then .next (((s.portDown port).portMoved port).settleFrom s.fab.done.length) else .next s

/-- TRAINING_RETRY_TIMER (R277). -/
def execTrainingRetryTimer (port : Nat) (s : State) : Host.Outcome State Fault Refusal :=
  if (s.port port).st = .down ∧ (s.port port).hot = false then .next (s.modPort port fun p => { p with st := .training }) else .next s

/-- TRAINING_NO_SIGNAL (R277): the attempt fails and neither counts nor breaks a run. -/
def execTrainingNoSignal (port : Nat) (s : State) : Host.Outcome State Fault Refusal :=
  if (s.port port).st = .training then .next (s.modPort port fun p => { p with st := .down }) else .next s

/-- An attempt with signal failed: the 16th in a row makes the port `FAILED` (R277). -/
def attemptFailed (port : Nat) (s : State) : State :=
  s.modPort port fun p => { p with
    fails := p.fails + 1, failedTrainings := satAdd 32 p.failedTrainings 1, st := if 16 ≤ p.fails + 1 then .failed else .down }

/-- TRAINING_TIMEOUT (R277). -/
def execTrainingTimeout (port : Nat) (s : State) : Host.Outcome State Fault Refusal :=
  if (s.port port).st = .training then .next (attemptFailed port s) else .next s

/-- A link just trained: sequences, credits and buffers start afresh (log 13). -/
def Port.fresh (p : Port) : Port :=
  { p with
    fails := 0, egress := [], resend := [], replay := [], txSeq := 0, rxSeq := 0, replaying := [], ahead := [], askReplay := none,
    discarding := [], shared := [96, 96], reserved := [8, 8], ingress := [], owed := [] }

/-- TRAINING_COMPLETE (R236, R278, R289): all four lanes, and a retimer that adapted, or the attempt has failed. -/
def execTrainingComplete (port lanes : Nat) (equal : Bytes) (adapted : Bool) (s : State) : Host.Outcome State Fault Refusal :=
  if (s.port port).st = .training then
    if lanes = 4 ∧ adapted = true then .next ((s.modPort port fun p => { p.fresh with equal := equal }).sendCharter port)
    else .next (attemptFailed port s)
  else .next s

/-! ## Charters (R278 to R280) -/

/-- CHARTER_RECEIVE (R279, R280): the charter is checked and the verdict sent; a quarantined port exchanges again, and so
does an `OPEN` one whose far end has begun (R275). -/
def execCharterReceive (port : Nat) (charter : Bytes) (s : State) : Host.Outcome State Fault Refusal :=
  let st := (s.port port).st
  if st = .charter ∨ st = .quarantined ∨ st = .opened then
    let s := if st = .opened then s.recharter port else s
    let cause := s.charterCheck port charter
    let t := s.modPort port fun p => { p with
      got := charter, mine := some (cause == 0), cause := cause
      far := if st = .quarantined then none else p.far
      sent := if st = .quarantined then s.charter port else p.sent }
    .next (((t.judge port).portMoved port).settleFrom s.fab.done.length)
  else .next s

/-- CHARTER_VERDICT (R279). -/
def execCharterVerdict (port : Nat) (accept : Bool) (s : State) : Host.Outcome State Fault Refusal :=
  let st := (s.port port).st
  if st = .charter ∨ st = .quarantined then .next ((s.modPort port fun p => { p with far := some accept }).judge port |>.settleFrom s.fab.done.length) else .next s

/-! ## Cables and retimers (R289) -/

/-- Whether a port's module answers on its bus. -/
def Port.managed (p : Port) : Bool := p.module.isSome && !p.silent

/-- A port is taken down for its cable, with one record. -/
def cableDown (port : Nat) (hot : Bool) (s : State) : State :=
  let s := (s.modPort port fun p => { p with hot := p.hot || hot })
  (((s.portDown port).portMoved port).settleFrom s.fab.done.length).stage 0x0009 (packArgs 32 [(1, 3), (1, port)])

/-- CABLE_TEMPERATURE_POLL (R289): one notice for each rise above the warning threshold (log 13). -/
def execCableTemperaturePoll (port : Nat) (warning alarm temp : Int) (s : State) : Host.Outcome State Fault Refusal :=
  let p := s.port port
  if p.managed then
    let s := s.modPort port fun p => { p with warm := decide (warning < temp) }
    let s := if warning < temp ∧ p.warm = false then s.notice 0x000C 0xFFFFFFFF [] else s
    if alarm < temp ∧ p.hot = false ∧ p.st ≠ .idle ∧ p.st ≠ .failed then .next (cableDown port true s) else .next s
  else .next s

/-- CABLE_COOLDOWN_EXPIRY (R289). -/
def execCableCooldownExpiry (port : Nat) (s : State) : Host.Outcome State Fault Refusal :=
  if (s.port port).hot then
    .next (s.modPort port fun p => { p with hot := false, st := if p.st = .down then .training else p.st })
  else .next s

/-- RETIMER_LOCK_POLL (R289). -/
def execRetimerLockPoll (port : Nat) (locked : Bool) (s : State) : Host.Outcome State Fault Refusal :=
  if locked = false ∧ (s.port port).managed ∧ (s.port port).st = .opened then .next (cableDown port false s) else .next s

/-- CABLE_HOT_JOIN_OR_LOSS (R289): a record for each module found or lost, with its inventory. -/
def execCableHotJoinOrLoss (port : Nat) (inventory : Option Bytes) (s : State) : Host.Outcome State Fault Refusal :=
  match inventory, (s.port port).module with
  | some b, _ => .next ((s.modPort port fun p => { p with module := some b }).stageGroup [(0x000C, false, packArgs 32 [(1, 0), (1, port)]), (0x000C, true, b)])
  | none, some old => .next ((s.modPort port fun p => { p with module := none }).stageGroup [(0x000C, false, packArgs 32 [(1, 1), (1, port)]), (0x000C, true, old)])
  | none, none => .next s

/-- Ports of a sideband bus. -/
def busPorts (bus : Nat) : List Nat := (List.range 6).map fun i => 6 * bus + i

/-- CABLE_BUS_SILENT (R289): reported once; the ports keep running and their temperature protection is lost. -/
def execCableBusSilent (bus : Nat) (s : State) : Host.Outcome State Fault Refusal :=
  if (busPorts bus).all fun k => (s.port k).silent then .next s
  else .next (((busPorts bus).foldl (fun s k => s.modPort k fun p => { p with silent := true }) s).report 0x000C (packArgs 32 [(1, 2), (1, bus)]) 0x000C [])

/-! ## The fabric commands (Table 11.10, R333, R334) -/

def stFabricPart : Nat := 0x0400
def stFabricOff : Nat := 0x0401
def stNodeInvalid : Nat := 0x0402
def stNodeFixed : Nat := 0x0403
def stBarrierBusy : Nat := 0x0404

/-- The fabric-off strap (R238). -/
def State.fabricOff (s : State) : Bool := s.life.straps.plan == 3

/-- y and z set: the ports that the plan uses leave `IDLE` and train (R243, R277). -/
def State.startPorts (s : State) (y z : Nat) : State :=
  let s := { s with fab := { s.fab with yz := some (y, z) } }
  match s.plan with
  | some r => (List.range (portHops r s.life.straps.slotId).length).foldl (fun s k =>
      if (s.port k).st = .idle then s.modPort k fun p => { p with st := .training } else s) s
  | none => s

/-- `FABRIC_SET` after the common checks. -/
def doFabricSet (c : Cmd) (s : State) : State :=
  let y := fld c.desc 16 0 6
  let z := fld c.desc 17 0 6
  if s.fabricOff then refuse c stFabricOff s
  else if s.plan.isSome ∧ s.nslot ≤ s.life.straps.slotId then refuse c stNodeInvalid s
  else match s.fab.yz with
    | some o => if o = (y, z) then done c (le 2 s.nodeId) s else refuse c stNodeFixed s
    | none => let t := s.startPorts y z; done c (le 2 t.nodeId) t

/-- FABRIC_SET (R243). -/
def execFabricSet (c : Cmd) (s : State) : Host.Outcome State Fault Refusal := .next (runCmd 0x0501 c doFabricSet s)

/-- The fields of Table 9.1. -/
def partFields : List (Nat × Nat × Nat) := [(0, 0, 16), (2, 0, 8), (4, 0, 6), (5, 0, 6), (6, 0, 6), (7, 0, 6), (8, 0, 7), (9, 0, 7)]

/-- Whether a fabric partition record is one the chip may hold (R272, R273). -/
def State.partRecordOk (s : State) (r : Bytes) : Bool :=
  let n := s.nslot
  let ys := fld r 8 0 7
  let zs := fld r 9 0 7
  reservedZero r partFields && decide (1 ≤ fld r 0 0 16 ∧ fld r 2 0 4 < n ∧ fld r 2 4 4 < n ∧ 1 ≤ ys ∧ ys ≤ 64 ∧ 1 ≤ zs ∧ zs ≤ 64
    ∧ fld r 4 0 6 < ys ∧ fld r 5 0 6 < ys ∧ fld r 6 0 6 < zs ∧ fld r 7 0 6 < zs)
    && s.fab.yz.isSome && inBlock r n s.nodeId && (fld r 0 0 16 != s.fab.gen || r == s.fab.block)

/-- `FABRIC_PART_SET` after the common checks: a change starts and goes on after the row (R275). -/
def doFabricPartSet (c : Cmd) (s : State) : State :=
  let r := slice c.desc 16 16
  if s.fabricOff then refuse c stFabricOff s
  else if s.fab.change.isSome then refuse c stBusy s
  else if s.partRecordOk r = false then refuse c stFabricPart s
  else if fld r 0 0 16 = s.fab.gen then done c [] s
  else { (s.keepRunning c) with fab := { s.fab with change := some (c.running s, r) } }

/-- FABRIC_PART_SET (R275). -/
def execFabricPartSet (c : Cmd) (s : State) : Host.Outcome State Fault Refusal := .next (runCmd 0x0502 c doFabricPartSet s)

/-- Steps 3 and 4 of Table 9.2. -/
def partSwitch (cmd : Running) (r : Bytes) (s : State) : State :=
  let gen := fld r 0 0 16
  let n := s.fab.done.length
  let s := { s with fab := { s.fab with gen := gen, block := r, change := none } }
  let s := s.fab.arrivals.foldl (fun s a => s.endArrival a fsStale) s
  let s := (s.fab.barriers.filter fun b => b.2.gen != gen).foldl (fun s b => s.unsetBarrier b.1) s
  let s := (List.range 18).foldl (fun s k => if s.hopOf k == some uplinkHop then s else s.recharter k) s
  (s.afterTx.settleFrom n).finishRun cmd stOk []

/-- FABRIC_PART_SWITCH (R275): every outstanding transaction of the chip has ended. -/
def execFabricPartSwitch (s : State) : Host.Outcome State Fault Refusal :=
  match s.fab.change with
  | some (cmd, r) => if s.fab.txs.isEmpty then .next (partSwitch cmd r s) else .next s
  | none => .next s

/-- Whether a barrier ID cannot be set now (R288, R334). -/
def State.barrierBusy (s : State) (id : Nat) : Bool :=
  (match kget s.fab.barriers id with | some b => !b.list.isEmpty | none => false)
    || (match kget s.fab.barrierFree id with | some t => decide (s.clk.tick < t) | none => false)

/-- `BARRIER_SET` after the common checks. -/
def doBarrierSet (c : Cmd) (s : State) : State :=
  let id := fld c.desc 16 0 10
  if s.fabricOff then refuse c stFabricOff s
  else if s.barrierBusy id then refuse c stBarrierBusy s
  else if fld c.desc 17 7 1 = 1 then
    done c [] (if (kget s.fab.barriers id).isSome then s.unsetBarrier id else s)
  else
    let b : Barrier := ⟨fld c.desc 20 0 17, fld c.desc 24 0 2, fld c.desc 26 0 16, fld c.desc 28 0 32, 0, [], 0⟩
    done c [] { s with fab := { s.fab with barriers := kput s.fab.barriers id b } }

/-- BARRIER_SET (R268). -/
def execBarrierSet (c : Cmd) (s : State) : Host.Outcome State Fault Refusal := .next (runCmd 0x0503 c doBarrierSet s)

/-- Codes of Table 9.3 in its order. -/
def PortState.code : PortState → Nat
  | .idle => 0
  | .down => 1
  | .training => 2
  | .charter => 3
  | .opened => 4
  | .quarantined => 5
  | .failed => 6

/-- The 128 bytes of a port's report; their layout is the model's (log 13). -/
def portReport (p : Port) : Bytes :=
  (p.sent ++ p.got ++ le 4 p.discards ++ le 4 p.exhausts ++ le 4 p.failedTrainings ++ p.equal ++ List.replicate 128 0).take 128

/-- `DVQ_PORT_QUERY` after the common checks. -/
def doDvqPortQuery (c : Cmd) (s : State) : State :=
  let p := s.port (fld c.desc 16 0 5)
  doneBuffer c (portReport p) (pack 2 [(0, 0, 3, p.st.code), (1, 0, 3, p.cause)]) s

/-- DVQ_PORT_QUERY (R333). -/
def execDvqPortQuery (c : Cmd) (s : State) : Host.Outcome State Fault Refusal := .next (runCmd 0x0504 c doDvqPortQuery s)

/-- `DVQ_PORT_RESET` after the common checks: a `FAILED` port goes `DOWN` and begins to train (R277). -/
def doDvqPortReset (c : Cmd) (s : State) : State :=
  let k := fld c.desc 16 0 5
  done c [] (if (s.port k).st = .failed then s.modPort k fun p => { p with fails := 0, st := if p.hot then .down else .training } else s)

/-- DVQ_PORT_RESET (R277). -/
def execDvqPortReset (c : Cmd) (s : State) : Host.Outcome State Fault Refusal := .next (runCmd 0x0505 c doDvqPortReset s)

end Sys2Proof.Machine
end

