-- ==== Sys2Proof/Machine/Stops.lean ====
section
/-! DEFINITION. Reports that reach a partition's arbiter, and the stop of its fold clock: traps, residue failures, graph faults, tile store errors, idling tiles, the scrubber of a tile (R54 to R60, R91, R92, R128 to R130). -/

namespace Sys2Proof.Machine

/-! ## Records -/

/-- Whether a report is a graph fault. -/
def Report.isGraph : Report → Bool
  | .graph _ _ _ _ _ _ _ _ => true
  | _ => false

/-- Whether a report is of a tile store's error. -/
def Report.isMemory : Report → Bool
  | .memory _ _ _ _ _ _ => true
  | _ => false

/-! ## The stop (R55) -/

/-- Whether the stop of a partition is complete: every tile has reported its idling. -/
def Partition.stopDone (p : Partition) : Bool := match p.idled with | some l => decide (32 * p.cols ≤ l.length) | none => false

/-- The stop is complete: the record is final, written and reported (R55, R129). -/
def State.finishStop (s : State) (pn : Nat) : State :=
  match s.part pn with
  | some p =>
    let t := s.modPart pn fun p => { p with capture := none }
    match p.capture with
    | some ⟨.trap tile cask src uop unit orow ocol work, further, round⟩ =>
      let b := trapRecord tile cask src uop unit orow ocol work round pn further s.clk.tick
      (t.modPart pn fun p => { p with lastTrap := some b }).report 0x0002 b 0x0001 (b.take 16)
    | some ⟨.graph tile cask fault qid seqC seqD src uop, further, round⟩ =>
      let b := graphRecord tile cask fault qid seqC seqD src uop round pn further s.clk.tick
      (t.modPart pn fun p => { p with lastGraph := some b }).report 0x0003 b 0x0002 (b.take 16)
    | _ => t
  | none => s

/-- The report that is recorded of several that arrive in one fc: the one from the lowest tile ID (R56). -/
def lowestReport (r : Report) (l : List Report) : Report := l.foldl (fun a b => if b.tile < a.tile then b else a) r

/-- The reports among which the one recorded is found: memory errors are among them only where a graph fault came in the same
fc (R56, R128); each of them writes its own record besides (R91). -/
def rivals (l : List Report) : List Report := if l.any Report.isGraph then l else l.filter fun r => !r.isMemory

/-- Reports arrive: the first is captured, later ones count in `FURTHER` while the stop is not complete. A memory error that is
captured leaves no record of its rivals, which it counts. -/
def Partition.withReports (p : Partition) : List Report → Partition
  | [] => p
  | r :: l => { p with capture := match p.capture with
      | some k => some { k with further := satAdd 16 k.further (l.length + 1) }
      | none => some ⟨lowestReport r l, min l.length 0xFFFF, p.roundInStep⟩ }

/-- A graph fault: the partition is never resumed, its count rises, its entries end and its pool is released (R130, R227). -/
def State.graphFaulted (s : State) (pn n : Nat) : State :=
  match s.part pn with
  | some p =>
    let s := { s with flushStats := modAt s.flushStats (2 * pn + 1) fun v => (v + n) % 2 ^ 32 }
    let s := s.modPart pn fun p => { p with faulted := true, cur := none, stepEnds := [] }
    (s.endEntries pn svReset).dropPool pn p.slot
  | none => s

/-- Traps, residue failures and graph faults reach the arbiter of a partition in one fc (R55, R56, R128). After a complete
stop a trap counts no more, while a graph fault is recorded even then (log 26). -/
def State.takeReports (s : State) (pn : Nat) (l : List Report) : State :=
  match s.part pn with
  | some p =>
    let l := if p.stopDone then l.filter Report.isGraph else rivals l
    if l.isEmpty || p.st == .loading then s
    else
      let n := (l.filter Report.isGraph).length
      let s := (s.modPart pn fun p => p.withReports l).stopClock pn
      let s := if n = 0 then s.abortStep pn else s.graphFaulted pn n
      if p.stopDone then s.finishStop pn else s
  | none => s

/-- Whether a report's flit has reached the arbiter's attach link. -/
def State.reported (s : State) (r : Report) : Bool := (s.atRim r.tile 1 fun f => f.kind == 9 && f.payload == r.flit.payload).isSome

/-- A report's flit is taken. -/
def State.takeReport (s : State) (r : Report) : State := s.takeRim r.tile 1 fun f => f.kind == 9 && f.payload == r.flit.payload

/-- A memory error at the arbiter (R91): it writes its own record; the clock stops and the step is aborted. For a tile outside
every partition no clock stops. -/
def State.memoryError (s : State) (r : Report) : State :=
  match r with
  | .memory tile cask store addr syn scrub =>
    let pn := s.partOf tile
    let b := memoryRecord tile cask store addr syn scrub pn s.clk.tick
    match pn with
    | some n => (((s.modPart n fun p => { p with lastMem := some b }).report 0x0004 b 0x0003 (b.take 16)).stopClock n).abortStep n
    | none => s.report 0x0004 b 0x0003 (b.take 16)
  | _ => s

/-- Reports that reach the arbiter of a partition in one fc. -/
def State.arrive (s : State) (pn : Nat) (reports : List Report) : State :=
  let l := reports.filter s.reported
  (l.filter Report.isMemory).foldl State.memoryError ((l.foldl State.takeReport s).takeReports pn l)

/-- TRAP_MESSAGE (R55, R56, R60): the reports whose flits have arrived. -/
def execTrapMessage (part : Nat) (reports : List Report) (s : State) : Host.Outcome State Fault Refusal := .next (s.arrive part reports)

/-- GRAPH_FAULT (R128). -/
def execGraphFault (part : Nat) (reports : List Report) (s : State) : Host.Outcome State Fault Refusal := .next (s.arrive part reports)

/-! ## Tile store errors (R91, R92) -/

/-- MEMORY_ERROR_REPORT (R91): a `KIND` 9 report that has arrived. -/
def execMemoryErrorReport (tile cask store addr syn : Nat) (scrub : Bool) (s : State) : Host.Outcome State Fault Refusal :=
  let r := Report.memory tile cask store addr syn scrub
  if s.reported r then .next ((s.takeReport r).memoryError r) else .next s

/-- Lines of the working store and of the vat (R92). -/
def scrubLines (store : Nat) : Nat := if store = 0 then 16384 else 3072

/-- The scrubber moves on: the next line of the store, then the other store. -/
def Tile.scrubNext (x : Tile) : Tile :=
  { x with
    scrubStore := 1 - x.scrubStore
    scrubLine := modAt x.scrubLine x.scrubStore fun n => (n + 1) % scrubLines x.scrubStore }

/-- The line that the scrubber reads next. -/
def Tile.scrubRange (x : Tile) : Range := (x.scrubStore, 64 * x.scrubLine.getD x.scrubStore 0, 64)

/-- TILE_SCRUB (R92): one line of the working store, then one of the vat; each uncorrectable word of it is reported. -/
def execTileScrub (tile : Nat) (errs : List WordErr) (s : State) : Host.Outcome State Fault Refusal :=
  if s.life.aux && !s.life.waiting && !s.pwr.stopped then
    let x := s.tile tile
    .next ((s.setTile tile x.scrubNext).readStores tile x.running true [x.scrubRange] errs).2
  else .next s

/-! ## Idling tiles -/

/-- A tile's `KIND` 8 report at the fold sequencer: 0 `STEP_END`, 1 its idling. -/
def isReport8 (what : Nat) (f : Flit) : Bool := f.kind == 8 && f.payload == payload64 [BitVec.ofNat 8 what]

/-- TILE_IDLE_REPORT (R55): the report of a tile of a stopping partition that has completed what it issued; the last such
report completes the stop. -/
def execTileIdleReport (part tile : Nat) (s : State) : Host.Outcome State Fault Refusal :=
  if (s.atRim tile 1 (isReport8 1)).isSome then
    let s := s.takeRim tile 1 (isReport8 1)
    match s.part part with
    | some p =>
      match p.idled with
      | some l =>
        if p.owns tile ∧ l.contains tile = false then
          let q := { p with idled := some (l ++ [tile]) }
          let t := s.setPart part q
          .next (if q.stopDone then (t.finishStop part).settleDevice none else t)
        else .next s
      | none => .next s
    | none => .next s
  else .next s

/-- STEP_END_REPORT (R113): the report of a tile that has executed `STEP_END`. -/
def execStepEndReport (part tile : Nat) (s : State) : Host.Outcome State Fault Refusal :=
  if (s.atRim tile 1 (isReport8 0)).isSome then
    let s := s.takeRim tile 1 (isReport8 0)
    match s.part part with
    | some p =>
      if p.owns tile ∧ p.cur.isSome = true ∧ p.stepEnds.contains tile = false then
        .next (s.setPart part { p with stepEnds := p.stepEnds ++ [tile] })
      else .next s
    | none => .next s
  else .next s

end Sys2Proof.Machine
end

