-- ==== Sys2Proof/Machine/Fold.lean ====
section
/-! DEFINITION. The fold sequencer: steps, fold-round boundaries, quiescent points, cask switches, the tiler, and the restart of a partition (R107 to R120, R140, R149, R155, R322, R341, R342). -/

namespace Sys2Proof.Machine

/-! ## The tiler (R153 to R155) -/

/-- The candidate that the tiler chooses: of those whose ranges hold B, S and H the one of lowest cost, the first of equals;
costs are computed modulo 2^64 (R154). -/
def chooseCandidate (b s h : Nat) (l : List (Nat × Candidate)) : Option (Nat × Candidate) :=
  let cost := fun (c : Candidate) => (c.c0 + c.c1 * b + c.c2 * b * s + c.c3 * h) % 2 ^ 64
  (l.filter fun x => x.2.covers b s h).foldl (fun best x => match best with
    | some y => if cost x.2 < cost y.2 then some x else some y
    | none => some x) none

/-- The parameter entry that the tiler writes (R155). -/
def tilingEntry (c : Candidate) (mt nt : Nat) : Bytes :=
  pack 16 [(0, 0, 16, c.tm), (2, 0, 16, c.tn), (4, 0, 16, c.tk), (6, 0, 3, c.order), (7, 0, 8, c.xexp), (8, 0, 32, mt), (12, 0, 16, nt),
    (14, 0, 8, c.stepk), (15, 0, 8, 0xA0)]

/-- Write a value into the inactive bank of every entry of type 0xA0. -/
def CaskCtx.writeBank (k : CaskCtx) (b : Bytes) : CaskCtx :=
  { k with bank := ((List.range (imgParams k.image)).filter fun i => fld (imgParam k.image i) 15 0 8 == 0xA0).map fun i => (i, b) }

/-- The inactive bank becomes the active one, and the entries that were active the inactive one. -/
def CaskCtx.swapBank (k : CaskCtx) : CaskCtx :=
  k.bank.foldl (fun (k : CaskCtx) (e : Nat × Bytes) => { k with
    image := putParam k.image e.1 e.2
    bank := kput k.bank e.1 (imgParam k.image e.1) }) k

/-- Change every active cask of a partition's tiles. -/
def State.modActive (s : State) (p : Partition) (f : CaskCtx → CaskCtx) : State :=
  s.modTiles p.tiles fun _ x => { x with casks := x.casks.map fun (e : Nat × CaskCtx) => (e.1, if p.names e.1 then f e.2 else e.2) }

/-- TILER_DONE (R155): the choice is written and reported. -/
def execTilerDone (part : Nat) (s : State) : Host.Outcome State Fault Refusal :=
  match s.part part with
  | some p =>
    match p.formed, p.formed.bind fun st => p.shape st.stepk with
    | some st, some h =>
      if p.tilerDone then .next s
      else
        match chooseCandidate st.b st.s p.man.heads ((p.cands.zipIdx.map fun e => (e.2, e.1)).filter fun e => e.2.stepk == st.stepk) with
        | some c =>
          let mt := ceilDiv (shapeM h st.b st.s) (max 1 h.splitM)
          let nt := ceilDiv (shapeN h p.man.heads) (max 1 h.splitN)
          .next ((s.modActive p fun k => k.writeBank (tilingEntry c.2 mt nt)).setPart part
            { p with tilerDone := true, formed := some { st with choice := some (c.1, mt, nt) } })
        | none => .next s
    | _, _ => .next s
  | none => .next s

/-! ## What a fold-round boundary does to casks (R118 to R120) -/

/-- One slot's report at a boundary: drained or not; a `CLOSED` one that stayed undrained through a whole round without a
token moving is flushed. -/
def State.reportSlot (s : State) (pn c : Nat) : State :=
  match s.part pn with
  | some p =>
    let x := p.slotAt c
    if x.st = .empty ∨ x.st = .loading then s
    else
      let d := s.slotDrained p c
      let s := if x.st = .closed ∧ d = false ∧ x.still = some false then s.flushCask pn c else s
      s.modPart pn fun p => p.modSlot c fun x => { x with drained := d, still := if x.st = .closed then some false else none }
  | none => s

/-- The reports of every slot. -/
def State.takeDrained (s : State) (pn : Nat) : State := [0, 1, 2, 3].foldl (fun s c => s.reportSlot pn c) s

/-- Casks closed by a commit that has failed open again (R119). -/
def Partition.reopen (p : Partition) : Partition :=
  let held := match p.job with | some j => j.writing | none => false
  let closes := match p.commit with | some k => k.closes | none => []
  if held then p
  else { p with slots := p.slots.zipIdx.map fun (e : Slot × Nat) =>
    if e.1.st = .closed ∧ closes.contains e.2 = false then { e.1 with st := CaskState.active, still := none } else e.1 }

/-- Casks close, so that they drain (R119). -/
def Partition.close (p : Partition) (cs : List Nat) : Partition :=
  cs.foldl (fun p c => p.modSlot c fun x => { x with st := CaskState.closed, drained := false, still := some false })
    { p with commit := p.commit.map fun k => { k with closes := cs } }

/-- Whether every cask that the commit closed is drained. -/
def Partition.closesDrained (p : Partition) : Bool :=
  match p.commit with
  | some k => !k.closes.isEmpty && k.closes.all fun c => (p.slotAt c).drained
  | none => false

/-- Whether a partition's casks wait to be emptied for a swap or an unload and every one of them is drained (R234, step 5). -/
def Partition.emptiable (p : Partition) : Bool :=
  match p.job with
  | some j => j.writing && !j.emptied && p.slots.all fun x => x.st == .empty || x.st == .loading || x.drained
  | none => false

/-! ## Serving-step boundaries and quiescent points (R113, R341, R342) -/

/-- Whether the step in progress is complete, or the partition is idle: a serving-step boundary of either kind; every
boundary is one where no active cask holds `STEP_END` (R113). -/
def State.stepBoundary (s : State) (p : Partition) : Bool :=
  let ts := s.stepTiles p
  ts.isEmpty || (match p.cur with
    | some _ => ts.all p.stepEnds.contains
    | none => p.formed.isNone)

/-- The rotations that are reloaded at every serving step take their blocks; a line that cannot be read stops the partition as a
failed tile read does (R145, R192; log 37). -/
def State.startRings (s : State) (pn : Nat) : State :=
  let r := s.fillRings pn true
  if r.1 then r.2 else (r.2.stopClock pn).abortStep pn

/-- The formed step begins: its input bank becomes active (R155), and rotations are reloaded (R145). -/
def State.beginStep (s : State) (pn : Nat) : State :=
  match s.part pn with
  | some p =>
    if p.formed.isSome && p.tilerDone && p.cur.isNone then
      State.startRings ((s.modActive p fun k => { k.swapBank with stepDone := false }).modPart pn fun p =>
        { p with cur := p.formed, formed := none, tilerDone := false, stepEnds := [], roundInStep := 0 }) pn
    else s
  | none => s

/-- Counters armed at a boundary return to `BASE` with the next epoch (R149); `arm` 0 serving-step, 1 fold-round. -/
def State.rearmCounters (s : State) (pn arm : Nat) : State :=
  match s.part pn with
  | some p => { s with tally := s.tally.rearm (p.counters.filter fun c => c.arm == arm) }
  | none => s

/-- Non-persistent streams that have run out start again (R140). -/
def State.restartStreams (s : State) (pn : Nat) : State :=
  match s.part pn with
  | some p => s.modActive p fun k => { k with streams := k.streams.map fun (e : Nat × Stream) => (e.1, e.2.restart) }
  | none => s

/-- A commit that closes nothing applies at the first quiescent point (R342, step 4). -/
def State.applyOpen (s : State) (pn : Nat) : State :=
  match s.part pn with
  | some p => if p.commit.isSome && p.removed.isEmpty then s.applyPartCommit pn else s
  | none => s

/-- The close of a commit's casks at an idle quiescent point (R119, R342). -/
def State.closeRemoved (s : State) (pn : Nat) : State :=
  match s.part pn with
  | some p =>
    match p.commit with
    | some k => if k.closes.isEmpty && !p.removed.isEmpty then s.modPart pn fun p => p.close p.removed else s
    | none => s
  | none => s

/-- A quiescent point of a partition: results of the step, a commit that closes nothing, a batch unless `DRAIN` is in
effect; where none is formed the point is idle: casks close, and a device-wide commit may hold the clock or find its own
point (R207, R341, R342, Table 11.15). -/
def State.quiescentPoint (s : State) (pn : Nat) : State :=
  let s := ((s.restartStreams pn).rearmCounters pn 0).boundaryResults pn
  let s := s.applyOpen pn
  let s := match s.part pn with
    | some p => if s.mayForm p then s.boundaryForm pn (s.hasSteps pn) else s
    | none => s
  match s.part pn with
  | some p =>
    if p.formed.isSome then s
    else
      let s := s.closeRemoved pn
      let s := if s.cfg.drains then s.modPart pn fun p => { p with heldClock := true } else s
      s.settleDevice (some pn)
  | none => s

/-- A schedule-clock flit for the top of a column: its payload names the cask of the step, and in two bits whether it marks a
fold-round boundary and a serving-step boundary (R111, R149; log 27 for the places). -/
def scheduleFlit (t cask : Nat) (fold step : Bool) : Flit :=
  mkFlit t (t + 31) 0 0 cask 8 0 0 true (le 1 cask ++ le 1 (b2n fold + 2 * b2n step))

/-- The fold sequencer sends one schedule flit to the north attach link of every column for the step now current; not while the
clock stands or is held (R111, R114). -/
def State.paceStep (s : State) (pn : Nat) (fold step : Bool) : State :=
  match s.part pn with
  | some p =>
    match p.sched[p.step]? with
    | some k =>
      if p.clockRuns && !p.heldClock then
        { s with rimOut := s.rimOut ++ (List.range p.cols).map fun i => (32 * (p.col0 + i), 0, scheduleFlit (32 * (p.col0 + i)) k.cask fold step) }
      else s
    | none => s
  | none => s

/-- What a fold-round boundary does to the partition (R113): the reports of drained casks, the emptying that a swap or an
unload waits for, a commit whose casks are drained, the step formed or the quiescent point. -/
def State.foldRound (s : State) (pn : Nat) : State :=
  let s := s.modPart pn fun p => { p with
    step := 0, lead := false, rounds := (p.rounds + 1) % 2 ^ 32, roundInStep := (p.roundInStep + 1) % 2 ^ 32 }
  let s := ((s.takeDrained pn).modPart pn Partition.reopen).rearmCounters pn 1
  match s.part pn with
  | some p =>
    if p.emptiable then (s.emptyCasks pn).settleDevice none
    else
      let s := if p.closesDrained then s.applyPartCommit pn else s
      match s.part pn with
      | some p => if s.stepBoundary p then s.quiescentPoint pn else s.beginStep pn
      | none => s
  | none => s

/-- A fold-round boundary (R113): then the schedule flits of step 0 go out, after every counter re-armed at it has
acknowledged (R149). -/
def State.foldBoundary (s : State) (pn : Nat) : State :=
  let step := match s.part pn with | some p => s.stepBoundary p | none => false
  (s.foldRound pn).paceStep pn true step

/-! ## Steps (R109 to R112) -/

/-- Whether the fold sequencer of a partition paces its schedule now. -/
def State.paces (s : State) (p : Partition) : Bool :=
  p.clockRuns && !p.heldClock && s.running && !(match p.job with | some j => j.emptied | none => false)

/-- FOLD_STEP_TIMER (R111, R112): the next step, for which schedule flits go out, or a fold-round boundary after the last. -/
def execFoldStepTimer (part : Nat) (s : State) : Host.Outcome State Fault Refusal :=
  match s.part part with
  | some p =>
    if s.paces p then
      if p.step + 1 < p.sched.length then
        let q := { p with step := p.step + 1, lead := false }
        .next ((s.setPart part q).paceStep part false false)
      else .next (s.foldBoundary part)
    else .next s
  | none => .next s

/-- FOLD_LEAD (R110). -/
def execFoldLead (part : Nat) (s : State) : Host.Outcome State Fault Refusal :=
  match s.part part with
  | some p => if s.paces p then .next (s.setPart part { p with lead := true }) else .next s
  | none => .next s

/-- The tile's copies of the epochs of the counters armed at the boundaries that a schedule flit marks (R149). -/
def Tile.advanceEpochs (x : Tile) (cs : List CounterUse) (fold step : Bool) : Tile :=
  let armed := cs.filter fun c => (c.arm == 0 && step) || (c.arm == 1 && fold)
  { x with epochs := armed.foldl (fun (m : KMap Nat) c => kput m c.phys (((kget m c.phys).getD 0 + 1) % 65536)) x.epochs }

/-- A schedule flit that the router has copied to its tile (R111). -/
def isSchedule (f : Flit) : Bool := f.kind == 8 && f.exit == 0

/-- SCHEDULE_CLOCK (R111, R149): the flit is taken, the switch to the cask it names is scheduled, the epochs advance. A tile
that has stopped keeps the cask it runs (R114). -/
def execScheduleClock (tile : Nat) (s : State) : Host.Outcome State Fault Refusal :=
  match s.delivered tile isSchedule with
  | some f =>
    let s := s.takeKind tile isSchedule
    match (s.partOf tile).bind s.part with
    | some p =>
      if p.clockRuns && !(s.tile tile).idle && s.running then
        .next (s.modTile tile fun x => { (x.advanceEpochs p.counters (fld f.payload 1 0 1 == 1) (fld f.payload 1 1 1 == 1)) with
          switchTo := some (fld f.payload 0 0 8) })
      else .next s
    | none => .next s
  | none => .next s

/-- CASK_SWITCH (R107, R111): a switch to the cask already running is no switch. -/
def execCaskSwitch (tile : Nat) (s : State) : Host.Outcome State Fault Refusal :=
  match (s.tile tile).switchTo with
  | some c =>
    if s.running && !(s.tile tile).idle then .next (s.modTile tile fun x => { x with running := c, switchTo := none }) else .next s
  | none => .next s

/-! ## Restart (R114, R322, R341) -/

/-- Whether a mesh link has failed: the device then accepts no new work (R94). -/
def State.linkFailed (s : State) : Bool := s.links.any fun e => e.2.failed

/-- The partition runs again from step 0 of a new round, which is a quiescent point. -/
def State.restartPart (s : State) (pn : Nat) : State :=
  match s.part pn with
  | some p =>
    let s := s.modTiles p.tiles fun _ x => { x with idle := false, idleSent := false }
    let s := s.modPart pn fun p => { p with
      st := if p.st = .stopped then .running else p.st
      idled := none, capture := none, heldClock := false, stepEnds := [] }
    s.foldBoundary pn
  | none => s

/-- PARTITION_RESTART (R114, R322): firmware restarts a stopped partition where `TRAP_HOLD` is 0, or where a swap or an
unload is in progress (log 29); never after a graph fault or with a failed link. -/
def execPartitionRestart (part : Nat) (s : State) : Host.Outcome State Fault Refusal :=
  match s.part part with
  | some p =>
    if p.stopDone && !p.faulted && (!p.trapHold || p.job.isSome) && !s.linkFailed && s.running then .next (s.restartPart part) else .next s
  | none => .next s

/-- `PART_RESUME` after the common checks. -/
def doPartResume (c : Cmd) (s : State) : State :=
  match s.part c.target with
  | some p =>
    if p.faulted then refuse c stPartFaulted s
    else if p.st ≠ .stopped ∨ p.stopDone = false ∨ s.linkFailed = true then refuse c stNotStopped s
    else done c [] (s.restartPart c.target)
  | none => refuse c stTarget s

/-- PART_RESUME (R322). -/
def execPartResume (c : Cmd) (s : State) : Host.Outcome State Fault Refusal := .next (runCmd 0x0207 c doPartResume s)

end Sys2Proof.Machine
end

