-- ==== Sys2Proof/Machine/Identity.lean ====
section
/-! DEFINITION. The event recorder's commands, nonces, authorisations and ownership (R425 to R434). -/

namespace Sys2Proof.Machine

/-! ## Reading and freezing (R433) -/

/-- `EVR_READ` after the common checks: at most the count asked for and what the buffer takes. -/
def doEvrRead (c : Cmd) (s : State) : State :=
  let l := (s.evr.heldFrom (fld c.desc 16 0 32)).take (min (fld c.desc 20 0 16) (fld c.desc 24 0 32 / 64))
  doneBuffer c (l.flatMap Record.bytes) (le 4 l.length) s

/-- EVR_READ (R433). -/
def execEvrRead (c : Cmd) (s : State) : Host.Outcome State Fault Refusal := .next (runCmd 0x0606 c doEvrRead s)

/-- A hold on commits set or released by its holder: TMI, or the sideband endpoint. -/
def State.setFreeze (s : State) (src : CmdSrc) (on : Bool) : State :=
  match src with
  | .pair _ => { s with evr := { s.evr with frozenTmi := on } }
  | .sideband => { s with evr := { s.evr with frozenSide := on } }

/-- `EVR_FREEZE` after the common checks: it returns the overflow count in both directions (R432). -/
def doEvrFreeze (c : Cmd) (s : State) : State := done c (le 4 s.evr.overflow) (s.setFreeze c.src (fld c.desc 16 0 1 == 1))

/-- EVR_FREEZE (R433). -/
def execEvrFreeze (c : Cmd) (s : State) : Host.Outcome State Fault Refusal := .next (runCmd 0x0607 c doEvrFreeze s)

/-- FREEZE_EXPIRY (R433). -/
def execFreezeExpiry (sideband : Bool) (s : State) : Host.Outcome State Fault Refusal :=
  .next (s.setFreeze (if sideband then .sideband else .pair 0) false)

/-- RECORD_COMMIT (R431): no commit while either holder freezes (R433). -/
def execRecordCommit (s : State) : Host.Outcome State Fault Refusal :=
  if s.life.aux && !s.evr.frozenTmi && !s.evr.frozenSide then .next s.commitRecords else .next s

/-- OPERATING_TIME_SAVE (R429). -/
def execOperatingTimeSave (s : State) : Host.Outcome State Fault Refusal :=
  if s.life.aux then .next { s with clk := { s.clk with opSaved := s.clk.opSec } } else .next s

/-! ## Nonces and authorisations (R426, R427) -/

/-- 32 bytes drawn from the manager core's generator. -/
def State.drawNonce (s : State) : Bytes := (List.range 32).map (Config.randomByte s.free)

/-- A new nonce is live in place of any other. -/
def State.issueNonce (s : State) : State := { s.used with ident := { s.ident with nonce := some s.drawNonce } }

/-- `EVR_NONCE` after the common checks: a nonce that could not be delivered is not issued (R319). -/
def doEvrNonce (c : Cmd) (s : State) : State :=
  match c.wr with
  | .ok => doneBuffer c s.drawNonce [] s.issueNonce
  | .cxlError => refuse c stBuffer s

/-- EVR_NONCE (R427). -/
def execEvrNonce (c : Cmd) (s : State) : Host.Outcome State Fault Refusal := .next (runCmd 0x0608 c doEvrNonce s)

/-- NONCE_EXPIRY (R427). -/
def execNonceExpiry (s : State) : Host.Outcome State Fault Refusal := .next { s with ident := { s.ident with nonce := none } }

/-- Bytes of an authorisation. -/
def authBytes : Nat := 3445

/-- Check 2 of R426: owned, and `MAGIC`, `PURPOSE`, `DEVID`, `NONCE` and the signature right. -/
def Ident.authorises (x : Ident) (a : Bytes) (purpose : Nat) : Bool :=
  match x.owner, x.nonce with
  | some k, some n =>
    reservedZero (a.take 8) [(0, 0, 32), (4, 0, 16)] && fld a 0 0 32 == 0x48554150 && fld a 4 0 16 == purpose
      && slice a 8 32 == deviceId && slice a 40 32 == n && Config.verify k (ascii "PQT-AUTH") (a.take 136) (slice a 136 sigBytes)
  | _, _ => false

/-- `ARG` of an authorisation. -/
def authArg (a : Bytes) : Bytes := slice a 72 64

/-- The live nonce ends with the one check made against it (R427). -/
def State.spendNonce (s : State) : State := { s with ident := { s.ident with nonce := none } }

/-- First 16 bytes of the owner key's digest, zeros without one (R425, R434). -/
def Ident.ownerTag (x : Ident) : Bytes := match x.owner with | some k => shake256 k 16 | none => []

/-! ## EVR_CLEAR (R434) -/

/-- Body of the `CLEAR` record; with nothing erased `LASTSEQ` is free (log 5). -/
def State.clearBody (s : State) : Bytes :=
  let last := if s.evr.ring.isEmpty then s.freshNat % 2 ^ 32 else (s.evr.ring.map Record.seq).foldl max 0
  le 4 last ++ le 4 s.evr.ring.length ++ le 4 s.ident.epoch ++ s.ident.ownerTag

/-- The ring is erased and the `CLEAR` record written first in it with the next number; staged records stay (R434). -/
def State.clearRing (s : State) : State :=
  let t := State.stageOne { s with evr := { s.evr with staging := [] } } (0x0014, false, s.clearBody)
  { t.used with evr := { t.evr with ring := t.evr.staging, slot := 1, staging := s.evr.staging } }

/-- `EVR_CLEAR` after the common checks. -/
def doEvrClear (c : Cmd) (s : State) : State :=
  match c.data with
  | .ok d =>
    let a := (d ++ List.replicate authBytes 0).take authBytes
    if s.ident.authorises a 1 = false then refuse c stAuth s.spendNonce
    else if s.evr.ring.any fun r => decide (ofLe ((authArg a).take 4) < r.seq) then refuse c stBusy s.spendNonce
    else let t := s.spendNonce; doneFrom c [] t t.clearRing
  | _ => refuse c stBuffer s

/-- EVR_CLEAR (R434). -/
def execEvrClear (c : Cmd) (s : State) : Host.Outcome State Fault Refusal := .next (runCmd 0x0609 c doEvrClear s)

/-! ## Answers of the sideband endpoint and the DOE mailboxes, in the log's own form: a byte that tells the kind, then
what the spec says the answer carries (log 33) -/

/-- An answer goes out. -/
def State.reply (s : State) (kind : Nat) (b : Bytes) : State :=
  { s with out := { s.out with sideband := s.out.sideband ++ [BitVec.ofNat 8 kind :: b] } }

/-- Kind: an answer that carries no data. -/
def replyDone : Nat := 0
/-- Kind: an error; its code follows. -/
def replyError : Nat := 1
/-- Kind: the responder is busy (R416). -/
def replyBusy : Nat := 2
/-- Kind: data. -/
def replyData : Nat := 3

/-- A request refused whose code no rule gives: the code is free (log 5). -/
def State.refuseOpen (s : State) : State := s.used.reply replyError (le 1 s.freshNat)

/-! ## Ownership (R425) -/

/-- Whether vendor-defined requests are answered: not before the verdict (R416), and only in a secured session. -/
def State.vendorServed (s : State) : Bool := s.life.dev == .opened || s.life.dev == .corked

/-- A vendor-defined request: busy in `TASTING`, refused outside a secured session, else carried out. -/
def State.vendor (s : State) (secured : Bool) (f : State → State) : State :=
  if s.life.dev = .off then s
  else if s.vendorServed = false then s.reply replyBusy []
  else if secured ∧ 0 < s.ident.sessions then f s
  else s.refuseOpen

/-- AUTH_NONCE (R427). -/
def execAuthNonce (secured : Bool) (s : State) : Host.Outcome State Fault Refusal :=
  .next (s.vendor secured fun s => s.issueNonce.reply replyData s.drawNonce)

/-- An accepted change of ownership: the epoch rises, the record follows, the request is answered (R425). -/
def State.changeOwner (s : State) (sub : Nat) (owner : Option Bytes) (cosign : Bool) : State :=
  let t := { s with ident := { s.ident with
    owner := owner, cosign := cosign, epoch := (s.ident.epoch + 1) % 2 ^ 32, older := (s.ident.owner, s.ident.cosign, s.ident.epoch) } }
  (t.stage 0x0012 (le 1 sub ++ le 4 t.ident.epoch ++ t.ident.ownerTag)).reply replyDone []

/-- OWN_CLAIM (R425). -/
def execOwnClaim (secured : Bool) (key : Bytes) (s : State) : Host.Outcome State Fault Refusal :=
  .next (s.vendor secured fun s => if s.ident.owner.isNone then s.changeOwner 0 (some key) false else s.refuseOpen)

/-- A request under authorisation: error 1 for a wrong length, error 2 for a check that fails, which ends the nonce all
the same (R426, R427); `ok` is the purpose's own condition on `ARG`. -/
def State.authorised (s : State) (auth : Bytes) (purpose : Nat) (ok : Bool) (f : State → State) : State :=
  if auth.length ≠ authBytes then s.reply replyError (le 1 1)
  else if s.ident.authorises auth purpose && ok then f s.spendNonce
  else s.spendNonce.reply replyError (le 1 2)

/-- OWN_TRANSFER (R425): `ARG` is the digest of the new key. -/
def execOwnTransfer (secured : Bool) (key auth : Bytes) (s : State) : Host.Outcome State Fault Refusal :=
  .next (s.vendor secured fun s => s.authorised auth 3 (authArg auth == shake256 key 64) fun s => s.changeOwner 1 (some key) false)

/-- OWN_RELEASE (R425). -/
def execOwnRelease (secured : Bool) (auth : Bytes) (s : State) : Host.Outcome State Fault Refusal :=
  .next (s.vendor secured fun s => s.authorised auth 2 true fun s => s.changeOwner 2 none false)

/-- Every bank marked complete would still be valid with `COSIGN` set (R425). -/
def State.cosignSafe (s : State) : Bool :=
  [0, 1].all fun b => !(s.life.sel.ok b) || imageValid (s.bankImage b) s.life.svnFloor true s.ident.owner

/-- OWN_COSIGN (R425): `ARG` byte 0 is the new `COSIGN`. -/
def execOwnCosign (secured : Bool) (cosign : Bool) (auth : Bytes) (s : State) : Host.Outcome State Fault Refusal :=
  .next (s.vendor secured fun s => s.authorised auth 4 ((authArg auth).take 1 == [BitVec.ofNat 8 (b2n cosign)]) fun s =>
    if cosign && !s.cosignSafe then s.refuseOpen else s.changeOwner 3 s.ident.owner cosign)

end Sys2Proof.Machine
end

