-- ==== Sys2Proof/Machine/Mesh.lean ====
section
/-! DEFINITION. The mesh: routes, arbitration, per-hop credits, replay, a failed link. Ports of a tile are numbered in the order of Table 3.1: 0 north, 1 south, 2 east, 3 west, 4 local. -/

namespace Sys2Proof.Machine

/-! ## Routes (R79) -/

/-- The output port that a flit takes at a tile: first along the row, then along the column, never away from its
destination; a flit for the rim keeps to its one dimension (R79). -/
def route (t : Nat) (f : Flit) : Nat :=
  match f.exit with
  | 1 => 0
  | 2 => 1
  | 3 => 3
  | 4 => 2
  | _ =>
    if tileCol t < tileCol f.dst then 2
    else if tileCol f.dst < tileCol t then 3
    else if tileRow t < tileRow f.dst then 1
    else if tileRow f.dst < tileRow t then 0
    else 4

/-! ## Arbitration (R81 to R83) -/

/-- A flit waiting at an input of a router: input port in the order of rule 4 (west, east, north, south, local), its buffer. -/
abbrev Contender := Nat × Buffered

/-- Head flits of each virtual channel of an input. -/
def vcHeads (l : List Buffered) : List Buffered := (List.range 4).filterMap fun v => l.find? fun b => b.flit.vc == v

/-- Inputs in the order of rule 4. -/
def inputOrder : List Nat := [3, 2, 0, 1, 4]

/-- Whether a flit may leave by port `o` now: the local port takes any, a link needs a credit (R83). -/
def State.mayLeave (s : State) (t o : Nat) (f : Flit) : Bool := o == 4 || ((s.link (linkKey t o)).creditFor f).isSome

/-- Whether a tile may inject a flit now: at most one VC3 flit per 4 fc (R83). -/
def Tile.mayInject (x : Tile) (f : Flit) (fc : Nat) : Bool :=
  f.vc != 3 || match x.vc3At with | some n => decide (n + 4 ≤ fc) | none => true

/-- The flits that want output `o` and may leave, in port order. -/
def State.contenders (s : State) (t o fc : Nat) : List Contender :=
  inputOrder.zipIdx.flatMap fun p => (vcHeads (s.link (inKey t p.1)).buf).filterMap fun b =>
    if route t b.flit == o && s.mayLeave t o b.flit && (p.1 != 4 || (s.tile t).mayInject b.flit fc) then some (p.2, b) else none

/-- The rank of a contender at fc `fc` (R83, R111): VC3 first, a schedule flit first within VC3, the lower class, the higher
age, the earlier port. -/
def rank (fc : Nat) (c : Contender) : Nat × Nat × Nat × Nat :=
  (if c.2.flit.vc = 3 then (if c.2.flit.kind = 8 then 0 else 1) else 2, c.2.flit.cls, 1023 - c.2.age fc, c.1)

/-- Whether `a` goes before `b`. -/
def goesBefore (fc : Nat) (a b : Contender) : Bool :=
  let p := rank fc a
  let q := rank fc b
  decide (p.1 < q.1 ∨ (p.1 = q.1 ∧ (p.2.1 < q.2.1 ∨ (p.2.1 = q.2.1 ∧ (p.2.2.1 < q.2.2.1 ∨ (p.2.2.1 = q.2.2.1 ∧ p.2.2.2 < q.2.2.2))))))

/-- The first of some contenders. -/
def winnerOf (fc : Nat) : List Contender → Option Contender
  | [] => none
  | c :: cs => some (cs.foldl (fun b x => if goesBefore fc x b then x else b) c)

/-- The flit that an output sends next. -/
def State.winner (s : State) (t o fc : Nat) : Option Contender := winnerOf fc (s.contenders t o fc)

/-- A credit is in the sender's hands again, never above the receiver's buffers (R81, R85). -/
def Link.regain (l : Link) (vc : Nat) (reserved : Bool) : Link :=
  if reserved then { l with reserved := modAt l.reserved vc fun n => min (n + 1) (if vc < 3 then 2 else 0) }
  else { l with shared := modAt l.shared vc fun n => min (n + 1) (if vc < 3 then 8 else 4) }

/-- A flit leaves its input. The local port's buffer is free at once, and takes what waits in the tile (R74). -/
def State.leaveInput (s : State) (t fc : Nat) (c : Contender) : State :=
  let p := inputOrder.getD c.1 4
  if p = 4 then
    let s := s.modLink (linkKey t 4) fun l => ({ l with buf := l.buf.erase c.2 } : Link).regain c.2.flit.vc c.2.reserved
    let s := if c.2.flit.vc = 3 then s.modTile t fun x => { x with vc3At := some fc } else s
    s.fillLocal t (s.tile t).inject.length
  else s.modLink (inKey t p) fun l => l.leave c.2

/-- A flit as it leaves a router: 1 more on each hop (R82). -/
def Buffered.hop (b : Buffered) (fc : Nat) : Flit := { b.flit with age := min 1023 (b.age fc + 1) }

/-- The last 16 entries of a list. -/
def last16 {α : Type} (l : List α) : List α := l.drop (l.length - 16)

/-- A flit goes onto a link's wires and into its replay buffer, under the credit it takes (R81, R93). -/
def Link.send (l : Link) (f : Flit) : Link :=
  let r := (l.creditFor f).getD false
  let w : Sent := ⟨l.sent, f, r⟩
  { (l.take f.vc r) with sent := l.sent + 1, wire := l.wire ++ [w], replay := last16 (l.replay ++ [w]) }

/-- A flit goes out by port `o`: to the tile itself, or onto a link. -/
def State.sendOn (s : State) (t o : Nat) (f : Flit) : State :=
  if o = 4 then s.modTile t fun x => { x with eject := x.eject ++ [f] } else s.modLink (linkKey t o) fun l => l.send f

/-- Whether a link can take another flit: R85's delays never let a flit that may yet be replayed fall out of the 16 of the
replay buffer (R93). -/
def Link.blocked (l : Link) : Bool :=
  l.failed || decide (16 ≤ l.wire.length)
    || (decide (16 ≤ l.replay.length) && match l.replay with | w :: _ => l.awaited.any fun a => a.2 == w.n | [] => false)

/-- An output with a flit waiting for replay sends it before any other (R83); it goes under the credit it took before. -/
def Link.sendReplay (l : Link) (w : Sent) (rest : List Sent) : Link := { l with resend := rest, wire := l.wire ++ [w] }

/-- The flits of the rim for an attach link, as they stand there. -/
def State.rimHeads (s : State) (t p : Nat) : List Contender :=
  (vcHeads ((s.rimOut.filter fun r => r.1 == t && r.2.1 == p).map fun r => ⟨r.2.2, false, s.fc, false⟩)).filterMap fun b =>
    if ((s.link (enterKey t p)).creditFor b.flit).isSome then some (0, b) else none

/-- The mesh's fc count moves on. -/
def State.atFc (s : State) (fc : Nat) : State := { s with fc := max s.fc fc }

/-- A router's output sends. -/
def State.sendFrom (s : State) (t o fc : Nat) : State :=
  let l := s.link (linkKey t o)
  if o < 4 ∧ l.blocked = true then s
  else match (if o < 4 then l.resend else []) with
    | w :: rest => s.modLink (linkKey t o) fun l => l.sendReplay w rest
    | [] =>
      match s.winner t o fc with
      | some c => (s.leaveInput t fc c).sendOn t o (c.2.hop fc)
      | none => s

/-- The rim sends into an attach link: a replay first, else by class and age as a router does; `AGE` is 0 (R79, R82, R304). -/
def State.rimForward (s : State) (t p fc : Nat) : State :=
  let l := s.link (enterKey t p)
  if l.blocked then s
  else match l.resend with
    | w :: rest => s.modLink (enterKey t p) fun l => l.sendReplay w rest
    | [] =>
      match winnerOf fc (s.rimHeads t p) with
      | some c => { s with rimOut := s.rimOut.erase (t, p, c.2.flit) }.modLink (enterKey t p) fun l => l.send { c.2.flit with age := 0, src := t }
      | none => s

/-- FLIT_FORWARD (R83), in fc `fc`: output `port` of a tile, or the rim's side of that attach link. -/
def execFlitForward (tile port : Nat) (rim : Bool) (fc : Nat) (s : State) : Host.Outcome State Fault Refusal :=
  if s.pwr.stopped then .next s
  else if rim then (if attaches tile port then .next ((s.atFc fc).rimForward tile port fc) else .next s)
  else .next ((s.atFc fc).sendFrom tile port fc)

/-! ## Receiving (R85, R93, R94) -/

/-- A flit enters the receiver's buffer; a schedule flit from the north rim is copied to the tile, and absorbed in row 31
(R111). -/
def State.enterBuffer (s : State) (k t p : Nat) (rim : Bool) (w : Sent) : State :=
  if !rim && w.flit.kind == 8 && w.flit.exit == 0 && p == 0 then
    let s := s.modTile t fun x => { x with eject := x.eject ++ [w.flit] }
    s.modLink k fun l => if tileRow t = 31 then { l with back := l.back ++ [(w.flit.vc, w.reserved)] } else l.enter w.flit w.reserved s.fc
  else s.modLink k fun l => l.enter w.flit w.reserved s.fc

/-- The count of a tile's link corrections and retries (R90, R93). -/
def State.countLink (s : State) (t : Nat) : State :=
  s.modTile t fun x => { x with corrected := modAt x.corrected 3 fun n => satAdd 16 n 1 }

/-- A flit is accepted: it is the one awaited on its channel, if any was. -/
def Link.accept (l : Link) (w : Sent) : Link := { l with awaited := kdel l.awaited w.flit.vc, fails := setAt l.fails w.flit.vc 0 }

/-- A word of a flit was uncorrectable: the flit is discarded, and with it every later one of its channel until it comes again
(R93). -/
def Link.refuse (l : Link) (w : Sent) : Link :=
  { l with awaited := kput l.awaited w.flit.vc w.n, fails := modAt l.fails w.flit.vc (· + 1) }

/-- Whether a link's receiver looks at a flit: it is not one of those discarded before the flit awaited. -/
def Link.wants (l : Link) (w : Sent) : Bool := match kget l.awaited w.flit.vc with | some n => n == w.n | none => true

/-- The next flit on the wires of direction `k` arrives at port `p` of a tile, or at the rim beyond it. -/
def State.receiveWire (s : State) (k t p : Nat) (rim : Bool) (err : Option FlitErr) : State :=
  match (s.link k).wire with
  | w :: rest =>
    let s := s.modLink k fun l => { l with wire := rest }
    if (s.link k).wants w then
      match err with
      | some ⟨_, true⟩ => (s.modLink k fun l => l.refuse w).countLink t
      | some ⟨_, false⟩ => ((s.modLink k fun l => l.accept w).countLink t).enterBuffer k t p rim w
      | none => (s.modLink k fun l => l.accept w).enterBuffer k t p rim w
    else s
  | [] => s

/-- The direction that ends at an input of a tile, or at the rim beyond one of its ports. -/
def arriveKey (t p : Nat) (rim : Bool) : Nat := if rim then linkKey t p else inKey t p

/-- FLIT_RECEIVE (R85), in fc `fc`: at port `port` of a tile, or at the rim's side of that attach link. -/
def execFlitReceive (tile port : Nat) (rim : Bool) (fc : Nat) (err : Option FlitErr) (s : State) : Host.Outcome State Fault Refusal :=
  let k := arriveKey tile port rim
  if (rim && !attaches tile port) || decide (4 ≤ port) || (s.link k).failed then .next s
  else .next ((s.atFc fc).receiveWire k tile port rim err)

/-- The direction that leaves a tile, or that the rim sends into one of its ports. -/
def sendKey (t p : Nat) (rim : Bool) : Nat := if rim then enterKey t p else linkKey t p

/-- HOP_CREDIT_RETURN (R85): a credit of a buffer that its flit has left comes back to the sender: `tile` and `port` are the
sender's, or the port into which the rim sends. -/
def execHopCreditReturn (tile port vc : Nat) (rim reserved : Bool) (s : State) : Host.Outcome State Fault Refusal :=
  let k := sendKey tile port rim
  if (s.link k).back.contains (vc, reserved) then
    .next (s.modLink k fun l => ({ l with back := l.back.erase (vc, reserved) } : Link).regain vc reserved)
  else .next s

/-- A link fails in both directions: the record, the notice, and the device is corked in service (R94, R382). -/
def State.linkFails (s : State) (t p : Nat) : State :=
  let far := match farEnd t p with | some q => q.1 | none => 0x7FF
  let s := (s.modLink (linkKey t p) fun l => { l with failed := true }).modLink (inKey t p) fun l => { l with failed := true }
  let b := packArgs 32 [(2, t), (2, far), (1, p)]
  (s.report 0x0006 b 0x0005 []).inServiceCork 16 t 1

/-- Whether a replay request for a channel is on its way to the sender: the flit awaited is neither on the wires nor about to
be sent again. -/
def Link.asks (l : Link) (vc : Nat) : Option Nat :=
  match kget l.awaited vc with
  | some n => if (l.wire ++ l.resend).any fun w => w.n == n then none else some n
  | none => none

/-- The sender replays a channel from the failed flit, in order, out of its replay buffer (R93). -/
def Link.replayFrom (l : Link) (vc n : Nat) : Link :=
  { l with resend := (l.resend.filter fun w => w.flit.vc != vc) ++ l.replay.filter fun w => w.flit.vc == vc && decide (n ≤ w.n) }

/-- MESH_REPLAY_REQUEST (R93): `tile` and `port` are the sender's, or the port into which the rim sends. A flit is replayed at
most 8 times: the request after its ninth failed transfer fails the link (R94). -/
def execMeshReplayRequest (tile port vc : Nat) (rim : Bool) (s : State) : Host.Outcome State Fault Refusal :=
  let k := sendKey tile port rim
  match (s.link k).asks vc with
  | some n =>
    if (s.link k).failed || decide (4 ≤ port) || (rim && !attaches tile port) then .next s
    else if 9 ≤ (s.link k).fails.getD vc 0 then .next (s.linkFails tile port)
    else .next (s.modLink k fun l => l.replayFrom vc n)
  | none => .next s

end Sys2Proof.Machine
end

