-- ==== Sys2Proof/Machine/Power.lean ====
section
/-! DEFINITION. The rows of the power controller, the pins `PWRBRK_N` and `EPO_N`, Metrizor, and the commands PWR_QUERY, MTZ_PLAN and MTZ_QUERY (R346 to R373). -/

namespace Sys2Proof.Machine

/-! ## Power samples (R352, R353, R358) -/

/-- Package power of a sample in 0.1 mW (R25, R352). -/
def Sample.power (m : Sample) : Nat := (List.zipWith (· * ·) m.railMv m.railDa).sum

/-- Whether a sample lies within the absolute maximum ratings (Table 17.6). -/
def Sample.rated (m : Sample) : Bool :=
  decide (m.railMv.getD 0 0 ≤ 2100 ∧ m.railMv.getD 1 0 ≤ 1400 ∧ m.railMv.getD 2 0 ≤ 1050 ∧ m.railMv.getD 3 0 ≤ 3700)
    && m.tj.all fun x => decide (x ≤ 1000)

/-- Whether a power scaled by 1.02 exceeds a limit in W (R352). -/
def overLimit (power watts : Nat) : Bool := decide (watts * 10000 * 100 < power * 102)

/-- Whether a sample lowers the power ceiling: above 3,300 W at once (A); above 2,800 W for 1,000 µs and every 250 µs
after it (B). `run` is the number of samples in a row above 2,800 W, this one included. -/
def lowers (power run : Nat) : Bool := overLimit power 3300 || (decide (100 ≤ run) && (run - 100) % 25 == 0)

/-- Table 12.4: the factor of the step up from a state, times 1,000. -/
def stepFactor (st : Nat) : Nat := match st with | 1 => 1280 | 2 => 1275 | 3 => 1310 | _ => 1752

/-- Whether the projected mean allows the next higher state: P_avg times 1.02 times the factor is at most 2,650 W. -/
def Power.projects (p : Power) : Bool :=
  decide (p.history.sum * 102 * stepFactor p.cPow ≤ 2650 * 10000 * 100 * 1000 * p.history.length)

/-- Whether the power ceiling rises one state (R353). -/
def Power.mayRaise (p : Power) : Bool :=
  decide (0 < p.cPow) && !p.dip && p.calm.isNone && p.projects && decide (1000 ≤ p.sinceLower) && decide (p.hardCeiling ≤ p.cPow - 1)

/-- A lowering of the power ceiling: one state below the lower of the ceiling and the present state; at `P4` nothing
changes (R352). -/
def Power.lower (p : Power) : Power :=
  if 4 ≤ max p.cPow p.cur then p
  else { p with cPow := max p.cPow p.cur + 1, nLim := satAdd 32 p.nLim 1, sinceLower := 0 }

/-- A sample read into the controller. -/
def Power.read (p : Power) (m : Sample) : Power :=
  { p with
    history := (m.power :: p.history).take 1000
    overRun := if overLimit m.power 2800 then p.overRun + 1 else 0
    sinceLower := p.sinceLower + 1
    railMv := m.railMv
    railDa := m.railDa
    tj := m.tj
    stk := m.stk
    peak := max p.peak m.power
    inState := modAt p.inState p.cur (· + 1)
    calm := match p.calm with | some (n + 2) => some (n + 1) | _ => none
    episode := p.episode.map fun e => m.railMv.zipIdx.foldl (fun (e : DipReport) x => e.see x.2 x.1) e }

/-- What a sample does to the power ceiling. -/
def Power.settleCeiling (p : Power) (power : Nat) : Power :=
  if lowers power p.overRun then p.lower
  else if p.mayRaise then { p with cPow := p.cPow - 1 } else p

/-- POWER_SAMPLE (R352, R353): beyond the absolute maximum ratings the device promises nothing (R459). -/
def execPowerSample (m : Sample) (s : State) : Host.Outcome State Fault Refusal :=
  if m.rated then
    if s.pwrActive then .next (State.follow { s with pwr := (s.pwr.read m).settleCeiling m.power })
    else .next s
  else .fault .beyondRatings

/-- STATE_CHANGE_COMPLETE (R347). -/
def execStateChangeComplete (s : State) : Host.Outcome State Fault Refusal :=
  match s.pwr.target with
  | some t => if s.pwrActive then .next (State.follow { s with pwr := { s.pwr with cur := t, target := none } }) else .next s
  | none => .next s

/-! ## Supply dips (R355 to R359) -/

/-- SUPPLY_WARNING_CROSSING (R355): the root halves; an episode begins at the first crossing. -/
def execSupplyWarningCrossing (rail mv : Nat) (s : State) : Host.Outcome State Fault Refusal :=
  if s.life.aux = true ∧ s.life.waiting = false ∧ mv < warningMv rail then
    let low := if s.pwr.low.contains rail then s.pwr.low else s.pwr.low ++ [rail]
    match s.pwr.episode with
    | some e => .next { s with pwr := { s.pwr with dip := true, low := low, episode := some (e.cross rail mv) } }
    | none => .next { s with pwr := { s.pwr with
        dip := true, low := low, nDip := satAdd 32 s.pwr.nDip 1, dipAt := some s.clk.tick
        episode := some ⟨2 ^ rail, mv, rail, 0, 1⟩ } }
  else .next s

/-- SUPPLY_RETURN_TIMER (R356): the root returns to full speed and the episode ends. -/
def execSupplyReturnTimer (s : State) : Host.Outcome State Fault Refusal :=
  match s.pwr.episode, s.pwr.dipAt with
  | some e, some at_ =>
    let t := { s with pwr := { s.pwr with dip := false, low := [], episode := none, dipAt := none, calm := some 5 } }
    .next (t.endEpisode { e with durUs := (s.clk.tick - at_) / ticksPerUs } at_)
  | _, _ => .next s

/-- SUPPLY_DIP_REPORT_TIMER (R359). -/
def execSupplyDipReportTimer (s : State) : Host.Outcome State Fault Refusal :=
  match s.pwr.merged with
  | some e => .next (s.sendDip e)
  | none => .next s

/-! ## Temperature (R360 to R363) -/

/-- Whether the latest readings call for a lowering: Tj at 100 °C or a stack at 90 °C (Table 12.6). -/
def Power.hot (p : Power) : Bool := (p.tj.any fun x => decide (800 ≤ x)) || p.stk.any fun x => decide (720 ≤ x)

/-- Whether the latest readings are cool: Tj at most 97 °C and every stack at most 87 °C (Table 12.6). -/
def Power.cool (p : Power) : Bool := (p.tj.all fun x => decide (x ≤ 776)) && p.stk.all fun x => decide (x ≤ 696)

/-- THERMAL_COMPARATOR_105 (R361): hardware sets the thermal ceiling to `P4`. -/
def execThermalComparator105 (die : Nat) (temp : Int) (s : State) : Host.Outcome State Fault Refusal :=
  if s.pwrActive ∧ 840 ≤ temp then .next (s.lowerThermal 4 (2, die, temp)) else .next s

/-- THERMAL_LOWER_TIMER (R361): one state below the current one while the readings are hot. -/
def execThermalLowerTimer (s : State) : Host.Outcome State Fault Refusal :=
  if s.pwrActive && s.pwr.hot then .next (s.lowerThermal (min 4 (s.pwr.cur + 1)) (s.pwr.source 800)) else .next s

/-- THERMAL_RAISE_TIMER (R361): one state higher after 10 ms of cool readings. -/
def execThermalRaiseTimer (s : State) : Host.Outcome State Fault Refusal :=
  if s.pwrActive ∧ s.pwr.cool = true ∧ 0 < s.pwr.cThm then
    let d := hottestDie s.pwr.tj
    .next (s.setThermal (s.pwr.cThm - 1) (0, d.1, d.2))
  else .next s

/-- THERMAL_TRIP (R363): `THERMTRIP_N` goes low and the core clocks stop as for `EPO_N`. -/
def execThermalTrip (temp : Int) (s : State) : Host.Outcome State Fault Refusal :=
  if s.life.aux = true ∧ s.pwr.trip = false then
    .next (State.stopCore { s with pwr := { s.pwr with trip := true } } (pack 32 [(0, 0, 8, 3), (1, 0, 16, toTwos 16 temp)]))
  else .next s

/-! ## PWRBRK_N and EPO_N (R351, R364, R453) -/

/-- PWRBRK_N_ASSERT (R351): the brake ceiling is `P4` while the pin is low. -/
def execPwrbrkNAssert (ns : Nat) (s : State) : Host.Outcome State Fault Refusal :=
  if s.life.aux then
    if s.pulseActs ns then .next (State.follow { s.used with pwr := { s.pwr with brake := true, brakePin := true } })
    else .next s.used
  else .next s

/-- PWRBRK_RELEASE_TIMER (R351): 1 ms after the pin has risen the brake ceiling is released. -/
def execPwrbrkReleaseTimer (s : State) : Host.Outcome State Fault Refusal :=
  if s.pwr.brake then .next (State.follow { s with pwr := { s.pwr with brake := false, brakePin := false } }) else .next s

/-- EPO_N (R364, R453). -/
def execEpoN (ns : Nat) (s : State) : Host.Outcome State Fault Refusal :=
  if s.life.aux = true ∧ s.pwr.stopped = false then
    if s.pulseActs ns then .next (s.used.stopCore (pack 32 [(0, 0, 8, 2)])) else .next s.used
  else .next s

/-! ## Metrizor (R366 to R372) -/

/-- METRIZOR_SAMPLE (R366): deferred while a dip, a throttle or a change of state is in progress; one that could not be
taken for 600 s is skipped and counted. The first is taken in tasting stage 9 (Table 13.3). -/
def execMetrizorSample (drifts : List Int) (s : State) : Host.Outcome State Fault Refusal :=
  if (s.life.dev = .opened ∨ s.life.stage = 9) ∧ s.pwr.stopped = false then
    let z := if s.mtz.late then { s.mtz with skipped := satAdd 32 s.mtz.skipped 1, deferred := none } else s.mtz
    if s.pwr.dip || s.pwr.throttle || s.pwr.target.isSome then
      .next { s with mtz := { z with deferred := some (z.deferred.getD z.openSec) } }
    else .next { s with mtz := z.take drifts }
  else .next s

/-- VINTAGE_PLAN_TIMER (R368). -/
def execVintagePlanTimer (s : State) : Host.Outcome State Fault Refusal :=
  if s.life.dev = .opened ∧ s.pwr.stopped = false then .next s.planVintage else .next s

/-- VINTAGE_AUTO_COMMIT (R371): a device-wide `WAIT` commit by firmware, only while no device-wide transaction is open. -/
def execVintageAutoCommit (s : State) : Host.Outcome State Fault Refusal :=
  if s.life.dev = .opened ∧ s.pwr.stopped = false ∧ s.mtz.planned.isSome = true ∧ s.cfg.txn.isNone = true ∧ s.cfg.commit.isNone = true then
    .next (State.settleDevice { s with cfg := { s.cfg with autoVintage := true } } none)
  else .next s

/-! ## The commands of Table 11.11 -/

/-- The mean of the samples held, in 0.1 W (Table 12.9). -/
def Power.mean (p : Power) : Nat := if p.history.length = 0 then 0 else p.history.sum / p.history.length / 1000

/-- `DOMMV`: base voltage plus guard band of the state in which the device runs (R350). -/
def State.domainMv (s : State) (d v : Nat) : Nat :=
  (Config.baseUv d v s.pwr.cur + 100 * s.mtz.current.guard.getD (5 * d + s.pwr.cur) 0) / 1000

/-- The report of Table 12.9. -/
def State.powerReport (s : State) : Bytes :=
  let p := s.pwr
  pack 128 ([(0, 0, 3, p.cur), (0, 3, 1, b2n p.dip), (0, 4, 1, b2n (decide (0 < p.cThm))), (0, 5, 1, b2n p.brake), (0, 6, 1, b2n (decide (0 < p.cPow))),
      (1, 0, 3, p.cPow), (1, 3, 3, p.cThm), (2, 0, 16, s.mtz.current.epoch), (4, 0, 32, p.mean), (8, 0, 32, p.peak / 1000),
      (88, 0, 32, p.nDip), (92, 0, 32, p.nLim), (96, 0, 32, p.nThm)]
    ++ (List.range 4).map (fun r => (12 + 4 * r, 0, 16, p.railMv.getD r 0))
    ++ (List.range 4).map (fun r => (14 + 4 * r, 0, 16, p.railDa.getD r 0))
    ++ (List.range 16).map (fun i => (32 + 2 * i, 0, 16, s.domainMv (i / 4) (i % 4)))
    ++ (List.range 4).map (fun d => (64 + 2 * d, 0, 16, toTwos 16 (hottest ((p.tj.drop (sensorsPerDie * d)).take sensorsPerDie)).2))
    ++ (List.range 16).map (fun j => (72 + j, 0, 8, toTwos 8 (p.stk.getD j 0 / 8)))
    ++ (List.range 5).map (fun i => (100 + 4 * i, 0, 32, p.inState.getD i 0 / 100000)))

/-- A report written to a command's buffer as far as `BLEN` allows; `RESULT` counts the bytes. -/
def doneReport (c : Cmd) (b : Bytes) (s : State) : State :=
  let w := b.take (fld c.desc 20 0 32)
  doneBuffer c w (le 4 w.length) s

/-- `PWR_QUERY` after the common checks. -/
def doPwrQuery (c : Cmd) (s : State) : State := doneReport c s.powerReport s

/-- PWR_QUERY (R373). -/
def execPwrQuery (c : Cmd) (s : State) : Host.Outcome State Fault Refusal := .next (runCmd 0x0601 c doPwrQuery s)

/-- `MTZ_PLAN` after the common checks. -/
def doMtzPlan (c : Cmd) (s : State) : State := complete c stOk (evseqOf s s.recordPlan) (le 4 s.mtz.nextEpoch) s.planVintage

/-- MTZ_PLAN (R368). -/
def execMtzPlan (c : Cmd) (s : State) : Host.Outcome State Fault Refusal := .next (runCmd 0x0602 c doMtzPlan s)

/-- The vintage of an epoch with its `VSTATE`; 0xFFFF_FFFF is the current one (R372, Table 11.11). -/
def Metrizor.find (z : Metrizor) (epoch : Nat) : Option (Nat × Vintage) :=
  if epoch = 0xFFFFFFFF ∨ epoch = z.current.epoch then some (0, z.current)
  else match z.planned.filter fun v => v.epoch == epoch with
    | some v => some (1, v)
    | none => (z.past.find? fun v => v.epoch == epoch).map fun v => (2, v)

/-- The report of Table 12.8, in two parts of 256 and 4,096 bytes. -/
def Vintage.report (v : Vintage) (st : Nat) : Bytes :=
  pack 256 ([(0, 0, 32, v.epoch), (4, 0, 32, v.planHrs), (8, 0, 2, st), (8, 2, 1, b2n v.exhaust), (10, 0, 16, v.invalid), (12, 0, 32, v.skipped)]
    ++ (List.range 20).map (fun i => (16 + i, 0, 8, v.guard.getD i 0 / 25))
    ++ (List.range 4).map (fun d => (36 + d, 0, 5, v.retired.getD d 0))
    ++ (List.range 20).map (fun i => (64 + 4 * i, 0, 32, v.remain.getD i 0))
    ++ (List.range 4).map (fun d => (144 + 2 * d, 0, 16, toTwos 16 (v.worst.getD d 0 / 2))))
  ++ monitors.flatMap fun m => le 4 (toTwos 16 (v.drift.getD m 0) + 2 ^ 16 * b2n (isRo m) + 2 ^ 17 * b2n (v.bad.contains m))

/-- `MTZ_QUERY` after the common checks. -/
def doMtzQuery (c : Cmd) (s : State) : State :=
  match s.mtz.find (fld c.desc 16 0 32) with
  | some (st, v) => doneReport c (v.report st) s
  | none => refuse c stVintage s

/-- MTZ_QUERY (R372). -/
def execMtzQuery (c : Cmd) (s : State) : Host.Outcome State Fault Refusal := .next (runCmd 0x0603 c doMtzQuery s)

end Sys2Proof.Machine
end

