-- ==== Sys2Proof/Machine/Sideband.lean ====
section
/-! DEFINITION. The SPDM responder, the DOE mailboxes and the MCTP endpoint (R413, R416, R424). -/

namespace Sys2Proof.Machine

/-! ## SPDM (R424) -/

/-- Whether a transport reaches the responder: port 0's mailbox, port 1's, MCTP. -/
def State.transportUp (s : State) (transport : Nat) : Bool :=
  match transport with
  | 0 => s.hostUp
  | 1 => s.life.straps.cxlBif && s.cxl.up1 && s.life.aux
  | _ => s.life.dev != .off

/-- A negotiation: only the exact algorithms of R424 are offered; without them the transport gets no session. -/
def State.negotiate (s : State) (transport : Nat) (ok : Bool) : State :=
  let others := s.ident.negotiated.filter (· != transport)
  { s with ident := { s.ident with negotiated := if ok then others ++ [transport] else others } }

/-- A measurement by index (Table 15.3). -/
def Ident.measurement (x : Ident) (i : Nat) : Option Bytes := if i = 0 then none else x.measurements[i - 1]?

/-- An answer of the responder: what the model holds of it, then the bytes that FIPS 204 and SPDM add (log 8). -/
def State.spdmReply (s : State) (r : SpdmReq) (b : Bytes) : State := s.used.reply replyData (b ++ Config.spdmBytes s.free r)

/-! ## IDE_KM (R411) -/

/-- Change a stream of a port. -/
def Cxl.modIde (x : Cxl) (port : Nat) (kind : IdeKind) (f : IdeStream → IdeStream) : Cxl :=
  { x with ide := x.ide.map fun e => if e.port = port ∧ e.kind = kind then f e else e }

/-- A stream of a port. -/
def Cxl.ideStream (x : Cxl) (port : Nat) (kind : IdeKind) : Option IdeStream := x.ide.find? fun e => e.port == port && e.kind == kind

/-- A key for a key set, which is not in use until a switch names it. -/
def IdeStream.program (e : IdeStream) (id keySet : Nat) (skid : Bool) (key : Bytes) : IdeStream :=
  { e with id := id, skid := skid, keys := kput e.keys keySet key }

/-- The switch to a key set: packets in flight under the other set still decipher, so no traffic is lost. Keys are set again, which
ends the insecure state (R412). -/
def Cxl.ideGo (x : Cxl) (port : Nat) (e : IdeStream) (keySet : Nat) : Cxl :=
  { x.modIde port e.kind fun e => { e with inUse := some keySet } with insecure := x.insecure.filter (· != e.id) }

/-- The end of the use of a key set; its key goes. -/
def IdeStream.stop (e : IdeStream) (keySet : Nat) : IdeStream :=
  { e with keys := kdel e.keys keySet, inUse := if e.inUse = some keySet then none else e.inUse }

/-- An IDE_KM message for a port's streams; none where it names no stream or no key set that it can act on (log 38). -/
def Cxl.ideKm (x : Cxl) (port : Nat) (r : IdeReq) : Option Cxl :=
  match r with
  | .program kind id keySet skid key =>
    if (x.ideStream port kind).isSome ∧ id < 256 ∧ keySet < 2 ∧ key.length = 32 then
      some (x.modIde port kind fun e => e.program id keySet skid key)
    else none
  | .go kind keySet => match x.ideStream port kind with
    | some e => if (kget e.keys keySet).isSome then some (x.ideGo port e keySet) else none
    | none => none
  | .stop kind keySet =>
    if (x.ideStream port kind).isSome ∧ keySet < 2 then some (x.modIde port kind fun e => e.stop keySet) else none

/-- IDE_KM runs only inside a secured session, over a port's mailbox (R411, R424). -/
def State.ideKm (s : State) (transport : Nat) (secured : Bool) (r : IdeReq) : State :=
  match if secured ∧ 0 < s.ident.sessions ∧ transport < 2 then s.cxl.ideKm transport r else none with
  | some x => State.spdmReply { s with cxl := x } (.ideKm secured r) []
  | none => s.refuseOpen

/-! ## Requests -/

/-- What the responder does with a request. -/
def State.spdm (s : State) (transport : Nat) (r : SpdmReq) : State :=
  match r with
  | .negotiate mldsa shake mlkem aes =>
    let ok := mldsa && shake && mlkem && aes
    let t := s.negotiate transport ok
    if ok then t.spdmReply r [] else t.refuseOpen
  | .session =>
    if s.ident.negotiated.contains transport = true ∧ s.ident.sessions < 4 then
      State.spdmReply { s with ident := { s.ident with sessions := s.ident.sessions + 1 } } r []
    else s.refuseOpen
  | .endSession =>
    if 0 < s.ident.sessions then State.reply { s with ident := { s.ident with sessions := s.ident.sessions - 1 } } replyDone []
    else s.refuseOpen
  | .measurements i => match s.ident.measurement i with
    | some m => s.spdmReply r m
    | none => s.refuseOpen
  | .challenge => s.spdmReply r []
  | .certificate slot => if slot = 0 then s.spdmReply r [] else s.refuseOpen
  | .ideKm secured q => s.ideKm transport secured q

/-- SPDM_REQUEST (R424): before the verdict every request but MCTP control and PLDM is answered as busy (R416). -/
def execSpdmRequest (transport : Nat) (r : SpdmReq) (s : State) : Host.Outcome State Fault Refusal :=
  if s.transportUp transport then
    if s.vendorServed then .next (s.spdm transport r) else .next (s.reply replyBusy [])
  else .next s

/-! ## DOE (R413) -/

/-- The protocols of a port's mailbox: discovery, CMA/SPDM, secured CMA/SPDM, and on port 0 CXL table access. -/
def doeProtocols (port : Nat) : List Nat := if port = 0 then [0, 1, 2, 3] else [0, 1, 2]

/-- The entries of the CDAT (Table 14.6): handle, base and length; the two pairs of advertised figures; handle and
usage (log 33). -/
def cdatEntry (i : Nat) : Option Bytes :=
  match i with
  | 0 => some (le 1 0 ++ le 8 0 ++ le 8 (240 * 2 ^ 40))
  | 1 => some (le 4 700 ++ le 4 700)
  | 2 => some (le 4 118000 ++ le 4 118000)
  | 3 => some (le 1 0)
  | _ => none

/-- DOE_REQUEST (R413): port 1's mailbox serves no CDAT. -/
def execDoeRequest (port : Nat) (r : DoeReq) (s : State) : Host.Outcome State Fault Refusal :=
  if s.transportUp port then
    match r with
    | .discovery => .next (s.reply replyData ((doeProtocols port).flatMap (le 1)))
    | .cdat i => match if port = 0 then cdatEntry i else none with
      | some b => .next (s.reply replyData b)
      | none => .next s.refuseOpen
  else .next s

/-! ## PLDM and MCTP control (R416) -/

/-- What a sensor reads: temperatures in 0.125 °C, mV, 0.1 A, package power in 0.1 W, the device state. -/
def State.sensor (s : State) (r : PldmReq) : Bytes :=
  match r with
  | .control => []
  | .sensorTj => le 2 (toTwos 16 (hottest s.pwr.tj).2)
  | .sensorStack j => le 2 (toTwos 16 (s.pwr.stk.getD j 0))
  | .sensorRailMv i => le 2 (s.pwr.railMv.getD i 0)
  | .sensorRailA i => le 2 (s.pwr.railDa.getD i 0)
  | .sensorPower => le 4 (s.pwr.history.headD 0 / 1000)
  | .sensorState => le 1 s.life.dev.code

/-- PLDM_REQUEST (R416): answered in every state except `OFF`. -/
def execPldmRequest (r : PldmReq) (s : State) : Host.Outcome State Fault Refusal :=
  if s.life.dev = .off then .next s else .next (s.reply replyData (s.sensor r))

/-! ## TMI commands over the sideband endpoint (R416) -/

/-- What the endpoint accepts: `FABRIC_SET`, and the commands marked C. -/
def sidebandAccepts (op : Nat) : Bool :=
  op == 0x0501 || (match catalogue op with | some e => e.corked | none => false)

/-- The body of an accepted command. -/
def sidebandBody (op : Nat) : Cmd → State → State :=
  match op with
  | 0x0001 => doDevInfo
  | 0x0005 => doStatsRead
  | 0x0501 => doFabricSet
  | 0x0504 => doDvqPortQuery
  | 0x0601 => doPwrQuery
  | 0x0603 => doMtzQuery
  | 0x0604 => doFwBankWrite
  | 0x0605 => doFwBankSelect
  | 0x0606 => doEvrRead
  | 0x0607 => doEvrFreeze
  | 0x0608 => doEvrNonce
  | _ => doEvrClear

/-- SIDEBAND_TMI_COMMAND (R416): one at a time; busy in `TASTING`; any other opcode is refused. -/
def execSidebandTmiCommand (c : Cmd) (s : State) : Host.Outcome State Fault Refusal :=
  let d := { c with src := CmdSrc.sideband }
  if s.life.dev = .off ∨ (s.tmi.running.any fun r => r.src == CmdSrc.sideband) = true then .next s
  else if s.life.dev = .tasting then .next (refuse d stBusy s)
  else if sidebandAccepts d.op then .next (runCmd d.op d (sidebandBody d.op) s)
  else .next (refuse d stOpcode s)

end Sys2Proof.Machine
end

