-- ==== Sys2Proof/Machine/Dispatch.lean ====
section
/-! DEFINITION. One arm per command: a call of its meaning, or a refusal by name. -/

namespace Sys2Proof.Machine

def exec (i : Instr) (s : State) : Host.Outcome State Fault Refusal :=
  match i with
  | .devInfo c => Sys2Proof.Machine.execDevInfo c s
  | .ringCreate c => Sys2Proof.Machine.execRingCreate c s
  | .ringDestroy c => Sys2Proof.Machine.execRingDestroy c s
  | .noticeMask c => Sys2Proof.Machine.execNoticeMask c s
  | .statsRead c => Sys2Proof.Machine.execStatsRead c s
  | .memMap c => Sys2Proof.Machine.execMemMap c s
  | .memUnmap c => Sys2Proof.Machine.execMemUnmap c s
  | .memQuery c => Sys2Proof.Machine.execMemQuery c s
  | .memPin c => Sys2Proof.Machine.execMemPin c s
  | .memUnpin c => Sys2Proof.Machine.execMemUnpin c s
  | .hostTierAdd c => Sys2Proof.Machine.execHostTierAdd c s
  | .hostTierRemove c => Sys2Proof.Machine.execHostTierRemove c s
  | .dmaCopy c => Sys2Proof.Machine.execDmaCopy c s
  | .cuveeLoad c => Sys2Proof.Machine.execCuveeLoad c s
  | .cuveeSwap c => Sys2Proof.Machine.execCuveeSwap c s
  | .cuveeUnload c => Sys2Proof.Machine.execCuveeUnload c s
  | .caskLoad c => Sys2Proof.Machine.execCaskLoad c s
  | .caskEvict c => Sys2Proof.Machine.execCaskEvict c s
  | .partReset c => Sys2Proof.Machine.execPartReset c s
  | .partResume c => Sys2Proof.Machine.execPartResume c s
  | .partInspect c => Sys2Proof.Machine.execPartInspect c s
  | .partQuery c => Sys2Proof.Machine.execPartQuery c s
  | .sringCreate c => Sys2Proof.Machine.execSringCreate c s
  | .sringDestroy c => Sys2Proof.Machine.execSringDestroy c s
  | .reqQuery c => Sys2Proof.Machine.execReqQuery c s
  | .tenantKeySet c => Sys2Proof.Machine.execTenantKeySet c s
  | .fabricSet c => Sys2Proof.Machine.execFabricSet c s
  | .fabricPartSet c => Sys2Proof.Machine.execFabricPartSet c s
  | .fabricPartSwitch => Sys2Proof.Machine.execFabricPartSwitch s
  | .barrierSet c => Sys2Proof.Machine.execBarrierSet c s
  | .dvqPortQuery c => Sys2Proof.Machine.execDvqPortQuery c s
  | .dvqPortReset c => Sys2Proof.Machine.execDvqPortReset c s
  | .pwrQuery c => Sys2Proof.Machine.execPwrQuery c s
  | .mtzPlan c => Sys2Proof.Machine.execMtzPlan c s
  | .mtzQuery c => Sys2Proof.Machine.execMtzQuery c s
  | .fwBankWrite c => Sys2Proof.Machine.execFwBankWrite c s
  | .fwBankSelect c => Sys2Proof.Machine.execFwBankSelect c s
  | .evrRead c => Sys2Proof.Machine.execEvrRead c s
  | .evrFreeze c => Sys2Proof.Machine.execEvrFreeze c s
  | .evrNonce c => Sys2Proof.Machine.execEvrNonce c s
  | .evrClear c => Sys2Proof.Machine.execEvrClear c s
  | .cfgBegin c => Sys2Proof.Machine.execCfgBegin c s
  | .cfgSet c => Sys2Proof.Machine.execCfgSet c s
  | .cfgCommit c => Sys2Proof.Machine.execCfgCommit c s
  | .cfgCommitDeadline target => Sys2Proof.Machine.execCfgCommitDeadline target s
  | .cfgAbort c => Sys2Proof.Machine.execCfgAbort c s
  | .cfgRead c => Sys2Proof.Machine.execCfgRead c s
  | .cfgAutoAbort target => Sys2Proof.Machine.execCfgAutoAbort target s
  | .commandDoorbell pair value => Sys2Proof.Machine.execCommandDoorbell pair value s
  | .completionDoorbell pair value => Sys2Proof.Machine.execCompletionDoorbell pair value s
  | .commandFetch pair r => Sys2Proof.Machine.execCommandFetch pair r s
  | .commandStart => Sys2Proof.Machine.execCommandStart s
  | .classPromotion pair => Sys2Proof.Machine.execClassPromotion pair s
  | .vectorCoalesceTimer pair => Sys2Proof.Machine.execVectorCoalesceTimer pair s
  | .noticeHeldDeliver => Sys2Proof.Machine.execNoticeHeldDeliver s
  | .p0Arm value => Sys2Proof.Machine.execP0Arm value s
  | .p0Disarm value => Sys2Proof.Machine.execP0Disarm value s
  | .ctlIntStatusWrite value hwSet => Sys2Proof.Machine.execCtlIntStatusWrite value hwSet s
  | .ctlIntEnableWrite value => Sys2Proof.Machine.execCtlIntEnableWrite value s
  | .sringDb port1 output ring value => Sys2Proof.Machine.execSringDb port1 output ring value s
  | .evrWinSeqWrite value => Sys2Proof.Machine.execEvrWinSeqWrite value s
  | .evrWinNext value => Sys2Proof.Machine.execEvrWinNext value s
  | .evrWinFetchDone => Sys2Proof.Machine.execEvrWinFetchDone s
  | .ctlTickLowRead => Sys2Proof.Machine.execCtlTickLowRead s
  | .registerWrite offset width value => Sys2Proof.Machine.execRegisterWrite offset width value s
  | .managerHeartbeat => Sys2Proof.Machine.execManagerHeartbeat s
  | .firmwareHeartbeat => Sys2Proof.Machine.execFirmwareHeartbeat s
  | .uopIssue tile pops sends errs => Sys2Proof.Machine.execUopIssue tile pops sends errs s
  | .pressOperation tile cask uop microTile orow ocol ac a b k0 n upset errs => Sys2Proof.Machine.execPressOperation tile cask uop microTile orow ocol ac a b k0 n upset errs s
  | .pressVatWrite tile ac errs => Sys2Proof.Machine.execPressVatWrite tile ac errs s
  | .vatClear tile cask microTiles x => Sys2Proof.Machine.execVatClear tile cask microTiles x s
  | .scaleFinderDrain tile cask uop orow ocol src fmt stochastic codeAddr scaleAddr ac upset errs => Sys2Proof.Machine.execScaleFinderDrain tile cask uop orow ocol src fmt stochastic codeAddr scaleAddr ac upset errs s
  | .conversionDrain tile cask uop orow ocol src f ac upset errs => Sys2Proof.Machine.execConversionDrain tile cask uop orow ocol src f ac upset errs s
  | .shaperFunction tile cask uop orow ocol fn f g dst ac upset => Sys2Proof.Machine.execShaperFunction tile cask uop orow ocol fn f g dst ac upset s
  | .smx tile cask uop orow ocol n f g dst ac upset => Sys2Proof.Machine.execSmx tile cask uop orow ocol n f g dst ac upset s
  | .queuePop tile cask queue errs => Sys2Proof.Machine.execQueuePop tile cask queue errs s
  | .tokenSend tile cask edge data => Sys2Proof.Machine.execTokenSend tile cask edge data s
  | .streamRingPush tile cask engine data => Sys2Proof.Machine.execStreamRingPush tile cask engine data s
  | .streamRingPop tile cask engine errs => Sys2Proof.Machine.execStreamRingPop tile cask engine errs s
  | .shadowWrite tile cask engine desc sameFc => Sys2Proof.Machine.execShadowWrite tile cask engine desc sameFc s
  | .rotate tile cask plan queue edge errs => Sys2Proof.Machine.execRotate tile cask plan queue edge errs s
  | .stepEnd tile cask => Sys2Proof.Machine.execStepEnd tile cask s
  | .endList tile cask => Sys2Proof.Machine.execEndList tile cask s
  | .tallyRequestIssue tile counter count => Sys2Proof.Machine.execTallyRequestIssue tile counter count s
  | .tallyRequest tile seq counter epoch count => Sys2Proof.Machine.execTallyRequest tile seq counter epoch count s
  | .tallyGrant tile seq grant => Sys2Proof.Machine.execTallyGrant tile seq grant s
  | .tallyResendTimer tile => Sys2Proof.Machine.execTallyResendTimer tile s
  | .trapMessage part reports => Sys2Proof.Machine.execTrapMessage part reports s
  | .memoryErrorReport tile cask store addr syn scrub => Sys2Proof.Machine.execMemoryErrorReport tile cask store addr syn scrub s
  | .graphFault part reports => Sys2Proof.Machine.execGraphFault part reports s
  | .tileIdleReport part tile => Sys2Proof.Machine.execTileIdleReport part tile s
  | .stepEndReport part tile => Sys2Proof.Machine.execStepEndReport part tile s
  | .partitionRestart part => Sys2Proof.Machine.execPartitionRestart part s
  | .flitReceive tile port rim fc err => Sys2Proof.Machine.execFlitReceive tile port rim fc err s
  | .flitForward tile port rim fc => Sys2Proof.Machine.execFlitForward tile port rim fc s
  | .hopCreditReturn tile port vc rim reserved => Sys2Proof.Machine.execHopCreditReturn tile port vc rim reserved s
  | .meshReplayRequest tile port vc rim => Sys2Proof.Machine.execMeshReplayRequest tile port vc rim s
  | .tokenArrival tile flit => Sys2Proof.Machine.execTokenArrival tile flit s
  | .e2eCreditReturn tile flit => Sys2Proof.Machine.execE2eCreditReturn tile flit s
  | .creditReturnTimer tile cask queue => Sys2Proof.Machine.execCreditReturnTimer tile cask queue s
  | .steeringPairing tile cask errs => Sys2Proof.Machine.execSteeringPairing tile cask errs s
  | .steeredTokenSend tile cask pair => Sys2Proof.Machine.execSteeredTokenSend tile cask pair s
  | .scheduleClock tile => Sys2Proof.Machine.execScheduleClock tile s
  | .caskSwitch tile => Sys2Proof.Machine.execCaskSwitch tile s
  | .foldStepTimer part => Sys2Proof.Machine.execFoldStepTimer part s
  | .foldLead part => Sys2Proof.Machine.execFoldLead part s
  | .tilerDone part => Sys2Proof.Machine.execTilerDone part s
  | .streamIssue tile cask engine errs => Sys2Proof.Machine.execStreamIssue tile cask engine errs s
  | .readDataArrival tile cask engine slot line data => Sys2Proof.Machine.execReadDataArrival tile cask engine slot line data s
  | .writeAckArrival tile cask engine slot => Sys2Proof.Machine.execWriteAckArrival tile cask engine slot s
  | .tileScrub tile errs => Sys2Proof.Machine.execTileScrub tile errs s
  | .caskImageLineWrite part slot tileIndex line data found => Sys2Proof.Machine.execCaskImageLineWrite part slot tileIndex line data found s
  | .rimAccess a found mapA mapB held => Sys2Proof.Machine.execRimAccess a found mapA mapB held s
  | .demotionSelect die tier => Sys2Proof.Machine.execDemotionSelect die tier s
  | .decantComplete unit line found => Sys2Proof.Machine.execDecantComplete unit line found s
  | .cellarFullRecord => Sys2Proof.Machine.execCellarFullRecord s
  | .ageTick => Sys2Proof.Machine.execAgeTick s
  | .mapSweep unit => Sys2Proof.Machine.execMapSweep unit s
  | .patrolScrub tier frame line found => Sys2Proof.Machine.execPatrolScrub tier frame line found s
  | .submissionFetch ring r => Sys2Proof.Machine.execSubmissionFetch ring r s
  | .submit ring desc prompt => Sys2Proof.Machine.execSubmit ring desc prompt s
  | .cancel ring desc => Sys2Proof.Machine.execCancel ring desc s
  | .pause ring desc => Sys2Proof.Machine.execPause ring desc s
  | .resume ring desc => Sys2Proof.Machine.execResume ring desc s
  | .servingHostAccessFail what => Sys2Proof.Machine.execServingHostAccessFail what s
  | .hoOpen m => Sys2Proof.Machine.execHoOpen m s
  | .hoAccept ridx peerRidx pages => Sys2Proof.Machine.execHoAccept ridx peerRidx pages s
  | .hoRefusal ridx status busy => Sys2Proof.Machine.execHoRefusal ridx status busy s
  | .hoBusyRetryTimer ridx => Sys2Proof.Machine.execHoBusyRetryTimer ridx s
  | .kvship p => Sys2Proof.Machine.execKvship p s
  | .kvack port p => Sys2Proof.Machine.execKvack port p s
  | .hoCommit node ridx tag gen budget => Sys2Proof.Machine.execHoCommit node ridx tag gen budget s
  | .hoCommitComplete ridx ok => Sys2Proof.Machine.execHoCommitComplete ridx ok s
  | .hoAbort node ridx tag gen => Sys2Proof.Machine.execHoAbort node ridx tag gen s
  | .hoReceiverSilence ridx => Sys2Proof.Machine.execHoReceiverSilence ridx s
  | .fabricRequest r => Sys2Proof.Machine.execFabricRequest r s
  | .dvqPacketReceive port t p => Sys2Proof.Machine.execDvqPacketReceive port t p s
  | .dvqReplayRequest port seq => Sys2Proof.Machine.execDvqReplayRequest port seq s
  | .rd p => Sys2Proof.Machine.execRd p s
  | .wr p => Sys2Proof.Machine.execWr p s
  | .add32 p => Sys2Proof.Machine.execAdd32 p s
  | .add64 p => Sys2Proof.Machine.execAdd64 p s
  | .fadd32 p => Sys2Proof.Machine.execFadd32 p s
  | .fadd64 p => Sys2Proof.Machine.execFadd64 p s
  | .barArrive p => Sys2Proof.Machine.execBarArrive p s
  | .barRelease p => Sys2Proof.Machine.execBarRelease p s
  | .rddata port p => Sys2Proof.Machine.execRddata port p s
  | .ack port p => Sys2Proof.Machine.execAck port p s
  | .atdata port p => Sys2Proof.Machine.execAtdata port p s
  | .sereply port p => Sys2Proof.Machine.execSereply port p s
  | .err port p => Sys2Proof.Machine.execErr port p s
  | .fabricTimeout tag => Sys2Proof.Machine.execFabricTimeout tag s
  | .tagWithholdExpiry tag => Sys2Proof.Machine.execTagWithholdExpiry tag s
  | .barrierKeepalive home id answer => Sys2Proof.Machine.execBarrierKeepalive home id answer s
  | .barrierRoundLimit id => Sys2Proof.Machine.execBarrierRoundLimit id s
  | .portHoldEnd hop => Sys2Proof.Machine.execPortHoldEnd hop s
  | .lossOfSignal port => Sys2Proof.Machine.execLossOfSignal port s
  | .trainingRetryTimer port => Sys2Proof.Machine.execTrainingRetryTimer port s
  | .trainingNoSignal port => Sys2Proof.Machine.execTrainingNoSignal port s
  | .trainingTimeout port => Sys2Proof.Machine.execTrainingTimeout port s
  | .trainingComplete port lanes equal adapted => Sys2Proof.Machine.execTrainingComplete port lanes equal adapted s
  | .charterReceive port charter => Sys2Proof.Machine.execCharterReceive port charter s
  | .charterVerdict port accept => Sys2Proof.Machine.execCharterVerdict port accept s
  | .cableTemperaturePoll port warning alarm temp => Sys2Proof.Machine.execCableTemperaturePoll port warning alarm temp s
  | .cableCooldownExpiry port => Sys2Proof.Machine.execCableCooldownExpiry port s
  | .retimerLockPoll port locked => Sys2Proof.Machine.execRetimerLockPoll port locked s
  | .cableHotJoinOrLoss port inventory => Sys2Proof.Machine.execCableHotJoinOrLoss port inventory s
  | .cableBusSilent bus => Sys2Proof.Machine.execCableBusSilent bus s
  | .powerSample m => Sys2Proof.Machine.execPowerSample m s
  | .stateChangeComplete => Sys2Proof.Machine.execStateChangeComplete s
  | .supplyWarningCrossing rail mv => Sys2Proof.Machine.execSupplyWarningCrossing rail mv s
  | .supplyReturnTimer => Sys2Proof.Machine.execSupplyReturnTimer s
  | .supplyDipReportTimer => Sys2Proof.Machine.execSupplyDipReportTimer s
  | .railResetLevel rail => Sys2Proof.Machine.execRailResetLevel rail s
  | .supplyResetRecovery straps => Sys2Proof.Machine.execSupplyResetRecovery straps s
  | .thermalComparator105 die temp => Sys2Proof.Machine.execThermalComparator105 die temp s
  | .thermalLowerTimer => Sys2Proof.Machine.execThermalLowerTimer s
  | .thermalRaiseTimer => Sys2Proof.Machine.execThermalRaiseTimer s
  | .thermalTrip temp => Sys2Proof.Machine.execThermalTrip temp s
  | .pwrbrkNAssert ns => Sys2Proof.Machine.execPwrbrkNAssert ns s
  | .pwrbrkReleaseTimer => Sys2Proof.Machine.execPwrbrkReleaseTimer s
  | .epoN ns => Sys2Proof.Machine.execEpoN ns s
  | .metrizorSample drifts => Sys2Proof.Machine.execMetrizorSample drifts s
  | .vintagePlanTimer => Sys2Proof.Machine.execVintagePlanTimer s
  | .vintageAutoCommit => Sys2Proof.Machine.execVintageAutoCommit s
  | .vinAuxPowerUp => Sys2Proof.Machine.execVinAuxPowerUp s
  | .pwrokRise straps => Sys2Proof.Machine.execPwrokRise straps s
  | .perstNRise straps => Sys2Proof.Machine.execPerstNRise straps s
  | .perstNFall => Sys2Proof.Machine.execPerstNFall s
  | .vinAuxLoss held50ms => Sys2Proof.Machine.execVinAuxLoss held50ms s
  | .tastingStageComplete r => Sys2Proof.Machine.execTastingStageComplete r s
  | .tastingStageTimeout => Sys2Proof.Machine.execTastingStageTimeout s
  | .watchdogExpiry => Sys2Proof.Machine.execWatchdogExpiry s
  | .corkFinalTimer => Sys2Proof.Machine.execCorkFinalTimer s
  | .functionLevelReset => Sys2Proof.Machine.execFunctionLevelReset s
  | .port1Flr => Sys2Proof.Machine.execPort1Flr s
  | .cxlLinkDown => Sys2Proof.Machine.execCxlLinkDown s
  | .cxlLinkTrained port width rate cxl flit256 => Sys2Proof.Machine.execCxlLinkTrained port width rate cxl flit256 s
  | .gpfPhase1 => Sys2Proof.Machine.execGpfPhase1 s
  | .hostSnoop addr kind => Sys2Proof.Machine.execHostSnoop addr kind s
  | .cxlMemRequest hpa write metaShared found => Sys2Proof.Machine.execCxlMemRequest hpa write metaShared found s
  | .birsp addr => Sys2Proof.Machine.execBirsp addr s
  | .cxlCacheResponse addr r => Sys2Proof.Machine.execCxlCacheResponse addr r s
  | .hdmDecoderCommit base size skip ways biEnable => Sys2Proof.Machine.execHdmDecoderCommit base size skip ways biEnable s
  | .ideIntegrityFailure stream => Sys2Proof.Machine.execIdeIntegrityFailure stream s
  | .spdmRequest transport r => Sys2Proof.Machine.execSpdmRequest transport r s
  | .doeRequest port r => Sys2Proof.Machine.execDoeRequest port r s
  | .authNonce secured => Sys2Proof.Machine.execAuthNonce secured s
  | .ownClaim secured key => Sys2Proof.Machine.execOwnClaim secured key s
  | .ownTransfer secured key auth => Sys2Proof.Machine.execOwnTransfer secured key auth s
  | .ownRelease secured auth => Sys2Proof.Machine.execOwnRelease secured auth s
  | .ownCosign secured cosign auth => Sys2Proof.Machine.execOwnCosign secured cosign auth s
  | .nonceExpiry => Sys2Proof.Machine.execNonceExpiry s
  | .sidebandTmiCommand c => Sys2Proof.Machine.execSidebandTmiCommand c s
  | .pldmRequest r => Sys2Proof.Machine.execPldmRequest r s
  | .recordCommit => Sys2Proof.Machine.execRecordCommit s
  | .freezeExpiry sideband => Sys2Proof.Machine.execFreezeExpiry sideband s
  | .operatingTimeSave => Sys2Proof.Machine.execOperatingTimeSave s
  | .loadCompletion part ok => Sys2Proof.Machine.execLoadCompletion part ok s
  | .bankWriteCompletion => Sys2Proof.Machine.execBankWriteCompletion s
  | .generationHoldExpiry hop => Sys2Proof.Machine.execGenerationHoldExpiry hop s
  | .egressPacketSend port => Sys2Proof.Machine.execEgressPacketSend port s
  | .idleWordReceive port t => Sys2Proof.Machine.execIdleWordReceive port t s
  | .port1LinkDown => Sys2Proof.Machine.execPort1LinkDown s

end Sys2Proof.Machine
end

