-- ==== Sys2Proof/Safety.lean ====
section
/-! DEFINITION. What a safe run of the block is, in the terms the statements use. -/

namespace Sys2Proof

open Sys2Proof.Machine

/-- An outcome is safe: it is a next state, so the block neither stopped nor refused. -/
def Safe (o : Host.Outcome State Fault Refusal) : Prop := ∃ t, o = .next t

/-- The byte memories of a state are in canonical form. -/
abbrev memoriesWf (s : State) : Prop := s.mem.wf = true

/-- What a change of ownership changes: the owner's key, `COSIGN`, the owner epoch (R425). -/
def Machine.Ident.title (x : Ident) : Option Bytes × Bool × Nat := (x.owner, x.cosign, x.epoch)

/-- A TMI command of opcode `op` that the block serves now and that passes checks 1 to 5 of R318, common to all. -/
abbrev Accepted (op : Nat) (c : Cmd) (s : State) : Prop := c.op = op ∧ tmiServed c.src s = true ∧ tmiCheck c s = none

/-- A TMI command of opcode `op` that is served and that a common check refuses with status `st` (R318). -/
abbrev Refused (op : Nat) (c : Cmd) (s : State) (st : Nat) : Prop := c.op = op ∧ tmiServed c.src s = true ∧ tmiCheck c s = some st

/-- The rows that carry a TMI command: the opcode of chapter 11 and the constructor. -/
def tmiRows : List (Nat × (Cmd → Instr)) := [
  (0x0001, .devInfo), (0x0002, .ringCreate), (0x0003, .ringDestroy), (0x0004, .noticeMask), (0x0005, .statsRead),
  (0x0101, .memMap), (0x0102, .memUnmap), (0x0103, .memQuery), (0x0104, .memPin), (0x0105, .memUnpin),
  (0x0106, .hostTierAdd), (0x0107, .hostTierRemove), (0x0108, .dmaCopy),
  (0x0201, .cuveeLoad), (0x0202, .cuveeSwap), (0x0203, .cuveeUnload), (0x0204, .caskLoad), (0x0205, .caskEvict),
  (0x0206, .partReset), (0x0207, .partResume), (0x0208, .partInspect), (0x0209, .partQuery),
  (0x0301, .cfgBegin), (0x0302, .cfgSet), (0x0303, .cfgCommit), (0x0304, .cfgAbort), (0x0305, .cfgRead),
  (0x0401, .sringCreate), (0x0402, .sringDestroy), (0x0403, .reqQuery), (0x0404, .tenantKeySet),
  (0x0501, .fabricSet), (0x0502, .fabricPartSet), (0x0503, .barrierSet), (0x0504, .dvqPortQuery), (0x0505, .dvqPortReset),
  (0x0601, .pwrQuery), (0x0602, .mtzPlan), (0x0603, .mtzQuery), (0x0604, .fwBankWrite), (0x0605, .fwBankSelect),
  (0x0606, .evrRead), (0x0607, .evrFreeze), (0x0608, .evrNonce), (0x0609, .evrClear)]

end Sys2Proof
end

