-- ==== Sys2Proof/Certificates/Slice0/Obligations.lean ====
section
/-! DEFINITION. The statements for the provers. In every statement, `exec` and `step` are the model's and the spec's rules are those that OBLIGATIONS.json cites. -/

open Sys2Proof Sys2Proof.Machine

/-- A step with a command at the front of the queue runs exactly that command on the state whose queue is the rest: for every command, rest and state,
`step` of the state with `c :: rest` waiting is `exec c` of the state with `rest` waiting. -/
def Obligations.StepRunsFrontCommand : Prop :=
  ∀ (c : Instr) (rest : List Instr) (s : State), step { s with pending := c :: rest } = exec c { s with pending := rest }

/-- A step on an empty queue is one chip tick (log 1, the model's choice): the step answers a next state; with VIN_AUX present the 64-bit chip tick rises
by 1 and wraps, without it nothing changes; in either case the memory, the registers but the tasting count, the mailbox, the partitions, the fabric,
the power controller and the ownership stand as they did. -/
def Obligations.IdleStepIsOneChipTick : Prop :=
  ∀ s : State, s.pending = [] → ∃ t, step s = .next t
    ∧ t.clk.tick = (if s.life.aux then (s.clk.tick + 1) % 2 ^ 64 else s.clk.tick)
    ∧ (s.life.aux = false → t = s)
    ∧ t = { s with clk := t.clk, mtz := t.mtz, regs := { s.regs with tasteTicks := t.regs.tasteTicks } }

/-- No command touches the queue: whatever the command and the state, a next state that exec answers has the queue it was given. The queue is the model's
own field, so the rest of the queue runs in its order. -/
def Obligations.CommandsLeaveTheQueue : Prop :=
  ∀ (i : Instr) (s t : State), exec i s = .next t → t.pending = s.pending

/-- The canonical form of the byte memories (addresses strictly rising, no byte listed that an unlisted address reads as) is kept by every step, whichever
command runs or none. -/
def Obligations.StepKeepsMemoriesCanonical : Prop :=
  ∀ s t : State, memoriesWf s → step s = .next t → memoriesWf t

/-- The state after reset has its byte memories in canonical form, with nothing listed, and an empty queue. -/
def Obligations.ResetMemoriesCanonical : Prop :=
  memoriesWf State.reset ∧ State.reset.mem.near = [] ∧ State.reset.mem.cellar = [] ∧ State.reset.mem.hostTier = [] ∧ State.reset.pending = []

/-- Only OWN_CLAIM, OWN_TRANSFER, OWN_RELEASE and OWN_COSIGN change who owns the part: any other command leaves the owner's key, COSIGN and the owner
epoch as they were, whatever it answers as its next state. -/
def Obligations.OnlyOwnershipCommandsChangeTheOwner : Prop :=
  ∀ (i : Instr) (s t : State), exec i s = .next t →
    (match i with
      | .ownClaim _ _ | .ownTransfer _ _ _ | .ownRelease _ _ | .ownCosign _ _ _ => True
      | _ => t.ident.owner = s.ident.owner ∧ t.ident.cosign = s.ident.cosign ∧ t.ident.epoch = s.ident.epoch)

/-- Every step keeps this: a part that nobody owns has COSIGN clear. It holds at reset (second clause). -/
def Obligations.UnownedPartHasCosignClear : Prop :=
  (∀ s t : State, (s.ident.owner = none → s.ident.cosign = false) → step s = .next t → t.ident.owner = none → t.ident.cosign = false)
    ∧ State.reset.ident.owner = none ∧ State.reset.ident.cosign = false

/-- Which check refuses is decided in the order of R318: an opcode with no row is OPCODE_INVALID, or CORKED in the CORKED state; in CORKED a row not
served there is CORKED; then a reserved bit that is not 0, a buffer address that is no multiple of 64, or a parameter out of range is PARAM_INVALID;
then the target; then BUSY. A served TMI command that a common check of R318 refuses completes with that check's status and changes nothing else: for
each of the 45 TMI rows, with the row's opcode, the answer is the state completed with the status, no record and no result; and such a completion
leaves everything but the mailbox, the host writes, the vectors and the direct registers as it was. A TMI command whose source the block does not
serve now (a pair that does not exist, pair 0 not armed, a state other than OPEN or, for pair 0 and the sideband, CORKED) has no effect, and neither
has a row handed a command of another opcode. -/
def Obligations.TmiCommandsAreCheckedInOrder : Prop :=
  ((∀ (c : Cmd) (s : State), catalogue c.op = none → tmiCheck c s = some (if s.life.dev = .corked then 0x0005 else 0x0001))
    ∧ (∀ (c : Cmd) (s : State) (e : Entry), catalogue c.op = some e →
        (s.life.dev = .corked → e.corked = false → tmiCheck c s = some 0x0005)
        ∧ ((s.life.dev = .corked → e.corked = true) →
            (reservedZero c.desc (headerFields ++ e.params) = false ∨ c.buf % 64 ≠ 0 ∨ paramsOk c.op c.desc s = false → tmiCheck c s = some 0x0002)
            ∧ (reservedZero c.desc (headerFields ++ e.params) = true → c.buf % 64 = 0 → paramsOk c.op c.desc s = true →
                (targetOk e.kind c.src c.target s = false → tmiCheck c s = some 0x0003)
                ∧ (targetOk e.kind c.src c.target s = true →
                    (targetBusy c.op c.target (c.src, c.cid) s = true → tmiCheck c s = some 0x0004)
                    ∧ (targetBusy c.op c.target (c.src, c.cid) s = false → tmiCheck c s = none))))))
    ∧ ((∀ e ∈ tmiRows, ∀ (c : Cmd) (s : State) (st : Nat), Refused e.1 c s st →
      exec (e.2 c) s = .next (complete c st 0xFFFFFFFF [] s))
    ∧ (∀ (c : Cmd) (s : State) (st : Nat), ∃ t : State, complete c st 0xFFFFFFFF [] s = { s with tmi := t.tmi, out := t.out, regs := t.regs }))
    ∧ (∀ e ∈ tmiRows, ∀ (c : Cmd) (s : State), tmiServed c.src s = false ∨ c.op ≠ e.1 → exec (e.2 c) s = .next s)

/-- A completion entry reaches host memory before the status word that covers it: writing an entry of an existing pair appends exactly two host writes,
the 32 bytes at the completion tail and then the status word with the tail moved on by one, modulo the ring. -/
def Obligations.EntryIsWrittenBeforeItsStatusWord : Prop :=
  ∀ (s : State) (n : Nat) (p : Pair) (entry : Bytes) (notice : Bool), kget s.tmi.pairs n = some p →
    ∃ q : Pair, kget (s.writeEntry n entry notice).tmi.pairs n = some q
      ∧ q.ctail = (p.ctail + 1) % 2 ^ p.log2n
      ∧ (s.writeEntry n entry notice).out.writes = s.out.writes ++ [(0, p.qbase + 32 * p.ctail, entry), (0, p.sbase, q.status)]

/-- The device, ring and statistics commands, accepted, complete OK with their own effect and nothing else: DEV_INFO returns the stepping, the running
bank, the firmware version and compatibility class, the node ID and the state; RING_CREATE makes an absent pair from its descriptor; RING_DESTROY
closes an existing pair, which goes once its commands have completed; NOTICE_MASK replaces the mask; STATS_READ writes the group, clearing its counts
where asked. -/
def Obligations.DeviceAndRingCommandsComplete : Prop :=
  (∀ (c : Cmd) (s : State), Accepted 0x0001 c s →
      exec (.devInfo c) s = .next (done c (pack 16 [(0, 0, 8, 0xA1), (1, 0, 1, s.life.bank), (2, 0, 16, s.regs.fwinfo.toNat / 65536),
        (4, 0, 32, s.regs.fwver.toNat), (8, 0, 16, s.nodeId), (10, 0, 2, s.life.dev.code)]) s))
    ∧ (∀ (c : Cmd) (s : State), Accepted 0x0002 c s →
        (kget s.tmi.pairs (fld c.desc 16 0 4) = none →
          exec (.ringCreate c) s = .next (done c [] { s with tmi := { s.tmi with pairs := kput s.tmi.pairs (fld c.desc 16 0 4) (newPair c.desc) } }))
        ∧ ((kget s.tmi.pairs (fld c.desc 16 0 4)).isSome → exec (.ringCreate c) s = .next (refuse c 0x0004 s)))
    ∧ (∀ (c : Cmd) (s : State) (p : Pair), Accepted 0x0003 c s → kget s.tmi.pairs (fld c.desc 16 0 4) = some p → p.closing = false →
        exec (.ringDestroy c) s = .next (State.settlePairs { s with tmi := { s.tmi with
          running := (s.keepRunning c).tmi.running
          pairs := kput s.tmi.pairs (fld c.desc 16 0 4) { p with closing := true }
          destroying := s.tmi.destroying ++ [(fld c.desc 16 0 4, c.running s)] } }))
    ∧ (∀ (c : Cmd) (s : State), Accepted 0x0004 c s →
        exec (.noticeMask c) s = .next (done c [] { s with tmi := { s.tmi with mask := BitVec.ofNat 32 (fld c.desc 16 0 32) } }))
    ∧ (∀ (c : Cmd) (s : State) (b : Bytes), Accepted 0x0005 c s → s.statsGroup (fld c.desc 16 0 8) (fld c.desc 18 0 3) = some b → c.wr = .ok →
        exec (.statsRead c) s = .next (doneBuffer c b (le 4 b.length)
          (if fld c.desc 17 0 1 = 1 then s.clearStats (fld c.desc 16 0 8) (fld c.desc 18 0 3) else s)))

/-- Doorbells: on a live pair an index below the ring's size becomes the command tail, its commands taking this doorbell's place in the order of starting,
or the completion head; an index of N or more is ignored and raises RING_ERROR; on a pair that is not live the write is dropped and MBX_DB_DROP counts
it; a pair-0 doorbell in TASTING is held, the last value kept. Fetching, starting, promotion, moderation and held notices complete with their own
effect: COMMAND_FETCH, allowed, takes the descriptor and moves the head on, or on a failed read stops the pair; COMMAND_START, while one of the 16
control cores holds no work of that class or a higher one (log 15), starts the oldest command of the pair next in order, which joins those in
progress; CLASS_PROMOTION raises the order of a pair's oldest unstarted command; VECTOR_COALESCE_TIMER raises the vector of completions not yet
signalled; NOTICE_HELD_DELIVER delivers the oldest held notice. -/
def Obligations.DoorbellAndMailboxRowsComplete : Prop :=
  ((∀ (n : Nat) (v : BitVec 32) (s : State) (p : Pair), s.life.dev = .opened ∨ s.life.dev = .corked → s.pairLive n = true →
      kget s.tmi.pairs n = some p → v.toNat % 4096 < 2 ^ p.log2n →
      exec (.commandDoorbell n v) s = .next { s with tmi := { s.tmi with
        pairs := kput s.tmi.pairs n { p with
          tail := v.toNat % 4096
          rings := if v.toNat % 4096 = p.tail then p.rings else p.rings ++ [(v.toNat % 4096, s.tmi.order)] }
        order := s.tmi.order + 1 } }
      ∧ exec (.completionDoorbell n v) s = .next { s with tmi := { s.tmi with pairs := kput s.tmi.pairs n { p with qhead := v.toNat % 4096 } } })
    ∧ (∀ (n : Nat) (v : BitVec 32) (s : State) (p : Pair), s.life.dev = .opened ∨ s.life.dev = .corked → s.pairLive n = true →
      kget s.tmi.pairs n = some p → 2 ^ p.log2n ≤ v.toNat % 4096 →
      exec (.commandDoorbell n v) s = .next (s.ringError 0 n v.toNat) ∧ exec (.completionDoorbell n v) s = .next (s.ringError 1 n v.toNat))
    ∧ (∀ (n : Nat) (v : BitVec 32) (s : State), s.life.dev ≠ .off → ¬ (n = 0 ∧ s.life.dev = .tasting) → s.pairLive n = false →
      exec (.commandDoorbell n v) s = .next { s with regs := { s.regs with dbDrop := min (s.regs.dbDrop + 1) 0xFFFFFFFF } }
      ∧ exec (.completionDoorbell n v) s = .next { s with regs := { s.regs with dbDrop := min (s.regs.dbDrop + 1) 0xFFFFFFFF } })
    ∧ (∀ (v : BitVec 32) (s : State), s.life.dev = .tasting →
      exec (.commandDoorbell 0 v) s = .next { s with regs := { s.regs with heldCdb := some v.toNat } }
      ∧ exec (.completionDoorbell 0 v) s = .next { s with regs := { s.regs with heldQdb := some v.toNat } }))
    ∧ ((∀ (n : Nat) (d : Bytes) (s : State) (p : Pair), s.mayFetch n = true → kget s.tmi.pairs n = some p →
      ∃ t q, exec (.commandFetch n (.ok d)) s = .next t ∧ kget t.tmi.pairs n = some q
        ∧ q.chead = (p.chead + 1) % 2 ^ p.log2n ∧ q.fetched = p.fetched ++ [⟨(d ++ List.replicate 64 0).take 64, p.cls⟩]
        ∧ t.out.writes = s.out.writes ++ [(0, p.sbase, q.status)]
        ∧ t = { s with tmi := { s.tmi with pairs := kput s.tmi.pairs n q }, out := { s.out with writes := t.out.writes } })
    ∧ (∀ (n : Nat) (s : State), s.mayFetch n = true →
        exec (.commandFetch n .cxlError) s = .next (s.stopPair n) ∧ exec (.commandFetch n .poison) s = .next (s.stopPair n))
    ∧ (∀ (n : Nat) (p : Pair) (f : Fetched) (rest : List Fetched) (s : State), s.nextPair = some (n, p) → p.fetched = f :: rest →
        (s.tmi.running.filter fun r => r.cls ≤ p.effective).length < 16 →
        tmiCheck ⟨.pair n, f.desc, .ok [], .ok⟩ { s with tmi := { s.tmi with pairs := kmod s.tmi.pairs n fun p => p.started rest } } = none →
        ∃ r : Running, r.src = .pair n ∧ r.cid = fld f.desc 4 0 32 ∧ r.opcode = fld f.desc 0 0 16 ∧ r.target = fld f.desc 3 0 8 ∧
          exec .commandStart s = .next { s with tmi := { s.tmi with
            pairs := kmod s.tmi.pairs n fun p => p.started rest
            running := s.tmi.running ++ [r] } })
    ∧ (∀ (n : Nat) (p : Pair) (s : State), kget s.tmi.pairs n = some p → 1 < p.effective → p.fetched ≠ [] ∨ p.chead ≠ p.tail →
        exec (.classPromotion n) s = .next { s with tmi := { s.tmi with pairs := kput s.tmi.pairs n { p with promoted := p.promoted + 1 } } })
    ∧ (∀ (n : Nat) (p : Pair) (s : State), kget s.tmi.pairs n = some p → 0 < p.unsignalled →
        exec (.vectorCoalesceTimer n) s =
          .next (State.msix { s with tmi := { s.tmi with pairs := kput s.tmi.pairs n { p with unsignalled := 0 } } } p.vec))
    ∧ (∀ (nt : Notice) (rest : List Notice) (s : State), s.tmi.held = nt :: rest → s.noticeRoom = true →
        exec .noticeHeldDeliver s =
          .next (State.noticesLost (State.deliverNotice { s with tmi := { s.tmi with held := rest } } nt))))

/-- MEM_MAP, MEM_UNMAP, MEM_QUERY, MEM_PIN and MEM_UNPIN, accepted and with nothing that refuses them, complete OK with their effect on every unit of the
range, and a unit that refuses one refuses the whole range and changes nothing: MEM_MAP backs each unit, MEM_UNMAP releases each, MEM_QUERY writes the
entries of the range to the buffer, MEM_PIN takes the command interface's reference on each and brings each to the near tier, MEM_UNPIN drops that
reference. Host-tier extents and DMA: HOST_TIER_ADD with an extent that keeps R167 registers it last; HOST_TIER_REMOVE empties a registered extent and
releases it; DMA_COPY writes the host's bytes to the device range, or the device's bytes to host memory; an extent that breaks R167, or one not
registered, is refused. -/
def Obligations.UnitAndHostTierCommandsComplete : Prop :=
  ((∀ (c : Cmd) (s : State), Accepted 0x0101 c s →
      ((∀ u ∈ c.units, s.mem.entry u = none) → s.leavesWith c.units ≤ 6143 → c.units.length ≤ s.roomFrom (fld c.desc 28 0 2) →
        exec (.memMap c) s = .next (done c [] (c.units.foldl (fun t u => t.mapUnit (fld c.desc 28 0 2) false u) s)))
      ∧ ((∃ u ∈ c.units, (s.mem.entry u).isSome) → exec (.memMap c) s = .next (refuse c 0x0204 s)))
    ∧ (∀ (c : Cmd) (s : State), Accepted 0x0102 c s →
        ((∀ u ∈ c.units, ∃ e, s.mem.entry u = some e ∧ e.pin = false) →
          exec (.memUnmap c) s = .next (done c [] (c.units.foldl State.unmapUnit s).settlePeers))
        ∧ ((∃ u ∈ c.units, s.mem.entry u = none) → exec (.memUnmap c) s = .next (refuse c 0x000A s))
        ∧ ((∀ u ∈ c.units, (s.mem.entry u).isSome) → (∃ u ∈ c.units, ∃ e, s.mem.entry u = some e ∧ e.pin = true) →
          exec (.memUnmap c) s = .next (refuse c 0x0203 s)))
    ∧ (∀ (c : Cmd) (s : State), Accepted 0x0103 c s → c.wr = .ok →
        exec (.memQuery c) s = .next (doneBuffer c (c.units.flatMap fun u =>
          match s.mem.entry u with | some e => e.bytes | none => List.replicate 8 0) [] s))
    ∧ (∀ (c : Cmd) (s t : State), Accepted 0x0104 c s → (∀ u ∈ c.units, ∃ e, s.mem.entry u = some e ∧ (e.dfail = true → e.tier = 0)) →
        (s.pinnedUnits ++ s.reservedPins ++ c.units).dedup.length ≤ 12582912 → (∀ u ∈ c.units, s.cannotMove u = false) →
        (s.pinUnits c.units).allNear c.units = some t →
        exec (.memPin c) s = .next (done c [] t.settlePeers))
    ∧ (∀ (c : Cmd) (s : State), Accepted 0x0105 c s → (∀ u ∈ c.units, (s.mem.entry u).isSome) →
        exec (.memUnpin c) s = .next (done c [] (c.units.foldl State.refreshPin
          { s with mem := { s.mem with tmiPins := s.mem.tmiPins.filter fun u => !c.units.contains u } }))))
    ∧ ((∀ (c : Cmd) (s : State), Accepted 0x0106 c s →
      ((s.cxl.cxl = true ∧ s.extentOk (fld c.desc 16 0 64) (fld c.desc 24 0 64) = true →
        exec (.hostTierAdd c) s = .next (done c [] { s with mem := { s.mem with
          extents := s.mem.extents ++ [(fld c.desc 16 0 64, fld c.desc 24 0 64)] } }))
      ∧ (s.extentOk (fld c.desc 16 0 64) (fld c.desc 24 0 64) = false → exec (.hostTierAdd c) s = .next (refuse c 0x0205 s))))
    ∧ (∀ (c : Cmd) (s : State) (f n : Nat), Accepted 0x0107 c s → extentAt s.mem.extents (fld c.desc 16 0 64) 0 = some (f, n) →
        s.unitsIn f n = [] → (∀ d ∈ s.mem.decants, d.toTier = 2 → d.frame < f ∨ f + n ≤ d.frame) →
        exec (.hostTierRemove c) s = .next (done c [] (State.marks { s with mem := s.mem.dropExtent (fld c.desc 16 0 64) f n }).settlePeers))
    ∧ (∀ (c : Cmd) (s : State), Accepted 0x0107 c s → extentAt s.mem.extents (fld c.desc 16 0 64) 0 = none →
        exec (.hostTierRemove c) s = .next (refuse c 0x0205 s))
    ∧ (∀ (c : Cmd) (s : State) (n : Nat) (d : Bytes), Accepted 0x0108 c s → fld c.desc 32 0 31 = n → fld c.desc 36 0 1 = 0 → c.data = .ok d → d.length = n →
        (∀ u, u * 65536 < fld c.desc 24 0 48 + n → fld c.desc 24 0 48 / 65536 ≤ u → (s.mem.entry u).isSome) →
        (s.writeBytes .firmware (fld c.desc 24 0 48) d).1 = true →
        exec (.dmaCopy c) s = .next (done c [] (s.writeBytes .firmware (fld c.desc 24 0 48) d).2).settlePeers)
    ∧ (∀ (c : Cmd) (s : State) (n : Nat) (b : Bytes), Accepted 0x0108 c s → fld c.desc 32 0 31 = n → fld c.desc 36 0 1 = 1 → c.wr = .ok →
        (∀ u, u * 65536 < fld c.desc 24 0 48 + n → fld c.desc 24 0 48 / 65536 ≤ u → (s.mem.entry u).isSome) →
        (s.readBytes .firmware (fld c.desc 24 0 48) n).1 = some b →
        exec (.dmaCopy c) s =
          .next (done c [] ((s.readBytes .firmware (fld c.desc 24 0 48) n).2.hostWrite 0 (fld c.desc 16 0 64) b)).settlePeers))

/-- A unit that MEM_MAP backs has the entry that R164 gives a new unit (TOUCH the age tick, every flag clear), on the first tier at or below the one named
that has a free frame, and every line of it reads as zero; units other than it keep their entries. -/
def Obligations.NewlyBackedUnitReadsAsZero : Prop :=
  ∀ (s : State) (tier t u : Nat), u < unitSpace → s.mem.tierWithRoom tier = some t → s.mem.cacheOf u = none →
    (∃ f, (s.mapUnit tier false u).mem.entry u = some ⟨t, f, s.clk.age % 2 ^ 24, 0, false, false, false, false, false⟩)
    ∧ (∀ l < 1024, (s.mapUnit tier false u).mem.viewLine (65536 * u + 64 * l) = some (List.replicate 64 0))
    ∧ (∀ v, v ≠ u → (s.mapUnit tier false u).mem.entry v = s.mem.entry v)

/-- Accesses and decants, while the device is OPEN and its clocks run: RIM_ACCESS, of a request that has come in by its attach link and whose turn it is
(R304; any other requester's access begins at once), joins it to the order of its line; DEMOTION_SELECT, while a tier demotes, starts the decant of
the selected unit on its own engine; DECANT_COMPLETE ends the decant of a unit whose tracked lines the host has given back. Timers of the tiers:
AGE_TICK moves the age tick on modulo 2^32 and every request's WAIT by 1 up to 4,095; MAP_SWEEP holds an age beyond the cap at it; CELLAR_FULL_RECORD,
while the cellar is below its low mark and the host tier has no free frame, writes its record when it is due and marks the time; PATROL_SCRUB reads a
line and leaves a good one as it is but for its correction counts. -/
def Obligations.RimTierAndTimerRowsComplete : Prop :=
  ((∀ (a : Access) (found mapA mapB : Ecc) (held : Bool) (s : State), s.life.dev = .opened → s.pwr.stopped = false → s.mayBegin a = true →
      exec (.rimAccess a found mapA mapB held) s = .next (((s.takeRequest a).lookUp a.addr mapA mapB).access a found held).settlePeers)
    ∧ (∀ (die tier u : Nat) (s : State), s.life.dev = .opened → s.pwr.stopped = false → s.demoting tier = true → s.marks.victim tier = some u →
        u % 4 = die → s.mem.engineLoad u < 32 → 0 < s.mem.freeFrames (tier + 1) →
        exec (.demotionSelect die tier) s = .next ((s.marks.selected tier u).startDecant u (tier + 1)))
    ∧ (∀ (u line : Nat) (found : Ecc) (d : Decant) (s : State), s.life.dev = .opened → s.pwr.stopped = false → s.decantOf u = some d →
        (∀ x ∈ s.mem.biWait, x.1 / 1024 = u → x.2.2.req ≠ Requester.decant) →
        exec (.decantComplete u line found) s = .next (s.endDecant d line found).settlePeers))
    ∧ ((∀ s : State, s.life.aux = true → exec .ageTick s = .next { s with
      clk := { s.clk with age := (s.clk.age + 1) % 2 ^ 32 }
      srv := { s.srv with reqs := s.srv.reqs.map fun (e : Nat × Req) => (e.1, { e.2 with wait := min 4095 (e.2.wait + 1) }) } })
    ∧ (∀ (u : Nat) (e : UnitEntry) (s : State), s.life.dev = .opened → s.pwr.stopped = false → s.mem.entry u = some e →
        8388607 < (s.clk.age % 2 ^ 24 + 2 ^ 24 - e.touch) % 2 ^ 24 →
        exec (.mapSweep u) s = .next { s with mem := s.mem.setEntry u { e with touch := (s.clk.age + 2 ^ 24 - 8388607) % 2 ^ 24 } })
    ∧ (∀ s : State, s.life.dev = .opened → s.pwr.stopped = false → s.mem.freeFrames 1 < s.cfg.celLow → s.mem.freeFrames 2 = 0 → s.cellarFullDue = true →
        exec .cellarFullRecord s = .next (State.stage { s with mem := { s.mem with cellarFullAt := some s.clk.tick } } 0x000D (pack 32 [(0, 0, 8, 3)])))
    ∧ (∀ (tier frame line : Nat) (found : Ecc) (s : State), s.life.dev = .opened → s.pwr.stopped = false → tier < 2 → frame < nearFrames →
        (∀ u e, s.mem.unitOf tier frame = some u → s.mem.entry u = some e → e.busy = false) →
        (found = .clean ∨ found = .corrected) → s.mem.lineBad tier frame line = false →
        exec (.patrolScrub tier frame line found) s = .next (
          let t := { s with mem := { s.mem with patrol := setAt s.mem.patrol tier (frame + 1) } }
          if found = .corrected then t.countCorrected (16 * tier + line / 64) else t)))

/-- A tile's read of a line of a backed near-tier unit, when the map has been looked up and nothing holds the line up (no access waits at a rim, the unit
not busy, the line not tracked and not in the rim cache, its map line and its own code good), is answered with one data flit on the attach link of the
request: `KIND` 2, for the tile, the engine's `QID` and the request's `SEQ` and class, carrying the 64 bytes of the frame. -/
def Obligations.NearTierReadReturnsTheFramesBytes : Prop :=
  ∀ (s u : State) (a : Access) (e : UnitEntry) (t c en seq exit : Nat), u = s.lookUp a.addr .clean .clean → a.req = .tile t c en seq exit →
    a.kind = .read → a.addr < deviceRegion → u.mem.entry (a.addr / 65536) = some e → e.tier = 0 → e.busy = false → u.mem.mapBad (a.addr / 65536) = false →
    u.mem.tracked a.addr = false → u.mem.rimLine a.addr = none → (u.mem.rimAt a.addr).find a.addr = none →
    u.mem.lineBad 0 e.frame (a.addr % 65536 / 64) = false → u.mem.order = [] → u.mem.input = [] → u.mem.ctl = [] →
    u.mem.cacheWait = [] → u.mem.biWait = [] → u.mem.decants = [] →
    (s.access a .clean false).rimOut = s.rimOut ++ [(exitTile t exit, exitPort exit,
      mkFlit (exitTile t exit) t 0 a.cls c 2 (64 * c + en) seq true (u.mem.tierRead 0 e.frame (a.addr % 65536 / 64 * 64) 64))]

/-- Loading, swapping and unloading a cuvée. CUVEE_LOAD, accepted, of an image that can be read and that every check of Table 5.14 passes, creates the
partition: it is LOADING, with the columns of the image from COL0, the model slot asked for, the image's graph, seed, schedule and slots, a load in
progress that goes straight to its writing, a journal entry, and the command in progress. CUVEE_SWAP, accepted, of such an image into a partition
without a graph fault, KVKEEP 0 or the geometry the same, begins the drain: the partition is SWAPPING for DRAIN_STEPS steps, keeps its columns and
slot, and the command is in progress. CUVEE_UNLOAD, accepted, of a partition without a graph fault begins its drain in the same way. LOAD_COMPLETION
of a load whose casks are empty and whose image, lines, frames and rings can all be read and had writes them, and the partition runs: RUNNING from
step 0, the load over; with a line that failed the partition is left EMPTY. An image that a check refuses creates nothing. A load begun: the target
partition exists, LOADING, with the columns of the image from COL0, the model slot asked for and every cask slot that the image fills LOADING; its
load journal entry is written and its command is in progress. -/
def Obligations.CuveeRowsComplete : Prop :=
  ((∀ (c : Cmd) (v : Cuvee) (s t : State), Accepted 0x0201 c s → s.readCuvee (fld c.desc 16 0 48) = (.ok v, t) →
      (v.checks t none (fld c.desc 25 0 6) (fld c.desc 24 0 6) = none →
        ∃ (u : State) (q : Partition) (j : LoadJob), exec (.cuveeLoad c) s = .next u ∧ u.part c.target = some q
          ∧ q.st = .loading ∧ q.col0 = fld c.desc 25 0 6 ∧ q.cols = v.cols ∧ q.slot = fld c.desc 24 0 6 ∧ q.graph = v.graphId ∧ q.seed = v.seed
          ∧ q.sched = parseSched v.schedAt.2 ∧ q.slots = loadSlots v ∧ q.job = some j ∧ j.image = fld c.desc 16 0 48 ∧ j.swap = false ∧ j.unload = false
          ∧ j.emptied = true ∧ (∃ e ∈ u.life.journal, e.part = c.target ∧ e.image = fld c.desc 16 0 48 ∧ e.opcode = 0x0201)
          ∧ (∃ r ∈ u.tmi.running, r.src = c.src ∧ r.cid = c.cid ∧ r.opcode = c.op))
      ∧ (∀ f, v.checks t none (fld c.desc 25 0 6) (fld c.desc 24 0 6) = some f →
        exec (.cuveeLoad c) s = .next (complete c f.status 0xFFFFFFFF (flawResult f t.freshNat) t.used)))
    ∧ (∀ (c : Cmd) (v : Cuvee) (p : Partition) (s t : State), Accepted 0x0202 c s → s.part c.target = some p → p.faulted = false →
        s.readCuvee (fld c.desc 16 0 48) = (.ok v, t) → v.checks t (some c.target) p.col0 p.slot = none → t.part c.target = some p →
        (fld c.desc 26 0 1 = 0 ∨ geometryDiffers v p = false →
          ∃ (u : State) (q : Partition) (j : LoadJob), exec (.cuveeSwap c) s = .next u ∧ u.part c.target = some q ∧ q.st = .swapping
            ∧ q.col0 = p.col0 ∧ q.cols = p.cols ∧ q.slot = p.slot ∧ q.graph = p.graph ∧ q.job = some j ∧ j.image = fld c.desc 16 0 48 ∧ j.swap = true
            ∧ j.drainLeft = fld c.desc 24 0 16 ∧ j.kvkeep = (fld c.desc 26 0 1 == 1) ∧ j.writing = false ∧ j.emptied = false
            ∧ (∃ r ∈ u.tmi.running, r.src = c.src ∧ r.cid = c.cid ∧ r.opcode = c.op))
        ∧ (fld c.desc 26 0 1 = 1 → geometryDiffers v p = true → exec (.cuveeSwap c) s = .next (refuse c 0x0117 t)))
    ∧ (∀ (c : Cmd) (p : Partition) (s : State), Accepted 0x0203 c s → s.part c.target = some p → p.faulted = false →
        exec (.cuveeUnload c) s = .next (State.keepRunning { s with parts := kput s.parts c.target { p with
          st := .swapping
          job := some ⟨c.running s, 0, fld c.desc 24 0 16, false, true, false, false, false, none, [], [], 0⟩ } } c))
    ∧ (∀ (pn : Nat) (p q : Partition) (j : LoadJob) (v : Cuvee) (s t a b d w u z : State), s.life.dev = .opened → s.pwr.stopped = false →
        s.part pn = some p → p.job = some j → j.emptied = true → j.unload = false → s.readCuvee j.image = (.ok v, t) →
        t.part pn = some p → t.adopt pn p v j = a → a.part pn = some q → (v.imgs.map At.val).foldl (fun s x => s.placeImage q.col0 q.counters x) a = b →
        b.backAll (v.cellarUnits j.layers) v.needs = some d →
        ((v.cellarUnits j.layers).foldl State.toCellar (d.modPart pn fun p => { p with job := some { j with backed := (j.backed ++ b.unbacked v.needs).dedup } })).copyTensors
          j.image (v.tensors.map At.val) = (true, w) →
        (q.pins.foldl State.refreshPin w).allNear q.pins = some u → u.fillRings pn false = (true, z) →
        exec (.loadCompletion pn true) s = .next (z.finishLoad pn q v j).settlePeers)
    ∧ (∀ (pn : Nat) (p q : Partition) (v : Cuvee) (j : LoadJob) (s : State), s.part pn = some q → j.swap = false →
        ∃ q', (s.finishLoad pn p v j).part pn = some q' ∧ q' = { q with st := .running, job := none, idled := none, slots := loadedSlots v q.sched })
    ∧ (∀ (pn : Nat) (p : Partition) (j : LoadJob) (s : State), s.life.dev = .opened → s.pwr.stopped = false →
        s.part pn = some p → p.job = some j → j.emptied = true → j.unload = false → exec (.loadCompletion pn false) s = .next (s.loadFailed pn j)))
    ∧ (∀ (c : Cmd) (v : Cuvee) (image slot col0 : Nat) (s : State),
    ∃ p j, (beginLoad c v image slot col0 s).part c.target = some p ∧ p.st = .loading ∧ p.col0 = col0 ∧ p.cols = v.cols ∧ p.slot = slot
      ∧ p.graph = v.graphId ∧ p.seed = v.seed ∧ p.sched = parseSched v.schedAt.2 ∧ p.job = some j ∧ j.image = image ∧ j.swap = false
      ∧ (∃ e ∈ (beginLoad c v image slot col0 s).life.journal, e.part = c.target ∧ e.image = image ∧ e.opcode = 0x0201))

/-- Cask slots: CASK_LOAD of a readable section that passes Table 4.10, into a slot that is free, begins the load of that slot on every tile; CASK_EVICT
empties a free slot; CASK_IMAGE_LINE_WRITE writes the next line of a cask load, an uncorrectable line failing the whole of it. A slot in use, or one
not drained, is refused and unchanged. The other commands of a partition: PART_RESET, accepted, resets it and completes OK; PART_RESUME of a STOPPED
partition whose stop is complete restarts it, one after a graph fault is refused; PART_QUERY returns its report and changes nothing else; PART_INSPECT
of a STOPPED partition writes the bytes asked for and changes nothing else, and is refused with NOT_STOPPED in any other state. -/
def Obligations.CaskAndPartitionCommandsComplete : Prop :=
  ((∀ (c : Cmd) (p : Partition) (b : Bytes) (l : List Img) (s t : State), Accepted 0x0204 c s → s.part c.target = some p →
      slotBusy (p.slotAt (fld c.desc 28 0 2)) = none →
      s.readBytes .firmware (fld c.desc 16 0 48) (fld c.desc 24 0 32) = (some b, t) →
      t.sectionImages p (fld c.desc 28 0 2) (fld c.desc 24 0 32) b = .inr l →
      exec (.caskLoad c) s = .next (beginCaskLoad c p (fld c.desc 28 0 2) l t))
    ∧ (∀ (c : Cmd) (p : Partition) (s : State), Accepted 0x0205 c s → s.part c.target = some p → slotBusy (p.slotAt (fld c.desc 28 0 2)) = none →
        exec (.caskEvict c) s = .next (done c []
          (if (p.slotAt (fld c.desc 28 0 2)).st = .empty then s else s.emptySlot c.target (fld c.desc 28 0 2))))
    ∧ (∀ (c : Cmd) (p : Partition) (s : State) (st : Nat), s.part c.target = some p → slotBusy (p.slotAt (fld c.desc 28 0 2)) = some st →
        (Accepted 0x0204 c s → exec (.caskLoad c) s = .next (refuse c st s)) ∧ (Accepted 0x0205 c s → exec (.caskEvict c) s = .next (refuse c st s)))
    ∧ (∀ (pn slot tidx line n nx : Nat) (d : Bytes) (p : Partition) (j : CaskJob) (s : State), s.part pn = some p → p.caskJob = some j → j.slot = slot →
        kget j.lines tidx = some (nx, n) →
        (nx = line → line < n → exec (.caskImageLineWrite pn slot tidx line d .clean) s = .next (s.writeLine pn p j tidx line d))
        ∧ (∀ syn, exec (.caskImageLineWrite pn slot tidx line d (.uncorrectable syn)) s = .next (s.caskFailed pn j)))
    ∧ (∀ x : Slot, slotBusy x = (match x.st with
        | .loading | .active | .closed => some 0x0113
        | .ready => if x.drained then none else some 0x0114
        | .empty => none)))
    ∧ ((∀ (c : Cmd) (s : State), Accepted 0x0206 c s → exec (.partReset c) s = .next ((done c [] (s.resetPart c.target)).settleDevice none))
    ∧ (∀ (c : Cmd) (p : Partition) (s : State), Accepted 0x0207 c s → s.part c.target = some p →
        (p.faulted = false → p.st = .stopped → p.stopDone = true → s.linkFailed = false →
          exec (.partResume c) s = .next (done c [] (s.restartPart c.target)))
        ∧ (p.faulted = true → exec (.partResume c) s = .next (refuse c 0x0009 s))
        ∧ (p.faulted = false → p.st ≠ .stopped → exec (.partResume c) s = .next (refuse c 0x0008 s)))
    ∧ (∀ (c : Cmd) (p : Partition) (s : State), Accepted 0x0209 c s → s.part c.target = some p →
        exec (.partQuery c) s = .next (done c (partReport p) s))
    ∧ (∀ (c : Cmd) (p : Partition) (s : State), Accepted 0x0208 c s → s.part c.target = some p →
        (p.st = .stopped → c.wr = .ok → ∃ b r, exec (.partInspect c) s = .next (doneBuffer c b r s)
          ∧ b = inspectBytes (s.tile (fld c.desc 18 0 11)) p (fld c.desc 16 0 3) (fld c.desc 17 0 2) (fld c.desc 20 0 20) (fld c.desc 24 0 32)
          ∧ fld r 0 0 32 = b.length % 2 ^ 32)
        ∧ (p.st ≠ .stopped → exec (.partInspect c) s = .next (refuse c 0x0008 s))))

/-- Configuration transactions, accepted: CFG_BEGIN on a target with none opens one whose TXID, 1 to 65,535, it returns; CFG_SET puts a setting into the
open transaction; CFG_READ returns the current value; CFG_ABORT ends the open transaction; CFG_BEGIN where one is open, CFG_SET with another TXID, and
a key of the other scope are refused. A commit: CFG_COMMIT of the open transaction, its settings in order, applies and ends it at once where every
setting needs nothing, and otherwise leaves it pending on the target until CFG_COMMIT_DEADLINE, which ends a pending commit as aborted and keeps the
transaction with its settings; a commit whose settings fail a check, or a second commit, is refused. -/
def Obligations.ConfigurationRowsComplete : Prop :=
  ((∀ (c : Cmd) (s : State), Accepted 0x0301 c s →
      (s.txnOf c.target = none → (c.target = 255 → s.cfg.autoVintage = false) →
        ∃ id, 1 ≤ id ∧ id ≤ 65535 ∧ exec (.cfgBegin c) s = .next (done c (le 2 id) (State.setTxn { s with free := s.free + 1 } c.target (some ⟨id, [], 0⟩))))
      ∧ ((s.txnOf c.target).isSome → exec (.cfgBegin c) s = .next (refuse c 0x0301 s)))
    ∧ (∀ (c : Cmd) (t : Txn) (s : State), Accepted 0x0302 c s → s.txnOf c.target = some t →
        (t.txid = fld c.desc 16 0 16 → s.commitOf c.target = none → t.count < 256 → keyScope (fld c.desc 18 0 16) = some (c.target == 255) →
          valueOk (fld c.desc 18 0 16) (slice c.desc 24 (fld c.desc 20 0 8)) = true →
          exec (.cfgSet c) s = .next (done c [] (s.setTxn c.target (some { t with
            sets := (t.sets.filter fun x => x.1 != fld c.desc 18 0 16) ++ [(fld c.desc 18 0 16, slice c.desc 24 (fld c.desc 20 0 8))]
            count := t.count + 1 }))))
        ∧ (t.txid ≠ fld c.desc 16 0 16 → exec (.cfgSet c) s = .next (refuse c 0x0300 s)))
    ∧ (∀ (c : Cmd) (s : State), Accepted 0x0305 c s →
        (keyScope (fld c.desc 16 0 16) = some (c.target == 255) → fld c.desc 20 0 32 = 0 →
          exec (.cfgRead c) s = .next (done c (s.setting c.target (fld c.desc 16 0 16)) s))
        ∧ (keyScope (fld c.desc 16 0 16) ≠ some (c.target == 255) → exec (.cfgRead c) s = .next (refuse c 0x0303 s)))
    ∧ (∀ (c : Cmd) (t : Txn) (s : State), Accepted 0x0304 c s → s.txnOf c.target = some t → t.txid = fld c.desc 16 0 16 → s.commitOf c.target = none →
        exec (.cfgAbort c) s = .next (done c [] (s.setTxn c.target none)))
    ∧ (∀ (target : Nat) (t : Txn) (s : State), s.txnOf target = some t → s.commitOf target = none →
        exec (.cfgAutoAbort target) s = .next ((s.setTxn target none).report 0x000F
          (pack 32 [(0, 0, 8, 0), (1, 0, 8, target), (2, 0, 16, t.txid)]) 0x000F [])))
    ∧ ((∀ (c : Cmd) (t : Txn) (s : State), Accepted 0x0303 c s → s.txnOf c.target = some t → t.txid = fld c.desc 16 0 16 →
      (s.commitOf c.target = none → s.commitCheck c.target t = none → t.needsNothing = true →
        exec (.cfgCommit c) s = .next (done c (le 4 0) (s.applyNow c.target t)))
      ∧ (s.commitOf c.target = none → s.commitCheck c.target t = none → t.needsNothing = false → c.target ≠ 255 →
        exec (.cfgCommit c) s = .next ((s.keepRunning c).modPart c.target fun p => { p with
          commit := some ⟨c.running s, t.txid, fld c.desc 18 0 1 == 1, s.clk.tick + 100 * fld c.desc 20 0 32, [], 0⟩ }))
      ∧ (∀ st, s.commitOf c.target = none → s.commitCheck c.target t = some st → exec (.cfgCommit c) s = .next (refuse c st s))
      ∧ ((s.commitOf c.target).isSome → exec (.cfgCommit c) s = .next (refuse c 0x0004 s)))
    ∧ (∀ (pn : Nat) (p : Partition) (k : Commit) (s : State), pn ≠ 255 → s.part pn = some p → p.commit = some k →
        exec (.cfgCommitDeadline pn) s = .next ((s.modPart pn fun p => { p with commit := none }).finishRun k.cmd 0x0305 (le 4 k.flushed)))
    ∧ (∀ (k : Commit) (s : State), s.cfg.commit = some k →
        exec (.cfgCommitDeadline 255) s = .next ((State.finishRun { s with cfg := { s.cfg with commit := none } } k.cmd 0x0305 (le 4 k.flushed)).releaseHolds false)))

/-- The fold sequencer: while the schedule of a partition is paced, FOLD_STEP_TIMER goes to the next step, for which a schedule flit goes out to every
column, or after the last to a fold-round boundary; FOLD_LEAD begins the lead span; SCHEDULE_CLOCK takes the flit that has reached its tile, schedules
the switch to the cask that it names and advances the epochs by its two boundary bits; CASK_SWITCH makes the switch; TILER_DONE records the choice for
the step formed, on a leader and on a follower; PARTITION_RESTART restarts a partition whose stop is complete. -/
def Obligations.FoldSequencerRowsComplete : Prop :=
  (∀ (pn : Nat) (p : Partition) (s : State), s.part pn = some p → s.paces p = true →
      (p.step + 1 < p.sched.length → exec (.foldStepTimer pn) s =
        .next ((s.setPart pn { p with step := p.step + 1, lead := false }).paceStep pn false false))
      ∧ (p.sched.length ≤ p.step + 1 → exec (.foldStepTimer pn) s = .next (s.foldBoundary pn))
      ∧ exec (.foldLead pn) s = .next { s with parts := kput s.parts pn { p with lead := true } })
    ∧ (∀ (pn : Nat) (fold step : Bool) (p : Partition) (k : FoldStep) (s : State), s.part pn = some p → p.sched[p.step]? = some k → p.clockRuns = true →
        p.heldClock = false → s.paceStep pn fold step = { s with
          rimOut := s.rimOut ++ (List.range p.cols).map fun i => (32 * (p.col0 + i), 0, scheduleFlit (32 * (p.col0 + i)) k.cask fold step) })
    ∧ (∀ (tile pn : Nat) (f : Flit) (rest : List Flit) (p : Partition) (s : State), (s.tile tile).eject = f :: rest → f.kind = 8 → f.exit = 0 →
        s.partOf tile = some pn → s.part pn = some p → p.clockRuns = true → (s.tile tile).idle = false → s.life.dev = .opened → s.pwr.stopped = false →
        ∃ t, exec (.scheduleClock tile) s = .next t
          ∧ (t.tile tile).switchTo = some (fld f.payload 0 0 8) ∧ (t.tile tile).eject = rest
          ∧ (t.tile tile).epochs = (({ s.tile tile with eject := rest }).advanceEpochs p.counters (fld f.payload 1 0 1 == 1) (fld f.payload 1 1 1 == 1)).epochs
          ∧ t = { s with tiles := t.tiles } ∧ (∀ u, u ≠ tile → t.tile u = s.tile u))
    ∧ (∀ (tile c : Nat) (s : State), (s.tile tile).switchTo = some c → (s.tile tile).idle = false → s.life.dev = .opened → s.pwr.stopped = false →
        exec (.caskSwitch tile) s = .next (s.setTile tile { s.tile tile with running := c, switchTo := none }))
    ∧ (∀ (pn : Nat) (p : Partition) (st : Machine.Step) (h : Shape) (c : Nat × Candidate) (s : State), s.part pn = some p → p.formed = some st →
        p.shape st.stepk = some h → p.tilerDone = false →
        chooseCandidate st.b st.s p.man.heads ((p.cands.zipIdx.map fun e => (e.2, e.1)).filter fun e => e.2.stepk == st.stepk) = some c →
        ∃ mt nt, mt = ceilDiv (shapeM h st.b st.s) (max 1 h.splitM) ∧ nt = ceilDiv (shapeN h p.man.heads) (max 1 h.splitN)
          ∧ exec (.tilerDone pn) s = .next ((s.modActive p fun k => k.writeBank (tilingEntry c.2 mt nt)).setPart pn
            { p with tilerDone := true, formed := some { st with choice := some (c.1, mt, nt) } }))
    ∧ (∀ (pn : Nat) (p : Partition) (s : State), s.part pn = some p → p.stopDone = true → p.faulted = false → p.trapHold = false → s.linkFailed = false →
        s.life.dev = .opened → s.pwr.stopped = false → exec (.partitionRestart pn) s = .next (s.restartPart pn))

/-- Reports and stops. Reports whose flits have all reached the arbiter's attach links are taken together by TRAP_MESSAGE or GRAPH_FAULT: the flits go,
the arbiter captures the first and stops the fold clock, and a memory error among them writes its own record. MEMORY_ERROR_REPORT writes its record,
stops the clock of the tile's partition and aborts its step. TILE_IDLE_REPORT joins the tiles idled and the last completes the stop; STEP_END_REPORT
joins the tiles whose part of the step is done: each only once its flit is there, which it takes. TILE_SCRUB moves the scrubber on and reports each
uncorrectable word of the line. A stop completes only when every tile of the partition has reported its idling, and then the record captured is
written once: a complete stop of a trap writes the trap record of Table 2.9 as the partition's last trap record and clears the capture. -/
def Obligations.StopAndReportRowsComplete : Prop :=
  ((∀ (pn : Nat) (l : List Report) (s : State), (∀ r ∈ l, s.reported r = true) →
      exec (.trapMessage pn l) s = .next ((l.filter Report.isMemory).foldl State.memoryError ((l.foldl State.takeReport s).takeReports pn l))
      ∧ exec (.graphFault pn l) s = .next ((l.filter Report.isMemory).foldl State.memoryError ((l.foldl State.takeReport s).takeReports pn l)))
    ∧ (∀ (tile cask store addr syn : Nat) (scrub : Bool) (s u : State), s.reported (.memory tile cask store addr syn scrub) = true →
        s.takeReport (.memory tile cask store addr syn scrub) = u →
        (s.partOf tile = none → exec (.memoryErrorReport tile cask store addr syn scrub) s =
          .next (u.report 0x0004 (memoryRecord tile cask store addr syn scrub none s.clk.tick) 0x0003
            ((memoryRecord tile cask store addr syn scrub none s.clk.tick).take 16)))
        ∧ (∀ n, s.partOf tile = some n → ∃ b, b = memoryRecord tile cask store addr syn scrub (some n) s.clk.tick ∧
          exec (.memoryErrorReport tile cask store addr syn scrub) s =
            .next ((((u.modPart n fun p => { p with lastMem := some b }).report 0x0004 b 0x0003 (b.take 16)).stopClock n).abortStep n)))
    ∧ (∀ (pn tile : Nat) (p : Partition) (l : List Nat) (s u : State), s.part pn = some p → p.idled = some l → p.owns tile = true → tile ∉ l →
        (s.atRim tile 1 (isReport8 1)).isSome = true → s.takeRim tile 1 (isReport8 1) = u →
        (l.length + 1 < 32 * p.cols → exec (.tileIdleReport pn tile) s = .next { u with parts := kput s.parts pn { p with idled := some (l ++ [tile]) } })
        ∧ (32 * p.cols ≤ l.length + 1 → exec (.tileIdleReport pn tile) s =
          .next ((State.finishStop { u with parts := kput s.parts pn { p with idled := some (l ++ [tile]) } } pn).settleDevice none)))
    ∧ (∀ (pn tile : Nat) (p : Partition) (s u : State), s.part pn = some p → p.owns tile = true → p.cur.isSome → tile ∉ p.stepEnds →
        (s.atRim tile 1 (isReport8 0)).isSome = true → s.takeRim tile 1 (isReport8 0) = u →
        exec (.stepEndReport pn tile) s = .next { u with parts := kput s.parts pn { p with stepEnds := p.stepEnds ++ [tile] } })
    ∧ (∀ (pn tile : Nat) (s : State), (s.atRim tile 1 (isReport8 1)) = none → exec (.tileIdleReport pn tile) s = .next s)
    ∧ (∀ (pn tile : Nat) (s : State), (s.atRim tile 1 (isReport8 0)) = none → exec (.stepEndReport pn tile) s = .next s)
    ∧ (∀ (tile : Nat) (errs : List WordErr) (x : Tile) (s : State), s.life.aux = true → s.life.waiting = false → s.pwr.stopped = false → s.tile tile = x →
        exec (.tileScrub tile errs) s = .next ((s.setTile tile x.scrubNext).readStores tile x.running true [x.scrubRange] errs).2)
    ∧ (∀ (tile cask : Nat) (scrub : Bool) (rs : List Range) (errs : List WordErr) (x : Tile) (s : State), (s.tile tile).noteErrs rs errs = x → x.badIn rs = [] →
        s.readStores tile cask scrub rs errs = (true, s.setTile tile x)))
    ∧ (∀ (s : State) (pn tile cask src uop unit orow ocol work further round : Nat) (p : Partition), s.part pn = some p →
    p.capture = some ⟨.trap tile cask src uop unit orow ocol work, further, round⟩ →
    ∃ q, (s.finishStop pn).part pn = some q ∧ q.capture = none
      ∧ q.lastTrap = some (trapRecord tile cask src uop unit orow ocol work round pn further s.clk.tick)
      ∧ q = { p with capture := none, lastTrap := q.lastTrap })

/-- The press and the vat of a tile whose cask has issued the micro-operation. PRESS_OPERATION whose operand blocks lie in the cask's working-store
windows and whose micro-tile lies in its vat window reads its two operand blocks, all words good, and enters the pipeline with the 32 lanes of their
segments; outside the windows it raises a graph fault of cause 7 and computes nothing. PRESS_VAT_WRITE takes the oldest operation out of the pipeline
and, its checks passed and its vat words good, writes the vat. VAT_CLEAR, no press operation pending on its micro-tiles, clears them and sets their
exponent. The way out of the vat, for a cask that has issued the micro-operation and with no press operation pending on the accumulators it names, all
in its windows and every word read good: CONVERSION_DRAIN converts accumulators, or the codes of a block, to shaper inputs of its cask;
SHAPER_FUNCTION takes the inputs of its cask that wait and SMX a row of them, and place their results; SCALE_FINDER_DRAIN stores one requantised
block; a range outside the cask's windows raises a graph fault of cause 7. -/
def Obligations.PressAndShaperRowsComplete : Prop :=
  ((∀ (t c u m r o ac k0 n : Nat) (a b : OpRef) (ups : Option Upset) (errs : List WordErr) (img : Bytes) (x : Tile) (s : State),
      s.opRuns t c u 0x00 0x1F = true → s.image t c = some img →
      (inVat img m = true → rangesInside img (pressRanges a b k0 n) = true → (s.tile t).noteErrs (pressRanges a b k0 n) errs = x → x.badIn (pressRanges a b k0 n) = [] →
        exec (.pressOperation t c u m r o ac a b k0 n ups errs) s =
          .next (s.setTile t { x with pipe := x.pipe ++ [pressOp (x.accX m) c u m r o ac (x.lanes a b k0 n) ups] }))
      ∧ (inVat img m = false ∨ rangesInside img (pressRanges a b k0 n) = false →
        exec (.pressOperation t c u m r o ac a b k0 n ups errs) s = .next (s.uopFault t c 7 u)))
    ∧ (∀ (t ac : Nat) (errs : List WordErr) (op : PressOp) (rest : List PressOp) (x : Tile) (s : State), (s.tile t).pipe = op :: rest → op.bad = false →
        op.adderBad (s.tile t) = false → ({ s.tile t with pipe := rest }).noteErrs (vatRanges [op.mt]) errs = x → x.badIn (vatRanges [op.mt]) = [] →
        exec (.pressVatWrite t ac errs) s =
          .next ((State.becameNar (s.setTile t (op.write x)) t op.cask op.uop op.orow op.ocol ac (op.nars x)).idleReport t))
    ∧ (∀ (t c : Nat) (ms : List Nat) (x : Int) (img : Bytes) (k : CaskCtx) (s : State), s.classRuns t c 0x20 0x2F = true → s.image t c = some img →
        (s.tile t).cask c = some k → (∀ m ∈ ms, (s.tile t).pressPending m = false ∧ inVat img m = true) →
        exec (.vatClear t c ms x) s = .next (s.setTile t ((s.tile t).vatClear ms (k.clearX (k.issued.getD 0) x)))))
    ∧ ((∀ (t c u r o f ac : Nat) (src : DrainSrc) (ups : Option Upset) (errs : List WordErr) (x : Tile) (s : State), s.opRuns t c u 0x30 0x3F = true →
      s.vatReady t src.accs = true →
      (s.drainInside t c src = true → (s.tile t).noteErrs src.ranges errs = x → x.badIn src.ranges = [] →
        exec (.conversionDrain t c u r o src f ac ups errs) s = .next ((s.setTile t x).convert t c u r o ac f src ups))
      ∧ (s.drainInside t c src = false → exec (.conversionDrain t c u r o src f ac ups errs) s = .next (s.uopFault t c 7 u)))
    ∧ (∀ (t c u r o f g ac : Nat) (fn : ShaperFn) (dst : ShaperDst) (ups : Option Upset) (s : State), s.opRuns t c u 0x40 0x5F = true →
        s.vatReady t dst.accs = true → s.vatInside t c dst.accs = true →
        exec (.shaperFunction t c u r o fn f g dst ac ups) s = .next (s.shape t c u r o ac g dst ups (((s.tile t).inputsOf c).map (shapeOne fn f g))
          ((s.tile t).shaperIn.filter fun v => v.1 != c)))
    ∧ (∀ (t c u r o n f g ac : Nat) (dst : ShaperDst) (ups : Option Upset) (s : State), s.opRuns t c u 0x40 0x5F = true → s.vatReady t dst.accs = true →
        s.vatInside t c dst.accs = true → 1 ≤ n → n ≤ 65536 → n ≤ ((s.tile t).inputsOf c).length →
        exec (.smx t c u r o n f g dst ac ups) s = .next (State.shape { s with free := s.free + n } t c u r o ac g dst ups
          (s.smxRow (((s.tile t).inputsOf c).take n) f g ups) (dropOf c n (s.tile t).shaperIn)))
    ∧ (∀ (t c u r o fmt ca sa ac : Nat) (src : DrainSrc) (stoch : Bool) (errs : List WordErr) (img : Bytes) (x : Tile) (s : State),
        s.opRuns t c u 0x30 0x3F = true → s.vatReady t src.accs = true → s.image t c = some img → s.drainInside t c src = true →
        inWindow img ca (blockBytes fmt ((s.tile t).sfInputs c src).1.length) = true → inWindow img sa 2 = true →
        (s.tile t).noteErrs src.ranges errs = x → x.badIn src.ranges = [] →
        exec (.scaleFinderDrain t c u r o src fmt stoch ca sa ac none errs) s = .next ((s.setTile t x).sfStore t c u r o ac fmt src ca sa (x.sfInputs c src).1
          (requantise fmt (x.sfInputs c src).2 ((x.sfInputs c src).1.map Prod.snd) stoch none x.gen))))

/-- The vat addition of one aligned value: NaR stays NaR and takes no source; a NaR input makes NaR by source 0; an aligned value or a sum beyond 2^47 − 1
in magnitude makes NaR by source 1; otherwise the accumulator is exactly the sum, which is within the limit. A lane of finite segments is summed
exactly: from an accumulator value, as long as every aligned value and every partial sum stays within the limit, the lane ends at the accumulator plus
the sum of the aligned values and nothing became NaR; once an accumulator is NaR it stays NaR. -/
def Obligations.VatSumsAreExactOrNar : Prop :=
  (∀ (v a : Int),
    addTo false .nar (some a) = (.nar, none) ∧ addTo false .nar none = (.nar, none) ∧ addTo false (.val v) none = (.nar, some (0, 0))
    ∧ (140737488355327 < a.natAbs → addTo false (.val v) (some a) = (.nar, some (1, 0)))
    ∧ (a.natAbs ≤ 140737488355327 → 140737488355327 < (v + a).natAbs → addTo false (.val v) (some a) = (.nar, some (1, 1)))
    ∧ (a.natAbs ≤ 140737488355327 → (v + a).natAbs ≤ 140737488355327 → addTo false (.val v) (some a) = (.val (v + a), none)))
    ∧ ((∀ (as : List Int) (v : Int), (∀ k ≤ as.length, accOver (v + (as.take k).sum) = false) → (∀ a ∈ as, accOver a = false) →
      addLane false (.val v) (as.map some) = (.val (v + as.sum), none))
    ∧ (∀ (as : List (Option Int)), (addLane false .nar as).1 = .nar))

/-- The rounding of the press's alignment (step 8): a finite segment's aligned value is P times 2^d, P not 0; for d < 0 it is within half of a unit of the
exact quotient and, exactly half way, the even neighbour, no mode entering; a right shift by more than 55 bits of a P of 55 signed bits gives 0. -/
def Obligations.RoundingIsHalfToEven : Prop :=
  (∀ (g : Segment) (x P : Int), g.narIn = false → P = g.sum none 0 * (g.ma * g.mb : Nat) → P ≠ 0 → (g.run x none 0).1 = some (shiftEven P (g.shift x none 0)))
    ∧ (∀ (P d : Int), 0 ≤ d → shiftEven P d = P * 2 ^ d.toNat)
    ∧ (∀ (P : Int) (n : Nat), 0 < n →
        2 * (P - shiftEven P (-n) * 2 ^ n).natAbs ≤ 2 ^ n ∧ (2 * (P - shiftEven P (-n) * 2 ^ n).natAbs = 2 ^ n → shiftEven P (-n) % 2 = 0))
    ∧ (∀ (P : Int) (n : Nat), -(2 ^ 54) ≤ P → P < 2 ^ 54 → 55 < n → shiftEven P (-n) = 0)

/-- Every code that the scale finder stores stands for a magnitude within the format's limit L, or is the NaR code, which stands for a NaR input and for
nothing else; there is a code for every input, and the multiplier lies in 0 to 255. -/
def Obligations.RequantisedBlockIsWellFormed : Prop :=
  ∀ (fmt : Nat) (x : Int) (vs : List (Option Int)) (stoch : Bool) (g : BitVec 64), fmt < 4 → (∀ v ∈ vs, ∀ y, v = some y → y.natAbs ≤ 2 ^ 47) →
    -128 ≤ x → x ≤ 127 →
    (requantise fmt x vs stoch none g).codes.length = vs.length
      ∧ (requantise fmt x vs stoch none g).m ≤ 255
      ∧ (∀ i, (h : i < vs.length) → (decodeCode fmt ((requantise fmt x vs stoch none g).codes.getD i 0) = none ↔ vs[i] = none))

/-- Issue on a tile: UOP_ISSUE of the running cask, its inputs ready and its word good, moves the pointer on, END's opcode returning it to 0, and a
reserved opcode raises a graph fault of cause 6; then END restarts the list; STEP_END marks the cask's part of the step done and sends the report to
the fold sequencer. -/
def Obligations.IssueRowsComplete : Prop :=
  (∀ (t : Nat) (ps es : List Nat) (errs : List WordErr) (k : CaskCtx) (x : Tile) (s : State), (s.tile t).cask (s.tile t).running = some k →
      s.canIssue t (s.tile t).running = true → k.inputsReady ps es = true →
      (s.tile t).noteErrs [uopRange k.image (s.tile t).running k.uptr] errs = x → x.badIn [uopRange k.image (s.tile t).running k.uptr] = [] →
      (opcodeOk (imgOp k.image k.uptr) = true → exec (.uopIssue t ps es errs) s =
        .next (s.setTile t (x.setCask (s.tile t).running { k with
          issued := some k.uptr
          uptr := if imgOp k.image k.uptr = 0xFF then 0 else (k.uptr + 1) % max 1 (imgUops k.image) })))
      ∧ (opcodeOk (imgOp k.image k.uptr) = false → exec (.uopIssue t ps es errs) s =
        .next ((s.setTile t x).sendReport t (.graph t (s.tile t).running 6 0xFF 0 0 0x7FF k.uptr))))
    ∧ (∀ (t c u : Nat) (k : CaskCtx) (s : State), s.canIssue t c = true → (s.tile t).cask c = some k → k.issued = some u →
        (imgOp k.image u = 0xFF → exec (.endList t c) s = .next (s.setTile t ((s.tile t).setCask c { k with uptr := 0 })))
        ∧ (imgOp k.image u = 0xF0 → exec (.stepEnd t c) s =
          .next ((s.setTile t ((s.tile t).setCask c { k with stepDone := true })).inject t [reportFlit t c 0])))

/-- Tokens at the producer, for a cask that issues: QUEUE_POP of a queue with a good head token frees its slot and counts it for credit return; TOKEN_SEND
on an edge that holds a credit spends one, takes the edge's next number and hands the token's flits to the stream engine that serves the edge;
CREDIT_RETURN_TIMER returns the credits counted; ROTATE of a plan whose HOLD is filled, with credits for the whole block, sends HOLD over the rotation
edge and waits for NEXT, or swaps at once where NEXT has filled. Tokens at the consumer, of a flit that the router has delivered: TOKEN_ARRIVAL of a
token that its queue takes lands it, and of a stray token or one that overruns the queue raises the graph fault of cause 3 or 4 once, the rest of a
refused token being dropped; E2E_CREDIT_RETURN adds the credits of the flit to the edge, more than its CREDITS being a graph fault of cause 5;
STEERING_PAIRING pairs the two heads of the pair that is ready longest; STEERED_TOKEN_SEND sends the waiting token on the first selected edge that
holds a credit. -/
def Obligations.TokenRowsComplete : Prop :=
  ((∀ (t c q : Nat) (errs : List WordErr) (x : Queue) (e : Bytes) (y : Tile) (s : State), s.anyRuns t c = true → s.queueAt t c q = some (x, e) → x.seqs ≠ [] →
      (s.tile t).noteErrs [headRange e x] errs = y → y.badIn [headRange e x] = [] →
      exec (.queuePop t c q errs) s = .next ((s.setTile t y).popQueue t c q))
    ∧ (∀ (t c n u : Nat) (d : Bytes) (k : CaskCtx) (ed : Edge) (s : State), s.canIssue t c = true → (s.tile t).cask c = some k → k.issued = some u →
        0x60 ≤ imgOp k.image u → imgOp k.image u ≤ 0x6F → kget k.edges n = some ed → 0 < ed.credits →
        exec (.tokenSend t c n d) s = .next (((s.setTile t ((s.tile t).setCask c { k with edges := kput k.edges n ⟨ed.credits - 1, (ed.seq + 1) % 256⟩ })).moved t c).injectBy t
          (eeEng (imgEdge k.image n)) (tokenFlits t (eeTile (imgEdge k.image n)) (eeCls (imgEdge k.image n)) c (eeQid (imgEdge k.image n)) ed.seq d)))
    ∧ (∀ (t c q : Nat) (x : Queue) (e : Bytes) (s : State), s.queueAt t c q = some (x, e) →
        (0 < x.uncounted → exec (.creditReturnTimer t c q) s = .next ((s.setQueue t c q { x with uncounted := x.uncounted - min x.uncounted 16 }).inject t
          [mkFlit t (qePtile e) 0 0 c 7 (64 * qePcask e + qePedge e) 0 true (le 1 (min x.uncounted 16))]))
        ∧ (x.uncounted = 0 → exec (.creditReturnTimer t c q) s = .next s))
    ∧ (∀ (t c plan q n m a : Nat) (errs : List WordErr) (p : Plan) (img e : Bytes) (x : Queue) (g : Ring) (y : Tile) (s : State),
        s.planAt t plan = some p → s.image t c = some img → s.queueAt t c q = some (x, e) → s.classRuns t c 0x70 0x7F = true → p.move = 1 →
        (s.tile t).ring plan = g → g.held = true → g.waiting = none → m = blockTokens p.buf e → m ≤ s.edgeCredits t c n →
        a = g.addr (s.planBase t plan img) p.buf false → inWindow img a p.buf = true →
        (s.tile t).noteErrs [(0, a, p.buf)] errs = y → y.badIn [(0, a, p.buf)] = [] →
        exec (.rotate t c plan q n errs) s = .next ((((s.setTile t y).sendBlock t c n (y.wsRead a p.buf) (slotBytes e) m).modTile t fun z =>
          z.setRing plan { g with waiting := some (c, q) }).swapRing t plan)))
    ∧ ((∀ (t : Nat) (f : Flit) (s : State), (s.tile t).eject.contains f = true → f.kind = 6 →
      ((s.tile t).refused.contains f.token = false →
        (s.tokenFault t f = none → exec (.tokenArrival t f) s = .next ((s.takeEject t f).landToken t f))
        ∧ (∀ k, s.tokenFault t f = some k → exec (.tokenArrival t f) s =
          .next (((s.takeEject t f).modTile t fun x => x.refuseToken f).sendReport t (.graph t (f.qid / 64 % 4) k f.qid 0 f.seq f.src 0xFFF))))
      ∧ ((s.tile t).refused.contains f.token = true →
        exec (.tokenArrival t f) s = .next ((s.takeEject t f).modTile t fun x => x.dropRefused f)))
    ∧ (∀ (t : Nat) (f : Flit) (k : CaskCtx) (ed : Edge) (s : State), (s.tile t).eject.contains f = true → f.kind = 7 →
        (s.tile t).cask (f.qid / 64) = some k → kget k.edges (f.qid % 64) = some ed →
        (ed.credits + fld f.payload 0 0 5 ≤ eeCredits (imgEdge k.image (f.qid % 64)) → exec (.e2eCreditReturn t f) s =
          .next ((s.takeEject t f).modCask t (f.qid / 64) fun k => { k with edges := kput k.edges (f.qid % 64) { ed with credits := ed.credits + fld f.payload 0 0 5 } }))
        ∧ (eeCredits (imgEdge k.image (f.qid % 64)) < ed.credits + fld f.payload 0 0 5 → exec (.e2eCreditReturn t f) s =
          .next ((s.takeEject t f).sendReport t (.graph t (f.qid / 64 % 4) 5 f.qid 0 0 f.src 0xFFF))))
    ∧ (∀ (t c n : Nat) (errs : List WordErr) (pe : Bytes) (cx dx : Queue) (ce de : Bytes) (y : Tile) (s : State), s.canIssue t c = true →
        s.readyPair t c = some (n, pe, (cx, ce), (dx, de)) → (s.tile t).noteErrs [headRange ce cx, headRange de dx] errs = y →
        y.badIn [headRange ce cx, headRange de dx] = [] →
        exec (.steeringPairing t c errs) s = .next ((s.setTile t y).pairUp t c n pe cx ce dx de))
    ∧ (∀ (t c n e : Nat) (k : CaskCtx) (st : Steered) (s : State), (s.tile t).cask c = some k → kget k.steered n = some st →
        (st.edges.find? fun e => decide (0 < s.edgeCredits t c e)) = some e → s.pwr.stopped = false →
        exec (.steeredTokenSend t c n) s = .next ((s.sendToken t c e st.data).modCask t c fun k => { k with
          steered := if (st.edges.erase e).isEmpty then kdel k.steered n else kput k.steered n ⟨st.data, st.edges.erase e⟩ })))

/-- Sending a token spends exactly one credit of its edge, numbers the token with the edge's SEQ and moves the SEQ on by 1 modulo 256; no other edge of
the cask changes; every flit handed to the edge's engine carries that number, with LAST on the last one alone. -/
def Obligations.TokenSendSpendsOneCredit : Prop :=
  ∀ (s : State) (t c n : Nat) (d : Bytes) (k : CaskCtx) (ed : Edge), (s.tile t).cask c = some k → kget k.edges n = some ed → 0 < ed.credits →
    ∃ k' fs u, s.sendToken t c n d = State.injectBy u t (eeEng (imgEdge k.image n)) fs ∧ ((s.sendToken t c n d).tile t).cask c = some k'
      ∧ kget k'.edges n = some ⟨ed.credits - 1, (ed.seq + 1) % 256⟩
      ∧ (∀ m, m ≠ n → kget k'.edges m = kget k.edges m)
      ∧ u.tiles = (s.setTile t ((s.tile t).setCask c k')).tiles ∧ fs ≠ []
      ∧ (∀ f ∈ fs, f.seq = ed.seq ∧ f.kind = 6 ∧ f.vc = 2 ∧ f.payload.length = 64)
      ∧ (∀ f ∈ fs.dropLast, f.last = false) ∧ (∀ f ∈ fs.getLast?, f.last = true)

/-- Stream engines: STREAM_ISSUE of a read ring that may read and holds fewer than 64 reads issues one line's read, of one that may not read the next
prefetch that is due, and of a write ring the next line of the slot at HEAD; READ_DATA_ARRIVAL of a delivered line that the engine awaits lands it in
its slot; STREAM_RING_POP frees a slot at HEAD whose lines have all landed; STREAM_RING_PUSH fills the slot at ISSUE of a write ring;
WRITE_ACK_ARRIVAL counts a delivered acknowledgement, the last one freeing the slot at HEAD; SHADOW_WRITE sets a shadow that is not valid. -/
def Obligations.StreamRowsComplete : Prop :=
  (∀ (t c e : Nat) (errs : List WordErr) (g : Stream) (s : State), s.streamAt t c e = some g → s.engineServes t c = true →
      (sdDirn g.active = 0 → s.mayRead t c g = true → (s.tile t).engineReads e < 64 → exec (.streamIssue t c e errs) s = .next (s.issueRead t c e g))
      ∧ (sdDirn g.active = 0 → s.mayRead t c g = false → s.closedSlot t c = false → exec (.streamIssue t c e errs) s = .next (s.issueAhead t c e g))
      ∧ (sdDirn g.active = 1 → exec (.streamIssue t c e errs) s = .next (s.issueWrite t c e g errs)))
    ∧ (∀ (t c e sl l : Nat) (d : Bytes) (f : Flit) (g : Stream) (r : RingSlot) (s : State), s.streamAt t c e = some g → kget g.slots sl = some r →
        s.delivered t (fun f => f.kind == 2 && f.qid == 64 * c + e && f.payload == payload64 d && g.awaits f.seq sl l) = some f →
        exec (.readDataArrival t c e sl l d) s = .next (((s.takeEject t f).modTile t fun x =>
          x.wsWrite (ringAddr g.active sl + 64 * l) (payload64 d)).setStream t c e (Stream.answered { g with
            slots := kput g.slots sl { r with landed := r.landed ++ [l] }
            outstanding := g.outstanding - 1 } f.seq)))
    ∧ (∀ (t c e : Nat) (errs : List WordErr) (g : Stream) (r : RingSlot) (x : Tile) (s : State), s.streamAt t c e = some g → kget g.slots g.head = some r →
        s.anyRuns t c = true → sdDirn g.active = 0 → r.landed.length = sdLines g.active →
        (s.tile t).noteErrs [(0, ringAddr g.active g.head, 64 * sdLines g.active)] errs = x → x.badIn [(0, ringAddr g.active g.head, 64 * sdLines g.active)] = [] →
        exec (.streamRingPop t c e errs) s = .next ((s.setTile t x).setStream t c e { g with
          head := (advance (sdSlots g.active) g.head g.hwrap).1
          hwrap := (advance (sdSlots g.active) g.head g.hwrap).2
          slots := kdel g.slots g.head }))
    ∧ (∀ (t c e : Nat) (d : Bytes) (g : Stream) (s : State), s.streamAt t c e = some g → s.anyRuns t c = true → sdDirn g.active = 1 → g.full = false →
        0 < g.remain → d.length = 64 * sdLines g.active →
        exec (.streamRingPush t c e d) s = .next ((s.modTile t fun x => x.wsWrite (ringAddr g.active g.issue) d).setStream t c e
          (Stream.issueNext { g with slots := kput g.slots g.issue ⟨0, [], true, 0, slotAddrs g.active (sdTotal g.active - g.remain)⟩ })))
    ∧ (∀ (t c e sl : Nat) (f : Flit) (g : Stream) (r : RingSlot) (s : State), s.streamAt t c e = some g → kget g.slots sl = some r →
        s.delivered t (fun f => f.kind == 3 && f.qid == 64 * c + e && g.waits.any fun w => w.1 == f.seq && w.2.1 == sl) = some f →
        (r.acks + 1 = sdLines g.active → sl = g.head → exec (.writeAckArrival t c e sl) s = .next ((s.takeEject t f).setStream t c e (g.answered f.seq).headNext))
        ∧ (r.acks + 1 < sdLines g.active → exec (.writeAckArrival t c e sl) s = .next ((s.takeEject t f).setStream t c e { g with
          waits := g.waits.filter fun w => w.1 != f.seq
          slots := kput g.slots sl { r with acks := r.acks + 1 } })))
    ∧ (∀ (t c e : Nat) (d : Bytes) (g : Stream) (s : State), s.streamAt t c e = some g → s.classRuns t c 0x70 0x7F = true → sdValid g.shadow = false →
        exec (.shadowWrite t c e d false) s = .next (s.setStream t c e (Stream.rearm { g with shadow := sdSetValid (payload64 d) true })))

/-- A stream engine never holds more than 64 reads outstanding: where it holds at most 64 over all casks of the tile, so it does after any issue of a slot
of a read ring. -/
def Obligations.EngineHoldsAtMost64Reads : Prop :=
  ∀ (s : State) (t c e : Nat) (g : Stream), s.streamAt t c e = some g → (s.tile t).engineReads e ≤ 64 →
    ((s.issueRead t c e g).tile t).engineReads e ≤ 64

/-- Tally rows: TALLY_REQUEST_ISSUE by the tally micro-operation of the running cask of a tile that has none outstanding numbers a request from the
sequence of the counter's die, moves that sequence on, and sends it; TALLY_RESEND_TIMER sends the identical request again; TALLY_REQUEST, the request
having reached the rim, is served by the tally unit and its grant leaves by the same attach link (whose side and class the spec leaves open: log 27);
TALLY_GRANT of a delivered grant with the number outstanding ends the request and gives its work, with any other number it is discarded. -/
def Obligations.TallyRowsComplete : Prop :=
  (∀ (t counter count : Nat) (r : TallyReq) (s : State), s.classRuns t (s.tile t).running 0x70 0x7F = true → (s.tile t).tallyReq = none → 1 ≤ count → count ≤ 256 →
      r = ⟨(s.tile t).running, (s.tile t).tallySeq.getD (counter / 1024 % 4) 0, counter, (kget (s.tile t).epochs counter).getD 0, count⟩ →
      exec (.tallyRequestIssue t counter count) s = .next ((s.setTile t { s.tile t with
        tallyReq := some r
        tallySeq := modAt (s.tile t).tallySeq (counter / 1024 % 4) fun n => (n + 1) % 256 }).inject t [tallyFlit t r]))
    ∧ (∀ (t : Nat) (r : TallyReq) (s : State), (s.tile t).tallyReq = some r → exec (.tallyResendTimer t) s = .next (s.inject t [tallyFlit t r]))
    ∧ (∀ (t seq k epoch count : Nat) (b : Buffered) (s : State),
        s.atRim t 1 (fun f => f.kind == 4 && f.seq == seq && f.payload == tallyPayload k epoch count) = some b →
        exec (.tallyRequest t seq k epoch count) s = .next ((State.takeRim { s with tally := (s.tally.request t seq k epoch count).2 } t 1
          fun f => f.kind == 4 && f.seq == seq && f.payload == tallyPayload k epoch count).rimSend t 1
            (grantFlit t b.flit.cask seq (s.tally.request t seq k epoch count).1)))
    ∧ (∀ (t seq : Nat) (f : Flit) (g : Grant) (r : TallyReq) (s : State), (s.tile t).tallyReq = some r →
        s.delivered t (fun f => f.kind == 5 && f.seq == seq && f.payload == payload64 g.bytes) = some f →
        (r.seq = seq → exec (.tallyGrant t seq g) s = .next ((s.takeEject t f).modTile t fun x =>
          { x with tallyReq := none, work := if g.status ≤ 1 then some (g.first, g.got) else none }))
        ∧ (r.seq ≠ seq → exec (.tallyGrant t seq g) s = .next (s.takeEject t f)))

/-- How a tally unit serves a request (R151): a replay gets the same grant and a late copy of an older request a duplicate answer, neither adding
anything; a new request with another epoch is stale, one of a counter at its limit exhausted; otherwise it is granted the next indices, as many as
asked or as are left, and the counter moves on by as many. A counter's value never passes LIMIT, and what is granted is exactly what the value passes
over, so that no value is granted again within an epoch. -/
def Obligations.TallyUnitServesByItsRecords : Prop :=
  (∀ (y : Tally) (t seq c epoch n last : Nat) (g : Grant), kget y.recs (4096 * (c / 1024) + t) = some (last, g) →
      (seq = last → y.request t seq c epoch n = (g, y))
      ∧ (seq ≠ last → seq ≠ (last + 1) % 256 → y.request t seq c epoch n = (⟨4, g.epoch, 0xFFFFFFFF, 0⟩, y)))
    ∧ (∀ (y : Tally) (t seq c epoch n : Nat) (k : Counter), kget y.counters c = some k →
        (∀ last g, kget y.recs (4096 * (c / 1024) + t) = some (last, g) → seq ≠ last ∧ seq = (last + 1) % 256) →
        ∃ a k', y.request t seq c epoch n = (a, { y with counters := kput y.counters c k', recs := kput y.recs (4096 * (c / 1024) + t) (seq, a) })
          ∧ k'.limit = k.limit ∧ k'.base = k.base ∧ k'.epoch = k.epoch
          ∧ (epoch ≠ k.epoch → a = ⟨3, k.epoch, 0xFFFFFFFF, 0⟩ ∧ k' = k)
          ∧ (epoch = k.epoch → k.limit ≤ k.value → a = ⟨2, epoch, 0xFFFFFFFF, 0⟩ ∧ k' = k)
          ∧ (epoch = k.epoch → k.value < k.limit → n ≤ k.limit - k.value → a = ⟨0, epoch, k.value, n⟩ ∧ k'.value = k.value + n)
          ∧ (epoch = k.epoch → k.value < k.limit → k.limit - k.value < n → a = ⟨1, epoch, k.value, k.limit - k.value⟩ ∧ k'.value = k.limit)
          ∧ (k.value ≤ k.limit → k'.value ≤ k.limit) ∧ k.value ≤ k'.value)

/-- The mesh, in fc n: FLIT_FORWARD of an output that is not blocked sends a flit waiting for replay first, else the winner of the output's contenders, 1
older for the hop; the rim's side of an attach link sends what the rim has waiting, AGE 0; FLIT_RECEIVE takes the next flit off the wires: a good one
that is awaited enters the receiver's buffer, one with a word beyond correction is refused until it is sent again; HOP_CREDIT_RETURN gives back the
credit of a buffer that has been left; MESH_REPLAY_REQUEST makes the sender replay the channel from the failed flit, after the ninth failure fails the
link. -/
def Obligations.MeshRowsComplete : Prop :=
  (∀ (t p n : Nat) (s : State), s.pwr.stopped = false → p < 4 → (s.link (linkKey t p)).blocked = false →
      (∀ w rest, (s.link (linkKey t p)).resend = w :: rest → exec (.flitForward t p false n) s =
        .next (State.modLink { s with fc := max s.fc n } (linkKey t p) fun l => l.sendReplay w rest))
      ∧ (∀ c, (s.link (linkKey t p)).resend = [] → (s.atFc n).winner t p n = some c → exec (.flitForward t p false n) s =
        .next (((s.atFc n).leaveInput t n c).modLink (linkKey t p) fun l => l.send { c.2.flit with age := min 1023 (c.2.age n + 1) })))
    ∧ (∀ (t n : Nat) (c : Contender) (s : State), s.pwr.stopped = false → (s.atFc n).winner t 4 n = some c → exec (.flitForward t 4 false n) s =
        .next (((s.atFc n).leaveInput t n c).modTile t fun x => { x with eject := x.eject ++ [{ c.2.flit with age := min 1023 (c.2.age n + 1) }] }))
    ∧ (∀ (t p n : Nat) (c : Contender) (s : State), s.pwr.stopped = false → attaches t p = true → (s.link (enterKey t p)).blocked = false →
        (s.link (enterKey t p)).resend = [] → winnerOf n ((s.atFc n).rimHeads t p) = some c → exec (.flitForward t p true n) s =
          .next (State.modLink { s with fc := max s.fc n, rimOut := s.rimOut.erase (t, p, c.2.flit) } (enterKey t p) fun l =>
            l.send { c.2.flit with age := 0, src := t }))
    ∧ (∀ (t p n : Nat) (rim : Bool) (w : Sent) (rest : List Sent) (u s : State), p < 4 → (rim = true → attaches t p = true) →
        (s.link (arriveKey t p rim)).failed = false → (s.link (arriveKey t p rim)).wire = w :: rest →
        u = (s.atFc n).modLink (arriveKey t p rim) (fun l => { l with wire := rest }) → (u.link (arriveKey t p rim)).wants w = true →
        exec (.flitReceive t p rim n none) s = .next ((u.modLink (arriveKey t p rim) fun l => l.accept w).enterBuffer (arriveKey t p rim) t p rim w)
        ∧ (∀ x, exec (.flitReceive t p rim n (some ⟨x, true⟩)) s = .next ((u.modLink (arriveKey t p rim) fun l => l.refuse w).countLink t)))
    ∧ (∀ (t p vc : Nat) (rim res : Bool) (s : State), (vc, res) ∈ (s.link (sendKey t p rim)).back → exec (.hopCreditReturn t p vc rim res) s =
        .next (s.modLink (sendKey t p rim) fun l => ({ l with back := l.back.erase (vc, res) } : Link).regain vc res))
    ∧ (∀ (t p vc n : Nat) (rim : Bool) (s : State), p < 4 → (rim = true → attaches t p = true) → (s.link (sendKey t p rim)).failed = false →
        (s.link (sendKey t p rim)).asks vc = some n →
        ((s.link (sendKey t p rim)).fails.getD vc 0 < 9 → exec (.meshReplayRequest t p vc rim) s = .next (s.modLink (sendKey t p rim) fun l => l.replayFrom vc n))
        ∧ (9 ≤ (s.link (sendKey t p rim)).fails.getD vc 0 → exec (.meshReplayRequest t p vc rim) s = .next (s.linkFails t p)))

/-- A flit bound for a tile never moves away from it: at any other tile the port it takes leads to a neighbour one hop nearer its destination, east or
west first until the column is right and only then north or south; at its destination it takes the local port. -/
def Obligations.RouteNeverLeadsAway : Prop :=
  ∀ (t : Nat) (f : Flit), t < 2048 → f.dst < 2048 → f.exit = 0 →
    (t = f.dst → route t f = 4)
    ∧ (t ≠ f.dst → ∃ n q, farEnd t (route t f) = some (n, q)
        ∧ Nat.dist (tileCol n) (tileCol f.dst) + Nat.dist (tileRow n) (tileRow f.dst) + 1
          = Nat.dist (tileCol t) (tileCol f.dst) + Nat.dist (tileRow t) (tileRow f.dst)
        ∧ (tileCol t ≠ tileCol f.dst → tileRow n = tileRow t))

/-- Direct registers: P0_ARM with LOG2N from 6 to 12 captures pair 0 as a fresh ring at the bases written, writes its status word and sets ARMED, and with
another LOG2N sets ARMERR and arms nothing; P0_DISARM marks pair 0 to go once idle; CTL_INT_STATUS_WRITE clears the bits written 1, a set in the same
cc winning; CTL_INT_ENABLE_WRITE keeps bits 3 to 0 and sends the message where an enabled bit is already set; SRING_DB moves a live ring's tail or
head, an index of N or more only raising RING_ERROR, and is dropped and counted where the ring is not live. The recorder window, the diagnostic words
and writes by offset: a write of EVR_WIN_SEQ, or of NEXT with a record in the window, begins a fetch; its end puts the first held record at or after
the number in the window, or none, and sets WINRDY; a read of the tick's low word latches the high word; each heartbeat counts modulo 65536;
REGISTER_WRITE of a scratch word stores it, of the interrupt vector keeps bits 5 to 0, of a base of pair 0 not ARMED stores it with its reserved bits
0, of a read-only word or at another width changes nothing. -/
def Obligations.RegisterRowsComplete : Prop :=
  ((∀ (v ctl : BitVec 32) (s : State), v.getLsbD 0 = true → s.regs.arm = false → ctl = s.regs.p0Write v →
      (6 ≤ ctl.toNat / 2 % 16 → ctl.toNat / 2 % 16 ≤ 12 → ∃ t p, exec (.p0Arm v) s = .next t ∧ kget t.tmi.pairs 0 = some p
          ∧ p.log2n = ctl.toNat / 2 % 16 ∧ p.cbase = s.regs.p0c.toNat ∧ p.qbase = s.regs.p0q.toNat ∧ p.sbase = s.regs.p0s.toNat
          ∧ p.chead = 0 ∧ p.ctail = 0 ∧ p.tail = 0 ∧ p.qhead = 0 ∧ p.nlost = 0 ∧ p.stopped = false ∧ p.closing = false
          ∧ t = { s with
              regs := { s.regs with p0ctl := ctl, armErr := false, armed := true }
              tmi := { s.tmi with pairs := kput s.tmi.pairs 0 p }
              out := { s.out with writes := s.out.writes ++ [(0, s.regs.p0s.toNat, p.status)] } })
      ∧ (ctl.toNat / 2 % 16 < 6 ∨ 12 < ctl.toNat / 2 % 16 →
          exec (.p0Arm v) s = .next { s with regs := { s.regs with p0ctl := ctl, armErr := true } }))
    ∧ (∀ (v : BitVec 32) (p : Pair) (s : State), v.getLsbD 0 = false → s.regs.arm = true → kget s.tmi.pairs 0 = some p →
        exec (.p0Disarm v) s = .next (State.settlePairs { s with
          regs := { s.regs with p0ctl := s.regs.p0Write v }
          tmi := { s.tmi with pairs := kput s.tmi.pairs 0 { p with closing := true } } }))
    ∧ (∀ (v hw : BitVec 32) (s : State), ∃ t, exec (.ctlIntStatusWrite v hw) s = .next t
        ∧ t.regs.intStatus = (s.regs.intStatus &&& ~~~ v) ||| (hw &&& 0xF)
        ∧ (hw &&& 0xF &&& ~~~ s.regs.intStatus &&& s.regs.intEnable = 0 → t = { s with regs := { s.regs with intStatus := t.regs.intStatus } })
        ∧ (hw &&& 0xF &&& ~~~ s.regs.intStatus &&& s.regs.intEnable ≠ 0 → s.regs.msixMasked.contains (s.regs.intVec.toNat % 64) = false →
            t = { s with regs := { s.regs with intStatus := t.regs.intStatus }, out := { s.out with msix := s.out.msix ++ [(0, s.regs.intVec.toNat % 64)] } }))
    ∧ (∀ (v : BitVec 32) (s : State),
        (v &&& 0xF &&& s.regs.intStatus = 0 → exec (.ctlIntEnableWrite v) s = .next { s with regs := { s.regs with intEnable := v &&& 0xF } })
        ∧ (v &&& 0xF &&& s.regs.intStatus ≠ 0 → s.regs.msixMasked.contains (s.regs.intVec.toNat % 64) = false → exec (.ctlIntEnableWrite v) s =
            .next { s with regs := { s.regs with intEnable := v &&& 0xF }, out := { s.out with msix := s.out.msix ++ [(0, s.regs.intVec.toNat % 64)] } }))
    ∧ (∀ (port1 : Bool) (ring : Nat) (v : BitVec 32) (r : SRing) (s : State), port1 = (s.ringPort ring == 1) →
        (kget s.srv.subs ring = some r → v.toNat % 65536 < 2 ^ r.log2n →
          exec (.sringDb port1 false ring v) s = .next { s with srv := { s.srv with subs := kput s.srv.subs ring { r with db := v.toNat % 65536 } } })
        ∧ (kget s.srv.outs ring = some r → v.toNat % 65536 < 2 ^ r.log2n →
          exec (.sringDb port1 true ring v) s = .next { s with srv := { s.srv with outs := kput s.srv.outs ring { r with db := v.toNat % 65536 } } })
        ∧ (kget s.srv.subs ring = some r → 2 ^ r.log2n ≤ v.toNat % 65536 → exec (.sringDb port1 false ring v) s = .next (s.ringError 2 ring v.toNat))
        ∧ (kget s.srv.outs ring = some r → 2 ^ r.log2n ≤ v.toNat % 65536 → exec (.sringDb port1 true ring v) s = .next (s.ringError 3 ring v.toNat))
        ∧ (kget s.srv.subs ring = none → exec (.sringDb port1 false ring v) s = .next { s with regs := { s.regs with dbDrop := min (s.regs.dbDrop + 1) 0xFFFFFFFF } })
        ∧ (kget s.srv.outs ring = none → exec (.sringDb port1 true ring v) s = .next { s with regs := { s.regs with dbDrop := min (s.regs.dbDrop + 1) 0xFFFFFFFF } })))
    ∧ ((∀ (v : BitVec 32) (s : State), exec (.evrWinSeqWrite v) s =
      .next { s with regs := { s.regs with winSeq := v, winBusy := some v.toNat, winRec := none, winNone := false } })
    ∧ (∀ (v : BitVec 32) (r : Record) (s : State), s.regs.winRec = some r → v.getLsbD 0 = true → exec (.evrWinNext v) s =
        .next { s with regs := { s.regs with winBusy := some (r.seq + 1), winRec := none, winNone := false } })
    ∧ (∀ (n : Nat) (s : State), s.regs.winBusy = some n → ∃ t, exec .evrWinFetchDone s = .next t
        ∧ t.regs.winBusy = none ∧ t.regs.winRec = s.evr.firstFrom n ∧ t.regs.winNone = (s.evr.firstFrom n).isNone ∧ t.regs.intStatus = s.regs.intStatus ||| 8
        ∧ t.evr = s.evr
        ∧ (∀ r, s.evr.firstFrom n = some r → n ≤ r.seq ∧ (r ∈ s.evr.ring ∨ r ∈ s.evr.staging)
            ∧ (∀ x, x ∈ s.evr.ring ∨ x ∈ s.evr.staging → n ≤ x.seq → r.seq ≤ x.seq)))
    ∧ (∀ s : State, exec .ctlTickLowRead s = .next { s with clk := { s.clk with tickHigh := s.clk.tick / 2 ^ 32, tickLatched := true } })
    ∧ (∀ s : State, s.life.dev ≠ .off → exec .managerHeartbeat s = .next { s with clk := { s.clk with mgrHb := (s.clk.mgrHb + 1) % 65536 } })
    ∧ (∀ s : State, s.life.dev = .opened → s.pwr.stopped = false → exec .firmwareHeartbeat s = .next { s with clk := { s.clk with fwHb := (s.clk.fwHb + 1) % 65536 } })
    ∧ (∀ (v : BitVec 64) (s : State), s.life.dev ≠ .off →
        (∀ i, i < 4 → exec (.registerWrite (0x310 + 4 * i) 4 v) s = .next { s with regs := { s.regs with scratch := setAt s.regs.scratch i (v.setWidth 32) } })
        ∧ exec (.registerWrite 0x208 4 v) s = .next { s with regs := { s.regs with intVec := v.setWidth 32 &&& 0x3F } }
        ∧ (s.regs.armed = false → exec (.registerWrite 0x1000 8 v) s = .next { s with regs := { s.regs with
            held := kdel s.regs.held 0x1000, p0c := v &&& 0xFFFFFFFFFFFFF000 } })
        ∧ (∀ off, off < 0x108 → off % 4 = 0 → exec (.registerWrite off 4 v) s = .next s)
        ∧ (∀ off w, w ≠ 4 → w ≠ 8 → exec (.registerWrite off w v) s = .next s)))

/-- Serving descriptors: SUBMISSION_FETCH of the ring served next takes the descriptor, moves the head on and writes it to the status word (a failed read
stops the ring); SUBMIT that fails a check writes one REFUSED record, one that passes them all is admitted to a free entry of the partition's share;
CANCEL, PAUSE and RESUME of the entry that RIDX and TAG name set its request bit, or are refused; SERVING_HOST_ACCESS_FAIL dooms the request, or stops
the ring. -/
def Obligations.DescriptorRowsComplete : Prop :=
  (∀ (ring : Nat) (d : Bytes) (q : SRing) (s : State), s.running = true → s.nextRing = some ring → kget s.srv.subs ring = some q → d.length = 64 →
      (∀ o, kget s.srv.outs (sdcOring d) = some o → o.stopped = false →
        exec (.submissionFetch ring (.ok d)) s = .next { s with
          out := { s.out with writes := s.out.writes ++ [(s.ringPort ring, q.sbase, le 8 ((q.ptr + 1) % 2 ^ q.log2n))] }
          srv := { s.srv with rr := (ring + 1) % 16, subs := kput s.srv.subs ring { q with ptr := (q.ptr + 1) % 2 ^ q.log2n, taken := [d] } } })
      ∧ (kget s.srv.outs (sdcOring d) = none →
        exec (.submissionFetch ring (.ok d)) s = .next { s with
          out := { s.out with writes := s.out.writes ++ [(s.ringPort ring, q.sbase, le 8 ((q.ptr + 1) % 2 ^ q.log2n))] }
          srv := { s.srv with rr := (ring + 1) % 16, subs := kput s.srv.subs ring { q with ptr := (q.ptr + 1) % 2 ^ q.log2n, taken := [] } } })
      ∧ exec (.submissionFetch ring .cxlError) s =
        .next (State.ringError { s with srv := { s.srv with subs := kput s.srv.subs ring { q with stopped := true }, rr := (ring + 1) % 16 } } 5 ring 0))
    ∧ (∀ (ring : Nat) (d : Bytes) (prompt : HostRead) (s : State), s.canProcess ring d = true → sdcOp d = 1 →
        (∀ st, submitCheck (s.popTaken ring d) d = .error st → exec (.submit ring d prompt) s = .next ((s.popTaken ring d).refused d 0 st))
        ∧ (∀ pn p, submitCheck (s.popTaken ring d) d = .ok (pn, p) → exec (.submit ring d prompt) s = .next (admitReq d prompt pn p (s.popTaken ring d))))
    ∧ (∀ (ring : Nat) (d : Bytes) (r : Req) (s u : State), s.canProcess ring d = true → u = s.popTaken ring d → kget u.srv.reqs (sdcRidx d) = some r →
        r.tag = sdcTag d → reservedZero d sdcFields = true →
        (sdcOp d = 2 → r.st ≠ .handoff →
          exec (.cancel ring d) s = .next { u with srv := { u.srv with reqs := kput u.srv.reqs (sdcRidx d) { r with canreq := true } } })
        ∧ (sdcOp d = 3 → r.st = .prefill ∨ r.st = .decode →
          exec (.pause ring d) s = .next { u with srv := { u.srv with reqs := kput u.srv.reqs (sdcRidx d) { r with paureq := true } } })
        ∧ (sdcOp d = 4 → r.phost = true →
          exec (.resume ring d) s = .next { u with srv := { u.srv with reqs := kput u.srv.reqs (sdcRidx d) { r with resreq := true } } })
        ∧ (sdcOp d = 2 → r.st = .handoff → exec (.cancel ring d) s = .next (u.refused d (sdcRidx d) svHandoffBusy))
        ∧ (sdcOp d = 4 → r.phost = false → exec (.resume ring d) s = .next (u.refused d (sdcRidx d) svDesc)))
    ∧ (∀ (ridx : Nat) (r : Req) (s : State), s.running = true → kget s.srv.reqs ridx = some r →
        exec (.servingHostAccessFail (.prompt ridx)) s = .next { s with srv := { s.srv with reqs := kput s.srv.reqs ridx { r with doom := some svHost } } })
    ∧ (∀ (ring : Nat) (r : SRing) (s : State), s.running = true → kget s.srv.outs ring = some r → r.stopped = false → s.life.corking = none →
        exec (.servingHostAccessFail (.output ring)) s = .next (s.stopOutRing ring))

/-- Which check of R202 refuses a submission: a field out of range first, then the model slot (empty, a decode-only partition, or still loading), the
leader, the tenant's key, the shape, and last the request table; a submission that passes all six is taken by the partition bound to its slot. -/
def Obligations.SubmissionChecksRunInOrder : Prop :=
  (∀ (s : State) (d : Bytes), submitOk d = false → submitCheck s d = .error 0x0010)
    ∧ (∀ (s : State) (d : Bytes), submitOk d = true → s.partOfSlot (fld d 2 0 6) = none → submitCheck s d = .error 0x0011)
    ∧ (∀ (s : State) (d : Bytes) (pn : Nat) (p : Partition), submitOk d = true → s.partOfSlot (fld d 2 0 6) = some (pn, p) →
        (p.man.role = 2 ∨ p.st = .loading → submitCheck s d = .error 0x0011)
        ∧ (p.man.role ≠ 2 → p.st ≠ .loading →
            (p.man.shard ≠ 0 → submitCheck s d = .error 0x0012)
            ∧ (p.man.shard = 0 → kget s.srv.keys (fld d 3 0 8) = none → submitCheck s d = .error 0x0013)
            ∧ (p.man.shard = 0 → (kget s.srv.keys (fld d 3 0 8)).isSome →
                (p.man.ctxMax < sdcPlen d + sdcMaxnew d → submitCheck s d = .error 0x0014)
                ∧ (sdcPlen d + sdcMaxnew d ≤ p.man.ctxMax →
                    ((∀ i ∈ p.share, (kget s.srv.reqs i).isSome) → submitCheck s d = .error 0x0015)
                    ∧ ((∃ i ∈ p.share, kget s.srv.reqs i = none) → submitCheck s d = .ok (pn, p))))))

/-- A record reaches host memory before the status word that covers it: a record written to a live ring whose link is up is exactly two host writes on the
ring's port, the 16 bytes at the tail and then the tail moved on by one modulo the ring, after which the ring's own tail is that; a stopped ring takes
nothing. -/
def Obligations.RecordIsWrittenBeforeItsStatusWord : Prop :=
  (∀ (s : State) (ring : Nat) (r : SRing) (rec : Bytes), kget s.srv.outs ring = some r → r.stopped = false → s.ringLinked ring = true →
      (s.writeRecord ring rec).out.writes = s.out.writes ++ [(s.ringPort ring, r.base + 16 * r.ptr, rec), (s.ringPort ring, r.sbase, le 8 ((r.ptr + 1) % 2 ^ r.log2n))]
      ∧ (s.writeRecord ring rec).srv = { s.srv with outs := kput s.srv.outs ring { r with ptr := (r.ptr + 1) % 2 ^ r.log2n } })
    ∧ (∀ (s : State) (ring : Nat) (r : SRing) (rec : Bytes), kget s.srv.outs ring = some r → r.stopped = true → s.writeRecord ring rec = s)

/-- Handoffs, each message having come (its packet waits in an ingress buffer, or its node is the chip's own): HO_OPEN is accepted, or turned away with
the code of R229's first check that fails, which its reply carries; HO_ACCEPT gives the source the receiver's pages, has the other shards ship theirs
and begins shipping; HO_REFUSAL makes it wait, where busy, or try the other node; the retry opens again; KVSHIP is served by its allotment; KVACK ends
the page's transaction and ships on; HO_COMMIT puts the receiver's entry in DECODE; HO_COMMIT_COMPLETE hands the source's over or faults it PEER;
HO_ABORT frees the receiver's entry without a record and is answered; HO_RECEIVER_SILENCE ends it PEER. -/
def Obligations.HandoffRowsComplete : Prop :=
  (∀ (m : HoOpen) (s : State), s.running = true → s.seHere 0x08 m.node m.tag = true →
      (∀ e, openCheck (s.takeSe 0x08 m.node m.tag) m = .error e →
        exec (.hoOpen m) s = .next ((s.takeSe 0x08 m.node m.tag).seReply m.node m.tag m.gen m.cls (.refuse e)))
      ∧ (∀ pn p, openCheck (s.takeSe 0x08 m.node m.tag) m = .ok (pn, p) → exec (.hoOpen m) s = .next (acceptOpen m pn p (s.takeSe 0x08 m.node m.tag))))
    ∧ (∀ (ridx peer : Nat) (pages : List Nat) (h : Handoff) (s : State), s.running = true → s.sourceOf ridx = some h → h.committed = false →
        s.answerHere ridx h.node = true →
        (h.peerPages = [] → exec (.hoAccept ridx peer pages) s = .next (((((s.answered ridx h.node).modReq ridx fun r => { r with pridx := peer }).modHandoff ridx
          fun h => { h with peerPages := pages, shipped := 0, unacked := [] }).orderShards ridx).shipMore ridx 17))
        ∧ (∀ st, exec (.hoRefusal ridx st true) s = .next ((s.answered ridx h.node).modHandoff ridx fun h => { h with busyWait := true }))
        ∧ (∀ st, exec (.hoRefusal ridx st false) s = .next ((s.answered ridx h.node).tryAlternate ridx st).startHandoffs))
    ∧ (∀ (ridx : Nat) (h : Handoff) (r : Req) (m : Manifest) (s t : State), s.running = true → s.sourceOf ridx = some h → kget s.srv.reqs ridx = some r →
        s.manOf r = some m → h.busyWait = true → s.sendOpen ridx (m.anode != 0xFFFF && !h.alt) = (false, t) → exec (.hoBusyRetryTimer ridx) s = .next t)
    ∧ (∀ (p : Packet) (s : State), s.running = true → p.ptype = 0x07 → s.inIngress p = true → exec (.kvship p) s = .next ((s.leaveIngress p).serveShip p))
    ∧ (∀ (port ridx : Nat) (p : Packet) (x : FabTx) (s u : State), s.inIngress p = true → p.ptype = 0x14 → u = s.leaveIngress p → u.txOf p.tag = some x → x.node = p.src →
        x.ptype = 0x07 → x.user = .serving ridx →
        exec (.kvack port p) s = .next (((((u.endTx x fsOk []).afterTx).settleFrom u.fab.done.length).modHandoff ridx
          fun h => { h with unacked := h.unacked.erase x.addr }).shipMore ridx 17))
    ∧ (∀ (node ridx tag gen budget : Nat) (r : Req) (p : Partition) (s u : State), s.running = true → s.seHere 0x08 node tag = true → u = s.takeSe 0x08 node tag →
        kget u.srv.reqs ridx = some r → r.st = .handoff → r.hrecv = true → r.pnode = node → u.part r.part = some p →
        u.staleRequest (seRequest u node tag gen r.cls) = false →
        exec (.hoCommit node ridx tag gen budget) s = .next (takeCommit node ridx tag gen budget r p u))
    ∧ (∀ (ridx : Nat) (h : Handoff) (r : Req) (s : State), s.running = true → s.sourceOf ridx = some h → kget s.srv.reqs ridx = some r → h.committed = true →
        (s.answerHere ridx h.node = true → exec (.hoCommitComplete ridx true) s = .next (handOver ridx r h (s.answered ridx h.node)))
        ∧ exec (.hoCommitComplete ridx false) s = .next ((s.answered ridx h.node).endReq ridx svPeer).startHandoffs)
    ∧ (∀ (node ridx tag gen i : Nat) (r : Req) (s u : State), s.running = true → s.seHere 0x08 node tag = true → u = s.takeSe 0x08 node tag →
        (∀ c, u.staleRequest (seRequest u node tag gen c) = false) → u.recvOf node ridx = some (i, r) →
        exec (.hoAbort node ridx tag gen) s = .next (((u.closeRecv i).freeReq i).seReply node tag gen r.cls .aborted).startHandoffs)
    ∧ (∀ (ridx : Nat) (r : Req) (s : State), s.running = true → kget s.srv.reqs ridx = some r → r.st = .handoff → r.hrecv = true →
        exec (.hoReceiverSilence ridx) s = .next (State.startHandoffs (State.stage ((s.closeRecv ridx).endReq ridx svPeer) 0x000D
          (pack 32 [(0, 0, 8, 2), (1, 0, 16, ridx), (3, 0, 32, r.tag)]))))

/-- Serving commands, accepted: SRING_CREATE of a free number with bases aligned as R197 says makes the ring, anything else is SRING_STATE; SRING_DESTROY
removes a ring, an output ring only where no entry names it; REQ_QUERY writes the entry's 64 bytes, a FREE one as zeros; TENANT_KEY_SET installs or
removes the key, the tenant's prefix entries go, and its live requests neither probe nor insert any more. -/
def Obligations.ServingCommandsComplete : Prop :=
  (∀ (c : Cmd) (s : State), Accepted 0x0401 c s →
      (sringOk c.desc s = true → fld c.desc 16 4 1 = 1 →
        exec (.sringCreate c) s = .next (done c [] { s with srv := { s.srv with outs := kput s.srv.outs (fld c.desc 16 0 4) (newRing c.desc) } }))
      ∧ (sringOk c.desc s = true → fld c.desc 16 4 1 ≠ 1 →
        exec (.sringCreate c) s = .next (done c [] { s with srv := { s.srv with subs := kput s.srv.subs (fld c.desc 16 0 4) (newRing c.desc) } }))
      ∧ (sringOk c.desc s = false → exec (.sringCreate c) s = .next (refuse c 0x0500 s)))
    ∧ (∀ (c : Cmd) (r : SRing) (s : State), Accepted 0x0402 c s →
        (fld c.desc 16 4 1 = 1 → kget s.srv.outs (fld c.desc 16 0 4) = some r → (∀ e ∈ s.srv.reqs, e.2.oring ≠ fld c.desc 16 0 4) →
          exec (.sringDestroy c) s = .next (done c [] { s with srv := { s.srv with outs := kdel s.srv.outs (fld c.desc 16 0 4) } }))
        ∧ (fld c.desc 16 4 1 ≠ 1 → kget s.srv.subs (fld c.desc 16 0 4) = some r →
          exec (.sringDestroy c) s = .next (done c [] { s with srv := { s.srv with subs := kdel s.srv.subs (fld c.desc 16 0 4) } })))
    ∧ (∀ (c : Cmd) (s : State), Accepted 0x0403 c s →
        (kget s.srv.reqs (fld c.desc 16 0 13) = none → exec (.reqQuery c) s = .next (doneBuffer c (List.replicate 64 0) [] s))
        ∧ (∀ r, kget s.srv.reqs (fld c.desc 16 0 13) = some r → exec (.reqQuery c) s = .next (doneBuffer c (reqBytes s (fld c.desc 16 0 13) r) [] s)))
    ∧ (∀ (c : Cmd) (s u : State), Accepted 0x0404 c s → u = s.pfxPurge (fun e => e.tkey == fld c.desc 16 0 8) →
        exec (.tenantKeySet c) s = .next (done c [] { u with srv := { u.srv with
          keys := if fld c.desc 17 0 1 = 1 then kdel u.srv.keys (fld c.desc 16 0 8) else kput u.srv.keys (fld c.desc 16 0 8) (BitVec.ofNat 256 (fld c.desc 24 0 256))
          reqs := u.srv.reqs.map fun e => (e.1, if e.2.tkey = fld c.desc 16 0 8 then { e.2 with pfxlen := 0 } else e.2) } }))

/-- Fabric requests. FABRIC_REQUEST of a line's read to a node of the block, whose requester is at the rim with room for the answer and has no earlier
request waiting there, with a way to the next hop, a tag and no change or hold, is issued: it becomes an outstanding transaction under a new tag; one
to a node outside the block ends with NO_ROUTE. RD, WR, ADD32, ADD64, FADD32 and FADD64, each a packet of its type that waits in an ingress buffer and
breaks no rule of R251 and R252, leave the buffer and are performed, as accesses to their lines at the rim; WR that is not its write's last packet
waits for the rest. BAR_ARRIVE of the round awaited from a node not listed adds the node and is answered ACK; BAR_RELEASE of a pending arrival
completes it and is answered ACK. A request that is stale by R274 is answered ERR with STALE_GENERATION whatever its type. -/
def Obligations.FabricRequestRowsComplete : Prop :=
  (∀ (r : FabReq) (h : Nat) (s u : State), s.running = true → s.fabricAsked r = true → u = s.takeFabric r → u.userWaits r.user = false → r.ptype = 0x01 → r.granules = 1 →
      u.fab.change = none → r.node ≠ u.nodeId →
      (u.inMyBlock r.node = true → u.hopTo r.node = some h → kget u.fab.holds h = none → u.openPorts h ≠ [] → u.tagAvailable r.cls = true →
        exec (.fabricRequest r) s = .next ((u.issue r h).settleFrom s.fab.done.length))
      ∧ (u.inMyBlock r.node = false → exec (.fabricRequest r) s = .next ((u.endLocal r 6).settleFrom s.fab.done.length)))
    ∧ (∀ (p : Packet) (s u : State), s.running = true → s.inIngress p = true → u = s.leaveIngress p → u.staleRequest p = false →
        (p.ptype = 0x01 → p.addr % 64 = 0 → p.addr % 4096 + 64 * (p.len + 1) ≤ 4096 →
          exec (.rd p) s = .next (u.startOp ⟨p, 0, [], true, 0, []⟩ ((List.range (p.len + 1)).map fun i => ⟨.peer p.src p.tag, p.cls, p.addr + 64 * i, .read⟩)))
        ∧ (p.ptype = 0x02 → p.last = false → exec (.wr p) s = .next { u with fab := { u.fab with writes := u.fab.writes ++ [p] } })
        ∧ (p.ptype = 0x02 → p.last = true → p.pidx = 0 → (∀ q ∈ u.fab.writes, q.src ≠ p.src ∨ q.tag ≠ p.tag) → 1 ≤ p.len → p.len ≤ 4 → p.addr % 64 = 0 → p.addr % 4096 + 64 * p.len ≤ 4096 →
          exec (.wr p) s = .next (u.startOp ⟨p, 0, [], true, 0, []⟩
            ((List.range p.len).map fun i => ⟨.peer p.src p.tag, p.cls, p.addr + 64 * i, .write 0 (slice p.payload (64 * i) 64)⟩)))
        ∧ (∀ e ∈ ([(0x03, .add32 p, 4, false), (0x04, .add64 p, 8, false), (0x05, .fadd32 p, 4, true), (0x06, .fadd64 p, 8, true)] : List (Nat × Instr × Nat × Bool)),
            p.ptype = e.1 → p.len = 1 → p.addr % e.2.2.1 = 0 → exec e.2.1 s = .next (u.startOp ⟨p, 0, [], true, 0, []⟩
              [⟨.peer p.src p.tag, p.cls, p.addr / 64 * 64, .atomic (p.addr % 64) e.2.2.1 (ofLe (slice p.payload 0 e.2.2.1)) e.2.2.2⟩]))
        ∧ (p.ptype = 0x09 → p.len = 0 → ∀ b : Barrier, kget u.fab.barriers (p.addr % 1024) = some b → p.addr / 1024 % 65536 = b.round → (∀ e ∈ b.list, e.1 ≠ p.src) →
          b.list.length + 1 < b.n → exec (.barArrive p) s = .next (State.respond { u with fab := { u.fab with barriers := kput u.fab.barriers (p.addr % 1024) { b with
            list := b.list ++ [(p.src, p.tag)], oldest := if b.list.isEmpty then u.clk.tick else b.oldest } } } p 0x12 0 0 true []))
        ∧ (p.ptype = 0x0A → p.len = 0 → ∀ a : Arrival,
          (u.fab.arrivals.find? fun a => a.home == p.src && a.id == p.addr % 1024 && a.round == p.addr / 1024 % 65536) = some a →
          exec (.barRelease p) s = .next ((u.endArrival a 0).respond p 0x12 0 0 true []).arriveRetry))
    ∧ (∀ (p : Packet) (s u : State), s.running = true → s.inIngress p = true → u = s.leaveIngress p → u.staleRequest p = true →
        (p.ptype = 0x01 → exec (.rd p) s = .next (u.respondErr p 4)) ∧ (p.ptype = 0x03 → exec (.add32 p) s = .next (u.respondErr p 4))
        ∧ (p.ptype = 0x04 → exec (.add64 p) s = .next (u.respondErr p 4)) ∧ (p.ptype = 0x05 → exec (.fadd32 p) s = .next (u.respondErr p 4))
        ∧ (p.ptype = 0x06 → exec (.fadd64 p) s = .next (u.respondErr p 4)) ∧ (p.ptype = 0x09 → exec (.barArrive p) s = .next (u.respondErr p 4))
        ∧ (p.ptype = 0x0A → exec (.barRelease p) s = .next (u.respondErr p 4).arriveRetry) ∧ (p.ptype = 0x07 → exec (.kvship p) s = .next (u.respondErr p 4)))

/-- Fabric answers and time limits: a response (RDDATA, ACK, ATDATA, SEREPLY or ERR) that answers an outstanding transaction of its node completes or
advances it, any other is counted against its port; FABRIC_TIMEOUT ends a transaction over a port and withholds its tag; the expiry frees the tag;
PORT_HOLD_END lets held requests go on; GENERATION_HOLD_EXPIRY ends the oldest with STALE_GENERATION; BARRIER_KEEPALIVE arrives again, or applies the
answer; BARRIER_ROUND_LIMIT unconfigures the barrier and reports it. -/
def Obligations.FabricAnswerRowsComplete : Prop :=
  (∀ e ∈ ([(0x11, .rddata), (0x12, .ack), (0x13, .atdata), (0x15, .sereply), (0x16, .err)] : List (Nat × (Nat → Packet → Instr))),
      ∀ (port : Nat) (p : Packet) (s u : State), p.ptype = e.1 → s.inIngress p = true → u = s.leaveIngress p →
        (∀ x, u.txOf p.tag = some x → x.node = p.src → answersType x.ptype p.ptype = true →
          exec (e.2 port p) s = .next (((u.takeResponse x p).afterTx).settleFrom u.fab.done.length))
        ∧ (u.txOf p.tag = none → exec (e.2 port p) s = .next (u.modPort port fun q => { q with discards := min (q.discards + 1) 0xFFFFFFFF })))
    ∧ (∀ (tag : Nat) (x : FabTx) (s : State), s.txOf tag = some x → x.at_.isSome →
        exec (.fabricTimeout tag) s = .next (timeOut x s))
    ∧ (∀ (tag : Nat) (s : State), exec (.tagWithholdExpiry tag) s = .next ((State.afterTx { s with fab := { s.fab with
        withheld := s.fab.withheld.filter fun e => e.1 != tag } }).settleFrom s.fab.done.length))
    ∧ (∀ (hop : Nat) (l : List FabReq) (s : State), kget s.fab.holds hop = some l → (∀ x ∈ s.fab.txs, x.hop ≠ hop) →
        exec (.portHoldEnd hop) s = .next ((l.foldl State.fabTakeUp { s with fab := { s.fab with holds := kdel s.fab.holds hop } }).rimRetry.settleFrom s.fab.done.length))
    ∧ (∀ (hop t0 : Nat) (r : FabReq) (s : State), s.fab.genHeld = [(t0, r)] → s.hopTo r.node = some hop →
        exec (.generationHoldExpiry hop) s =
          .next ((State.endLocal { s with fab := { s.fab with genHeld := [] } } r 4).rimRetry.settleFrom s.fab.done.length))
    ∧ (∀ (home id : Nat) (a : Arrival) (s : State), s.fab.arrivals.find? (fun a => a.home == home && a.id == id && a.acked) = some a →
        exec (.barrierKeepalive home id none) s = .next (s.fabRequest ⟨.barrier id, 0x09, a.cls, a.home, barAddr id a.round, 0, []⟩)
        ∧ (∀ st, st ≠ 0 → st ≠ 5 → exec (.barrierKeepalive home id (some st)) s = .next ((State.arrivalAnswer { s with fab := { s.fab with
            txs := s.fab.txs.filter fun t => t.user != FabUser.barrier id || t.ptype != 0x09 || t.node != home } } a st).afterTx.settleFrom s.fab.done.length)))
    ∧ (∀ (id : Nat) (b : Barrier) (s : State), kget s.fab.barriers id = some b → b.list ≠ [] →
        exec (.barrierRoundLimit id) s = .next (State.report { s with fab := { s.fab with
          barriers := kdel s.fab.barriers id
          barrierFree := kput s.fab.barrierFree id (s.clk.tick + s.timeouts 3) } } 0x000A (packArgs 32 [(2, id), (2, b.round), (4, b.list.length)]) 0x000A []))

/-- Ports: a packet with a wrong CRC is discarded with those after it on its channel and a replay asked for, and one in sequence is taken, with what its
trailer tells; a replay request resends from the failed packet on in order, eight times at most and then the port goes down; the egress sends replayed
packets first, each with its trailer, which returns the credits owed, and an idle word where it can send no packet and owes credits; an idle word
returns credits up to 96 and 8; loss of signal starts an attempt; the 16th failed attempt in a row makes the port FAILED; training completes with four
lanes only; the port's own verdict and the far end's are taken. Where the trailer's fields lie is open (log 13). -/
def Obligations.PortRowsComplete : Prop :=
  (∀ (k : Nat) (t : Trailer) (p : Packet) (s : State), (s.port k).st = .opened →
      (t.crc ≠ t.check (some p) → exec (.dvqPacketReceive k t p) s = .next (s.modPort k fun q => { q with
        discarding := if q.discarding.contains (vcOf p.ptype) then q.discarding else q.discarding ++ [vcOf p.ptype], askReplay := some q.rxSeq }))
      ∧ (t.crc = t.check (some p) → t.replay = none → t.seq = (s.port k).rxSeq → (s.port k).ahead = [] →
          ∃ u, exec (.dvqPacketReceive k t p) s = .next (u.acceptPacket k t.reserved p)
            ∧ u = s.modPort k fun q => { ((t.credits.foldl Port.credit q).acked t.ack) with rxSeq := t.seq + 1, ahead := [], discarding := [] })
      ∧ (t.crc = t.check (some p) → t.replay = none → t.seq < (s.port k).rxSeq → exec (.dvqPacketReceive k t p) s = .next (s.modPort k fun q => (t.credits.foldl Port.credit q).acked t.ack))
      ∧ (t.replay = none → exec (.idleWordReceive k t) s = .next (s.modPort k fun q => (t.credits.foldl Port.credit q).acked t.ack)))
    ∧ (∀ q : Port, (∀ n ∈ q.shared, n ≤ 96) → (∀ n ∈ q.reserved, n ≤ 8) → ∀ c, (∀ n ∈ (q.credit c).shared, n ≤ 96) ∧ (∀ n ∈ (q.credit c).reserved, n ≤ 8))
    ∧ (∀ (k seq : Nat) (s : State), (s.port k).st = .opened → (∃ e ∈ (s.port k).replay, e.seq = seq) →
        ((∀ e ∈ (s.port k).replay, seq ≤ e.seq → (kget (s.port k).replaying e.seq).getD 0 < 8) → ∃ m : KMap Nat, exec (.dvqReplayRequest k seq) s =
          .next (s.modPort k fun q => { q with resend := q.replay.filter fun e => decide (seq ≤ e.seq), replaying := m })
          ∧ ∀ e ∈ (s.port k).replay, seq ≤ e.seq → kget m e.seq = some ((kget (s.port k).replaying e.seq).getD 0 + 1))
        ∧ (∀ e ∈ (s.port k).replay, seq ≤ e.seq → 8 ≤ (kget (s.port k).replaying e.seq).getD 0 → exec (.dvqReplayRequest k seq) s = .next (replayExhausted k s)))
    ∧ (∀ (k : Nat) (q : Port) (s : State), s.port k = q → q.st = .opened →
        (∀ w rest, q.resend = w :: rest → exec (.egressPacketSend k) s =
          .next ((s.modPort k fun q => { q with resend := rest }).onWire k (some w.pkt) (q.trailer w.seq w.reserved (some w.pkt))))
        ∧ (∀ e, q.resend = [] → q.egress = [e] → q.hasCredit e.pkt = true → q.replay.length < 256 →
          exec (.egressPacketSend k) s = .next ((s.modPort k fun q => { (q.spend e.pkt) with
            egress := [], replay := q.replay ++ [⟨q.txSeq, e.pkt, q.takesReserved e.pkt⟩], txSeq := q.txSeq + 1 }).onWire k (some e.pkt) (q.trailer q.txSeq (q.takesReserved e.pkt) (some e.pkt))))
        ∧ (q.resend = [] → q.egress = [] → q.owed ≠ [] → exec (.egressPacketSend k) s = .next (s.onWire k none (q.trailer q.txSeq false none)))
        ∧ (∀ n r x, (q.trailer n r x).credits = q.owed ∧ (q.trailer n r x).replay = q.askReplay ∧ (q.trailer n r x).ack = q.rxSeq))
    ∧ (∀ (k : Nat) (s : State), (s.port k).st = .opened ∨ (s.port k).st = .quarantined ∨ (s.port k).st = .charter →
        exec (.lossOfSignal k) s = .next (((s.portDown k).portMoved k).settleFrom s.fab.done.length))
    ∧ (∀ (k : Nat) (s : State), (s.port k).st = .down → (s.port k).hot = false → exec (.trainingRetryTimer k) s = .next (s.modPort k fun p => { p with st := .training }))
    ∧ (∀ (k lanes : Nat) (eq : Bytes) (s : State), (s.port k).st = .training →
        exec (.trainingNoSignal k) s = .next (s.modPort k fun p => { p with st := .down })
        ∧ exec (.trainingTimeout k) s = .next (s.modPort k fun p => { p with
            fails := p.fails + 1, failedTrainings := min (p.failedTrainings + 1) 0xFFFFFFFF, st := if p.fails < 15 then .down else .failed })
        ∧ exec (.trainingComplete k 4 eq true) s = .next ((s.modPort k fun p => { p.fresh with equal := eq }).sendCharter k)
        ∧ (lanes ≠ 4 → exec (.trainingComplete k lanes eq true) s = exec (.trainingTimeout k) s))
    ∧ (∀ (k : Nat) (c : Bytes) (s : State), (s.port k).st = .charter →
        exec (.charterReceive k c) s = .next ((((s.modPort k fun p => { p with
          got := c, mine := some (s.charterCheck k c == 0), cause := s.charterCheck k c }).judge k).portMoved k).settleFrom s.fab.done.length)
        ∧ (∀ a, exec (.charterVerdict k a) s = .next (((s.modPort k fun p => { p with far := some a }).judge k).settleFrom s.fab.done.length)))

/-- Cables, of a port whose module answers on its bus: CABLE_TEMPERATURE_POLL sends one notice for each rise above the warning threshold, and above the
alarm threshold takes the port down for its cable with one record; CABLE_COOLDOWN_EXPIRY lets it train again; RETIMER_LOCK_POLL that finds the lock of
an OPEN port lost takes it down; CABLE_HOT_JOIN_OR_LOSS keeps or drops the module found or lost, and records it with its inventory; CABLE_BUS_SILENT
of a bus not silent yet reports it once, by a record and a notice, and marks its six ports. Fabric commands, accepted, the fabric not off by strap:
FABRIC_SET of a part not set yet takes y and z, starts the ports that the plan uses and returns the node ID, completes at once for the same values and
refuses others; FABRIC_PART_SET of an admissible record of another generation begins the change, of the present one completes; FABRIC_PART_SWITCH, no
transaction outstanding, makes the record and its generation the chip's and answers the command OK; BARRIER_SET configures a barrier at round 0 with
an empty list, or unsets it; DVQ_PORT_QUERY returns the port's state, cause, charters and counts; DVQ_PORT_RESET of a FAILED port clears its run of
failures and trains it. -/
def Obligations.CableAndFabricCommandsComplete : Prop :=
  ((∀ (k : Nat) (w a x : Int) (s u : State), (s.port k).managed = true → u = s.modPort k (fun p => { p with warm := decide (w < x) }) →
      (w < x → x ≤ a → (s.port k).warm = false → exec (.cableTemperaturePoll k w a x) s = .next (u.notice 0x000C 0xFFFFFFFF []))
      ∧ (w < x → x ≤ a → (s.port k).warm = true → exec (.cableTemperaturePoll k w a x) s = .next u)
      ∧ (w < x → a < x → (s.port k).hot = false → (s.port k).st = .opened → exec (.cableTemperaturePoll k w a x) s =
          .next (cableDown k true (if (s.port k).warm then u else u.notice 0x000C 0xFFFFFFFF [])))
      ∧ (x ≤ w → x ≤ a → exec (.cableTemperaturePoll k w a x) s = .next u))
    ∧ (∀ (k : Nat) (s : State), (s.port k).hot = true → (s.port k).st = .down → ∃ t, exec (.cableCooldownExpiry k) s = .next t ∧ t.port k = { s.port k with hot := false, st := .training }
        ∧ t = { s with fab := { s.fab with ports := t.fab.ports } })
    ∧ (∀ (k : Nat) (s : State), (s.port k).managed = true → (s.port k).st = .opened → exec (.retimerLockPoll k false) s = .next (cableDown k false s))
    ∧ (∀ (k : Nat) (b old : Bytes) (s : State),
        exec (.cableHotJoinOrLoss k (some b)) s =
          .next ((s.modPort k fun p => { p with module := some b }).stageGroup [(0x000C, false, packArgs 32 [(1, 0), (1, k)]), (0x000C, true, b)])
        ∧ ((s.port k).module = some old → exec (.cableHotJoinOrLoss k none) s =
          .next ((s.modPort k fun p => { p with module := none }).stageGroup [(0x000C, false, packArgs 32 [(1, 1), (1, k)]), (0x000C, true, old)])))
    ∧ (∀ (bus : Nat) (s : State), (s.port (6 * bus)).silent = false → ∃ t : State, exec (.cableBusSilent bus) s = .next (t.report 0x000C (packArgs 32 [(1, 2), (1, bus)]) 0x000C [])
        ∧ (∀ i, i < 6 → (t.port (6 * bus + i)).silent = true) ∧ t = { s with fab := { s.fab with ports := t.fab.ports } }))
    ∧ ((∀ (c : Cmd) (s : State), Accepted 0x0501 c s → s.fabricOff = false → s.life.straps.slotId < s.nslot →
      (s.fab.yz = none → ∃ t : State, exec (.fabricSet c) s = .next (done c (le 2 t.nodeId) t) ∧ t.fab.yz = some (fld c.desc 16 0 6, fld c.desc 17 0 6)
        ∧ (∀ k, (t.port k).st = (s.port k).st ∨ ((s.port k).st = .idle ∧ (t.port k).st = .training)) ∧ t = { s with fab := { s.fab with yz := t.fab.yz, ports := t.fab.ports } })
      ∧ (s.fab.yz = some (fld c.desc 16 0 6, fld c.desc 17 0 6) → exec (.fabricSet c) s = .next (done c (le 2 s.nodeId) s))
      ∧ (∀ o, s.fab.yz = some o → o ≠ (fld c.desc 16 0 6, fld c.desc 17 0 6) → exec (.fabricSet c) s = .next (refuse c 0x0403 s)))
    ∧ (∀ (c : Cmd) (s : State), Accepted 0x0502 c s → s.fabricOff = false → s.fab.change = none → s.partRecordOk (slice c.desc 16 16) = true →
        (fld (slice c.desc 16 16) 0 0 16 ≠ s.fab.gen → ∃ t : State, exec (.fabricPartSet c) s = .next t ∧ t.fab = { s.fab with change := some (c.running s, slice c.desc 16 16) }
          ∧ (∃ r ∈ t.tmi.running, r.src = c.src ∧ r.cid = c.cid ∧ r.opcode = c.op))
        ∧ (fld (slice c.desc 16 16) 0 0 16 = s.fab.gen → exec (.fabricPartSet c) s = .next (done c [] s)))
    ∧ (∀ (cmd : Running) (r : Bytes) (s : State), s.fab.change = some (cmd, r) → s.fab.txs = [] →
        exec .fabricPartSwitch s = .next (partSwitch cmd r s))
    ∧ (∀ (c : Cmd) (s : State), Accepted 0x0503 c s → s.fabricOff = false → s.barrierBusy (fld c.desc 16 0 10) = false →
        (fld c.desc 17 7 1 = 0 → ∃ (t : State) (b : Barrier), exec (.barrierSet c) s = .next (done c [] t) ∧ kget t.fab.barriers (fld c.desc 16 0 10) = some b
          ∧ b.n = fld c.desc 20 0 17 ∧ b.cls = fld c.desc 24 0 2 ∧ b.gen = fld c.desc 26 0 16 ∧ b.rlimitUs = fld c.desc 28 0 32 ∧ b.round = 0 ∧ b.list = []
          ∧ t = { s with fab := { s.fab with barriers := kput s.fab.barriers (fld c.desc 16 0 10) b } })
        ∧ (fld c.desc 17 7 1 = 1 → ∀ b, kget s.fab.barriers (fld c.desc 16 0 10) = some b →
          ∃ t : State, exec (.barrierSet c) s = .next (done c [] t) ∧ t = { s with fab := { s.fab with barriers := kdel s.fab.barriers (fld c.desc 16 0 10), barrierFree := t.fab.barrierFree } }))
    ∧ (∀ (c : Cmd) (p : Port) (s : State), Accepted 0x0504 c s → s.port (fld c.desc 16 0 5) = p →
        exec (.dvqPortQuery c) s = .next (doneBuffer c (portReport p) (pack 2 [(0, 0, 3, p.st.code), (1, 0, 3, p.cause)]) s))
    ∧ (∀ (c : Cmd) (s : State), Accepted 0x0505 c s →
        ((s.port (fld c.desc 16 0 5)).st = .failed → (s.port (fld c.desc 16 0 5)).hot = false →
          ∃ t : State, exec (.dvqPortReset c) s = .next (done c [] t) ∧ t.port (fld c.desc 16 0 5) = { s.port (fld c.desc 16 0 5) with fails := 0, st := .training }
            ∧ t = { s with fab := { s.fab with ports := t.fab.ports } })
        ∧ ((s.port (fld c.desc 16 0 5)).st ≠ .failed → exec (.dvqPortReset c) s = .next (done c [] s))))

/-- A barrier's home counts each participant once and releases it whole: an arrive of the round awaited from a node not listed adds exactly that node to
the list; one of another round, or from a node listed already, adds none and is answered with an error; and a completed round leaves the list empty
and the round one higher modulo 65536. -/
def Obligations.BarrierCountsEachParticipantOnce : Prop :=
  (∀ (s : State) (p : Packet) (b : Barrier), s.staleRequest p = false → kget s.fab.barriers (p.addr % 1024) = some b → p.src ≠ s.nodeId →
      (p.addr / 1024 % 65536 = b.round → (∀ e ∈ b.list, e.1 ≠ p.src) → b.list.length + 1 ≠ b.n →
        ∃ b', kget (s.serveArrive p).fab.barriers (p.addr % 1024) = some b' ∧ b'.list = b.list ++ [(p.src, p.tag)] ∧ b'.round = b.round ∧ b'.n = b.n)
      ∧ (p.addr / 1024 % 65536 ≠ b.round → s.serveArrive p = s.respondErr p 9)
      ∧ (p.addr / 1024 % 65536 = b.round → (∃ e ∈ b.list, e.1 = p.src) → s.serveArrive p = s.respondErr p 10))
    ∧ (∀ (s : State) (id : Nat) (b : Barrier),
        ∃ b', kget (s.releaseBarrier id b).fab.barriers id = some b' ∧ b'.list = [] ∧ b'.round = (b.round + 1) % 65536)

/-- Power commands and supply rows: PWR_QUERY and MTZ_QUERY write their report as far as the buffer takes it, MTZ_PLAN plans a vintage and returns its
epoch; POWER_SAMPLE within the ratings is read and may move the power ceiling by R352 and R353; STATE_CHANGE_COMPLETE enters the state under way; a
supply warning halves the root and begins or joins an episode; its return ends it; the report timer sends a merged one. Temperature, pins and
Metrizor: at 105 °C the thermal ceiling becomes P4, the timers lower it while hot and raise it while cool; the trip and EPO_N stop the core clocks;
PWRBRK_N held 100 ns or longer sets the brake ceiling, a pulse under 40 ns never, and 1 ms after its rise it ends; a sample of the monitors is
deferred during a dip, a throttle or a change of state; the plan timer plans, the auto-commit asks for a commit, which applies at once at a quiescent
point. -/
def Obligations.PowerThermalAndAgeingRowsComplete : Prop :=
  ((∀ (c : Cmd) (s : State),
      (Accepted 0x0601 c s → exec (.pwrQuery c) s = .next (doneReport c s.powerReport s))
      ∧ (Accepted 0x0602 c s → exec (.mtzPlan c) s = .next (complete c stOk (evseqOf s s.recordPlan) (le 4 s.mtz.nextEpoch) s.planVintage))
      ∧ (Accepted 0x0603 c s → (∀ st v, s.mtz.find (fld c.desc 16 0 32) = some (st, v) → exec (.mtzQuery c) s = .next (doneReport c (v.report st) s))
          ∧ (s.mtz.find (fld c.desc 16 0 32) = none → exec (.mtzQuery c) s = .next (refuse c 0x0601 s))))
    ∧ (∀ (m : Sample) (s : State), s.pwrActive = true → m.rated = true →
        exec (.powerSample m) s = .next (State.follow { s with pwr := (s.pwr.read m).settleCeiling m.power }))
    ∧ (∀ (t : Nat) (s : State), s.pwrActive = true → s.pwr.target = some t →
        exec .stateChangeComplete s = .next (State.follow { s with pwr := { s.pwr with cur := t, target := none } }))
    ∧ (∀ (rail mv : Nat) (s : State), s.life.aux = true → s.life.waiting = false → mv < warningMv rail → s.pwr.low.contains rail = false →
        (s.pwr.episode = none → exec (.supplyWarningCrossing rail mv) s = .next { s with pwr := { s.pwr with
            dip := true, low := s.pwr.low ++ [rail], nDip := min (s.pwr.nDip + 1) 0xFFFFFFFF, dipAt := some s.clk.tick
            episode := some { rails := 2 ^ rail, lowMv := mv, lowRail := rail, durUs := 0, merged := 1 } } })
        ∧ (∀ e, s.pwr.episode = some e → exec (.supplyWarningCrossing rail mv) s = .next { s with pwr := { s.pwr with
            dip := true, low := s.pwr.low ++ [rail], episode := some (e.cross rail mv) } }))
    ∧ (∀ (e : DipReport) (t0 : Nat) (s : State), s.pwr.episode = some e → s.pwr.dipAt = some t0 →
        exec .supplyReturnTimer s = .next (State.endEpisode { s with pwr := { s.pwr with
          dip := false, low := [], episode := none, dipAt := none, calm := some 5 } } { e with durUs := (s.clk.tick - t0) / 100 } t0))
    ∧ (∀ (e : DipReport) (s : State), s.pwr.merged = some e → exec .supplyDipReportTimer s = .next (s.sendDip e)))
    ∧ ((∀ (die : Nat) (t : Int) (s : State), s.pwrActive = true → 840 ≤ t → exec (.thermalComparator105 die t) s = .next (s.lowerThermal 4 (2, die, t)))
    ∧ (∀ s : State, s.pwrActive = true → s.pwr.hot = true → exec .thermalLowerTimer s = .next (s.lowerThermal (min 4 (s.pwr.cur + 1)) (s.pwr.source 800)))
    ∧ (∀ s : State, s.pwrActive = true → s.pwr.cool = true → 0 < s.pwr.cThm →
        exec .thermalRaiseTimer s = .next (s.setThermal (s.pwr.cThm - 1) (0, (hottestDie s.pwr.tj).1, (hottestDie s.pwr.tj).2)))
    ∧ (∀ (t : Int) (s : State), s.life.aux = true → s.pwr.trip = false → exec (.thermalTrip t) s =
        .next (State.stopCore { s with pwr := { s.pwr with trip := true } } (pack 32 [(0, 0, 8, 3), (1, 0, 16, toTwos 16 t)])))
    ∧ (∀ (ns : Nat) (s : State), s.life.aux = true →
        (100 ≤ ns → exec (.pwrbrkNAssert ns) s = .next (State.follow { s.used with pwr := { s.pwr with brake := true, brakePin := true } }))
        ∧ (ns < 40 → exec (.pwrbrkNAssert ns) s = .next s.used))
    ∧ (∀ s : State, s.pwr.brake = true → exec .pwrbrkReleaseTimer s = .next (State.follow { s with pwr := { s.pwr with brake := false, brakePin := false } }))
    ∧ (∀ (ns : Nat) (s : State), s.life.aux = true → s.pwr.stopped = false →
        (100 ≤ ns → exec (.epoN ns) s = .next (s.used.stopCore (pack 32 [(0, 0, 8, 2)]))) ∧ (ns < 40 → exec (.epoN ns) s = .next s.used))
    ∧ (∀ (drifts : List Int) (s : State), s.life.dev = .opened → s.pwr.stopped = false → s.mtz.late = false →
        (s.pwr.dip = false → s.pwr.throttle = false → s.pwr.target = none → exec (.metrizorSample drifts) s = .next { s with mtz := s.mtz.take drifts })
        ∧ (s.pwr.dip = true → exec (.metrizorSample drifts) s = .next { s with mtz := { s.mtz with deferred := some (s.mtz.deferred.getD s.mtz.openSec) } }))
    ∧ (∀ s : State, s.life.dev = .opened → s.pwr.stopped = false → exec .vintagePlanTimer s = .next s.planVintage
        ∧ (s.mtz.planned.isSome → s.cfg.txn = none → s.cfg.commit = none → exec .vintageAutoCommit s = .next (State.settleDevice { s with cfg := { s.cfg with autoVintage := true } } none))))

/-- A sample beyond the absolute maximum ratings stops the model: a rail above 2,100, 1,400, 1,050 or 3,700 mV, or a die above 125 °C, faults, whatever
the state; no other command faults, and none is refused. -/
def Obligations.OnlySamplesBeyondTheRatingsFault : Prop :=
  (∀ (m : Sample) (s : State), m.rated = false → exec (.powerSample m) s = .fault .beyondRatings)
    ∧ (∀ m : Sample, m.rated = true ↔ (m.railMv.getD 0 0 ≤ 2100 ∧ m.railMv.getD 1 0 ≤ 1400 ∧ m.railMv.getD 2 0 ≤ 1050 ∧ m.railMv.getD 3 0 ≤ 3700 ∧ ∀ x ∈ m.tj, x ≤ 1000))
    ∧ (∀ (i : Instr) (s : State), (∃ t, exec i s = .next t) ∨ (∃ m, i = .powerSample m ∧ m.rated = false))

/-- A power sample moves the power ceiling by at most one state: it never passes P4, it rises by exactly one only where no lowering acts, no dip is on,
1,000 samples have passed since the last lowering and the projected mean allows the next state; a sample above 3,300 W lowers it at once, to one state
below the lower of the ceiling and the present state. -/
def Obligations.PowerCeilingMovesOneStateAtATime : Prop :=
  ∀ (p : Power) (m : Sample), p.cPow ≤ 4 → p.cur ≤ 4 →
    let q := (p.read m).settleCeiling m.power
    q.cPow ≤ 4 ∧ p.cPow ≤ q.cPow + 1
      ∧ (q.cPow < p.cPow → q.cPow + 1 = p.cPow ∧ p.dip = false ∧ 1000 ≤ p.sinceLower + 1 ∧ m.power * 102 ≤ 3300 * 10000 * 100 ∧ (p.read m).projects = true)
      ∧ (p.cPow < q.cPow → q.cPow = max p.cPow p.cur + 1 ∧ q.sinceLower = 0)
      ∧ (3300 * 10000 * 100 < m.power * 102 → q.cPow = min 4 (max p.cPow p.cur + 1) ∨ (max p.cPow p.cur = 4 ∧ q.cPow = p.cPow))
      ∧ q.cThm = p.cThm ∧ q.brake = p.brake ∧ q.cVin = p.cVin ∧ q.cur = p.cur ∧ q.target = p.target

/-- Power-up, pins and resets of the rails: VIN_AUX up counts a power cycle and clears the tick; PWROK and PERST_N begin tasting once both are high, the
straps sampled; PERST_N low is a warm reset of type 1; a loss of VIN_AUX turns the device off; a rail at its reset level is a supply reset, VIN_AUX's
a loss; the recovery begins tasting. -/
def Obligations.PowerUpAndResetRowsComplete : Prop :=
  (∀ s : State, s.life.aux = false → exec .vinAuxPowerUp s = .next { s with
      life := { s.life with aux := true }, evr := { s.evr with pcyc := (s.evr.pcyc + 1) % 2 ^ 32 }, clk := { s.clk with tick := 0 } })
    ∧ (∀ (x : Straps) (s : State), s.life.aux = true → s.life.pwrok = false → s.life.dev = .off → s.pwr.stopped = false →
        (s.life.perstN = true → exec (.pwrokRise x) s = .next (State.beginTasting { s with life := { s.life with pwrok := true, straps := x } }))
        ∧ (s.life.perstN = false → exec (.pwrokRise x) s = .next { s with life := { s.life with pwrok := true, straps := x } }))
    ∧ (∀ (x : Straps) (s : State), s.life.aux = true → s.life.perstN = false → s.pwr.stopped = false →
        (s.life.dev = .off → s.life.pwrok = true → exec (.perstNRise x) s = .next (State.beginTasting { s with life := { s.life with perstN := true } }))
        ∧ (s.life.dev = .tasting → s.life.waiting = true → s.life.pwrok = true → s.life.supplyReset = false →
          exec (.perstNRise x) s = .next (State.beginTasting { s with life := { s.life with perstN := true, straps := { x with cxlBif := s.life.straps.cxlBif } } })))
    ∧ (∀ s : State, s.life.aux = true → s.life.perstN = true →
        (s.life.dev ≠ .off → s.pwr.stopped = false → s.life.supplyReset = false →
          exec .perstNFall s = .next (State.warmReset { s with life := { s.life with perstN := false } } 1))
        ∧ (s.pwr.stopped = true → exec .perstNFall s = .next { s with life := { s.life with perstN := false } }))
    ∧ (∀ (held : Bool) (s : State), s.life.aux = true → exec (.vinAuxLoss held) s = .next (s.powerOff held))
    ∧ (∀ (rail : Nat) (s : State), s.life.aux = true →
        exec (.railResetLevel 3) s = .next (s.powerOff false)
        ∧ (rail < 3 → s.life.dev ≠ .off → s.pwr.stopped = false → exec (.railResetLevel rail) s = .next (s.supplyReset rail)))
    ∧ (∀ (x : Straps) (s : State), s.life.aux = true → s.life.supplyReset = true → s.pwr.stopped = false → s.life.pwrok = true → s.life.perstN = true →
        exec (.supplyResetRecovery x) s = .next (State.beginTasting { s with life := { s.life with straps := { x with cxlBif := s.life.straps.cxlBif } } }))

/-- Tasting: a stage that passes goes to the next of Table 13.3, stage 9 to the verdict OPEN; one that fails or times out to the verdict CORKED; the
watchdog resets and tastes again; the corking timer gives the verdict with the FINAL records lost. -/
def Obligations.TastingRowsComplete : Prop :=
  (∀ s : State, s.tastes = true →
      (s.life.stage = 9 → exec (.tastingStageComplete .pass) s = .next s.openDevice)
      ∧ (s.life.stage = 4 ∨ s.life.stage = 5 ∨ s.life.stage = 6 ∨ s.life.stage = 8 → exec (.tastingStageComplete .pass) s = .next { s with life := { s.life with stage := s.life.stage + 1 } })
      ∧ (s.life.stage = 2 → exec (.tastingStageComplete .pass) s = .next { s with
          regs := { s.regs with idValid := true }, life := { s.life with stage := 3 }
          ident := { s.ident with fusesLocked := true, aliasKey := some (aliasSeed (s.ident.measurements.getD 1 [])), aliasCert := some (Config.publicKeyOf (aliasSeed (s.ident.measurements.getD 1 []))) } })
      ∧ (s.life.stage = 3 → exec (.tastingStageComplete .pass) s = .next (State.applyVintage { s with life := { s.life with stage := 4 } }))
      ∧ (s.life.stage = 7 → s.life.straps.xcel = false → exec (.tastingStageComplete .pass) s =
          .next { s with mem := { s.mem with cellarFrames := 16 * min Config.moduleGib 256 * 16384 }, life := { s.life with stage := 8 } })
      ∧ (∀ cause unit ukind detail, exec (.tastingStageComplete (.fail cause unit ukind detail)) s = .next (s.failTasting cause unit ukind detail))
      ∧ exec .tastingStageTimeout s = .next (s.failTasting 2 0 0 0)
      ∧ exec .watchdogExpiry s = .next (s.warmReset 2).beginTasting)
    ∧ (∀ (st u k : Nat) (s : State), s.life.corking = some (st, u, k) →
        exec .corkFinalTimer s = .next (s.sayVerdict (s.tasteBody st 10 u k s.life.finalLost) 2).cork)
    ∧ (∀ (cause unit ukind detail : Nat) (s : State), (s.failTasting cause unit ukind detail).life.dev = .corked)

/-- Function-level resets and links: FUNCTION_LEVEL_RESET, with the host reachable, resets what R392 reaches; CXL_LINK_DOWN does so, discards host-tier
lines and records how many were dirty; PORT1_FLR drops the rings of port 1; PORT1_LINK_DOWN only leaves them unserved; CXL_LINK_TRAINED brings a port
up and records one below full width or rate. The CXL attachment: a cache answer is taken by the line that waits for it, as a link error while the
stream of CXL.cache and CXL.mem is insecure; a snoop of a line not held is answered without data, of a clean shared line with none; a global
persistent flush writes back and stops requests; a decoder commit that meets the rules opens the window; a host request of an OPEN device is served,
in another state reads are poisoned; BIRSP ends a snoop; an integrity failure is recorded once. -/
def Obligations.LinkAndAttachmentRowsComplete : Prop :=
  ((∀ s : State, s.hostUp = true →
      (s.life.dev = .opened → exec .functionLevelReset s = .next (s.flrOpen false))
      ∧ (s.life.dev ≠ .opened → exec .functionLevelReset s = .next s.flrClosed)
      ∧ exec .cxlLinkDown s = .next (State.stage { (s.flr true) with cxl := { (s.flr true).cxl with up0 := false } } 0x0010 (packArgs 32 [(1, 3), (4, s.dirtyHostLines)])))
    ∧ (∀ s : State, s.life.straps.cxlBif = true → s.cxl.up1 = true → exec .port1Flr s = .next s.dropPort1Rings)
    ∧ (∀ s : State, exec .port1LinkDown s = .next { s with cxl := { s.cxl with up1 := false } })
    ∧ (∀ (width rate : Nat) (cxl flit : Bool) (s : State), s.linksTrain = true → s.fullWidth ≤ width → 64 ≤ rate →
        exec (.cxlLinkTrained 0 width rate true true) s = .next { s with cxl := { s.cxl with up0 := true, cxl := true, width := width, rate := rate } }
        ∧ (s.life.straps.cxlBif = true → exec (.cxlLinkTrained 1 width rate cxl flit) s = .next { s with cxl := { s.cxl with up1 := true } })))
    ∧ ((∀ (a : Nat) (r : HostRead) (s : State), s.hostUp = true → s.running = true →
      (s.cxl.dropsCacheMem = false → exec (.cxlCacheResponse a r) s = .next (s.hostData a r).settlePeers)
      ∧ (s.cxl.dropsCacheMem = true → exec (.cxlCacheResponse a r) s = .next (s.hostData a .cxlError).settlePeers))
    ∧ (∀ (a k : Nat) (s : State), s.cacheMemUp = true → s.running = true →
        (s.mem.lineAtHost a = none → exec (.hostSnoop a k) s = .next { s with out := { s.out with memResp := s.out.memResp ++ [(a / 64, [], false)] } })
        ∧ (∀ d l, s.mem.lineAtHost a = some d → s.mem.rimLine d = some l → s.mem.snoopWaits (d / 64) = 0 → exec (.hostSnoop a k) s = .next (s.snoopLine a d k l)))
    ∧ (∀ s : State, s.hostUp = true → s.cxl.flushed = false → s.running = true →
        exec .gpfPhase1 s = .next { s.flushHostLines with cxl := { s.flushHostLines.cxl with flushed := true } })
    ∧ (∀ (base size skip ways : Nat) (bi : Bool) (s : State), s.hostUp = true →
        (s.hdmOk base size skip ways bi = true → exec (.hdmDecoderCommit base size skip ways bi) s = .next { s with cxl := { s.cxl with hdm := some (base, size, skip), hdmErr := false } })
        ∧ (s.hdmOk base size skip ways bi = false → exec (.hdmDecoderCommit base size skip ways bi) s = .next { s with cxl := { s.cxl with hdm := none, hdmErr := true } }))
    ∧ (∀ (hpa a : Nat) (w : Option Bytes) (sh : Bool) (e : Ecc) (s : State), s.cacheMemUp = true → s.cxl.window hpa = some a →
        (s.life.dev = .opened → exec (.cxlMemRequest hpa w sh e) s = .next (s.used.hostRequest (hostAccess a (s.freshNat % 4) w sh) e))
        ∧ (s.life.dev ≠ .opened → exec (.cxlMemRequest hpa w sh e) s =
            .next { s with out := { s.out with memResp := s.out.memResp ++ [(a / 64, [], w.isNone)] } }))
    ∧ (∀ (a : Nat) (s : State), s.cacheMemUp = true → s.running = true → exec (.birsp a) s = .next (s.snoopDone a).settlePeers)
    ∧ (∀ (k : Nat) (s : State), s.hostUp = true → s.cxl.insecure.contains k = false → exec (.ideIntegrityFailure k) s =
        .next (State.stage { s with cxl := { s.cxl with insecure := s.cxl.insecure ++ [k] } } 0x0010 (packArgs 32 [(1, 2), (1, k)]))))

/-- A function-level reset of an OPEN device leaves no partition, ring, transaction, ring pair or request, and keeps what R392 keeps: the node, the ports
and the fabric partition record, the recorder's ring, the ownership, the power controller and the tiers' cells. -/
def Obligations.FunctionLevelResetKeepsAndClears : Prop :=
  ∀ (s t : State), s.hostUp = true → s.life.dev = .opened → exec .functionLevelReset s = .next t →
    t.parts = [] ∧ t.cfg = Cfg.reset ∧ t.srv = Serving.reset ∧ t.tmi.pairs = [] ∧ t.tmi.running = []
      ∧ t.mem.map = [] ∧ t.mem.extents = [] ∧ t.fab.txs = [] ∧ t.fab.barriers = [] ∧ t.cxl.hdm = none ∧ t.ident.nonce = none
      ∧ t.evr.frozenTmi = false ∧ t.evr.frozenSide = false
      ∧ t.fab.yz = s.fab.yz ∧ t.fab.gen = s.fab.gen ∧ t.fab.block = s.fab.block
      ∧ t.evr.ring = s.evr.ring ∧ t.ident.title = s.ident.title ∧ t.pwr = s.pwr ∧ t.life.dev = .opened ∧ t.clk = s.clk
      ∧ t.mem.near = s.mem.near ∧ t.mem.badNear = s.mem.badNear

/-- A loss of VIN_AUX leaves the device OFF with only what package flash and fuses keep: whatever the state, memory, mailbox, registers, serving engine,
configuration, partitions and power controller are as after reset, while the ownership, the banks, their selector and the version floor stand; nothing
staged survives and numbering resumes at the mark; without the 50 ms the ring and the mark stand and the operating time is the one last saved, with
them none is skipped and the operating time is kept. -/
def Obligations.SupplyLossKeepsOnlyFlashAndFuses : Prop :=
  ∀ (held : Bool) (s : State), s.life.aux = true → ∃ t, exec (.vinAuxLoss held) s = .next t
    ∧ t.life.dev = .off ∧ t.life.aux = false ∧ t.life.pwrok = false ∧ t.life.perstN = false
    ∧ t.mem = Memory.reset ∧ t.tmi = Tmi.reset ∧ t.regs = Regs.reset ∧ t.srv = Serving.reset ∧ t.cfg = Cfg.reset ∧ t.parts = [] ∧ t.pwr = Power.reset
    ∧ t.ident.title = s.ident.title ∧ t.ident.nonce = none ∧ t.ident.sessions = 0 ∧ t.life.banks = s.life.banks ∧ t.life.sel = s.life.sel ∧ t.life.svnFloor = s.life.svnFloor
    ∧ t.evr.staging = [] ∧ t.evr.nextSeq = t.evr.mark
    ∧ (held = false → t.evr.ring = s.evr.ring ∧ t.evr.mark = s.evr.mark ∧ t.clk.opSec = s.clk.opSaved)
    ∧ (held = true → t.evr.skipped = none ∧ t.clk.opSec = s.clk.opSec)

/-- Firmware banks: FW_BANK_WRITE, accepted with no write in progress and its image read, clears the mark of the bank not running and programs it; the
completion marks a valid image, records it and answers OK, and any other answers IMAGE_INVALID and sets no mark; FW_BANK_SELECT of the running bank,
or of a marked one with no write in progress, writes the selector and records it; of an unmarked one it is IMAGE_INVALID. Each copy of the selector is
written with the CRC of its bytes. -/
def Obligations.FirmwareRowsComplete : Prop :=
  (∀ (c : Cmd) (d : Bytes) (b : Nat) (s : State), Accepted 0x0604 c s → s.life.writing = none → c.data = .ok d → d.length = fld c.desc 16 0 24 → b = 1 - s.life.bank →
      exec (.fwBankWrite c) s = .next (State.keepRunning { s with life := { s.life with
        sel := Selector.sealed { (s.life.sel.setOk b false) with sseq := (s.life.sel.sseq + 1) % 2 ^ 32 }
        selOld := s.life.sel
        banks := setAt s.life.banks b d, writing := some (c.running s, b, d) } } c))
    ∧ (∀ (r : Running) (b : Nat) (d : Bytes) (s u : State), s.life.writing = some (r, b, d) → u = { s with life := { s.life with writing := none } } →
        exec .bankWriteCompletion s = .next (if u.bankValid b
          then State.finishRec ((u.writeSel (s.life.sel.setOk b true)).stage 0x0011 (u.firmwareBody 0 b)) r 0
            (evseqOf (u.writeSel (s.life.sel.setOk b true)) ((u.writeSel (s.life.sel.setOk b true)).stage 0x0011 (u.firmwareBody 0 b))) (le 1 b)
          else u.finishRun r 0x0600 []))
    ∧ (∀ (c : Cmd) (b : Nat) (s : State), Accepted 0x0605 c s → b = fld c.desc 16 0 1 →
        (b = s.life.bank ∨ (s.life.writing = none ∧ s.life.sel.ok b = true) →
          exec (.fwBankSelect c) s = .next (doneFrom c [] (s.selectBank b) ((s.selectBank b).stage 0x0011 ((s.selectBank b).firmwareBody 1 b))))
        ∧ (b ≠ s.life.bank → s.life.writing = none → s.life.sel.ok b = false → exec (.fwBankSelect c) s = .next (refuse c 0x0600 s)))
    ∧ (∀ (x : Selector) (s : State), (s.writeSel x).life.sel.crc = crc32 ((s.writeSel x).life.sel.bytes.take 60))

/-- The recorder: EVR_READ returns held records from the number asked for in order; EVR_FREEZE sets or releases its holder's hold; the expiry releases it;
EVR_CLEAR under a right authorisation erases the ring and records it, else AUTH_FAILED, the nonce ending in either case; a commit puts what is staged
into the ring unless frozen; the operating time is saved. -/
def Obligations.RecorderRowsComplete : Prop :=
  (∀ (c : Cmd) (l : List Record) (s : State), Accepted 0x0606 c s → l = (s.evr.heldFrom (fld c.desc 16 0 32)).take (min (fld c.desc 20 0 16) (fld c.desc 24 0 32 / 64)) →
      exec (.evrRead c) s = .next (doneBuffer c (l.flatMap Record.bytes) (le 4 l.length) s))
    ∧ (∀ (c : Cmd) (n : Nat) (s : State), Accepted 0x0607 c s → c.src = .pair n →
        exec (.evrFreeze c) s = .next (done c (le 4 s.evr.overflow) { s with evr := { s.evr with frozenTmi := fld c.desc 16 0 1 == 1 } }))
    ∧ (∀ s : State, exec (.freezeExpiry false) s = .next { s with evr := { s.evr with frozenTmi := false } }
        ∧ exec (.freezeExpiry true) s = .next { s with evr := { s.evr with frozenSide := false } })
    ∧ (∀ (c : Cmd) (s : State), Accepted 0x0608 c s →
        (c.wr = .ok → exec (.evrNonce c) s = .next (doneBuffer c s.drawNonce [] { s.used with ident := { s.ident with nonce := some s.drawNonce } })))
    ∧ (∀ (c : Cmd) (d : Bytes) (s u : State), Accepted 0x0609 c s → c.data = .ok d → d.length = 3445 → u = { s with ident := { s.ident with nonce := none } } →
        exec (.evrClear c) s = .next (if s.ident.authorises d 1 = false then refuse c stAuth u
          else if s.evr.ring.any (fun r => decide (ofLe ((authArg d).take 4) < r.seq)) then refuse c 0x0004 u else doneFrom c [] u u.clearRing))
    ∧ (∀ s : State, exec .nonceExpiry s = .next { s with ident := { s.ident with nonce := none } })
    ∧ (∀ s : State, s.life.aux = true → s.evr.frozenTmi = false → s.evr.frozenSide = false →
        exec .recordCommit s = .next (State.stageLost { s with evr := { (s.evr.staging.foldl Recorder.commit s.evr) with staging := [] } }))
    ∧ (∀ s : State, s.life.aux = true → exec .operatingTimeSave s = .next { s with clk := { s.clk with opSaved := s.clk.opSec } })

/-- Vendor-defined requests in a secured session of a device past its verdict: AUTH_NONCE draws a nonce; OWN_CLAIM of an unowned part sets the key; the
three changes under authorisation go through if every check of R426 passes and otherwise answer error 2, the nonce ending in either case; an
authorisation of another length answers error 1. A change of ownership takes effect whole: the owner and COSIGN are those asked for, the epoch rises
by 1 modulo 2^32, the older copy is what stood before, and beyond them only the recorder and the answers move. -/
def Obligations.OwnershipRowsComplete : Prop :=
  (∀ (s u : State), s.life.dev = .opened ∨ s.life.dev = .corked → 0 < s.ident.sessions → u = { s with ident := { s.ident with nonce := none } } →
    exec (.authNonce true) s = .next (State.reply { s.used with ident := { s.ident with nonce := some s.drawNonce } } 3 s.drawNonce)
    ∧ (∀ key, s.ident.owner = none → exec (.ownClaim true key) s = .next (s.changeOwner 0 (some key) false))
    ∧ (∀ key a : Bytes, a.length = 3445 → exec (.ownTransfer true key a) s = .next (if s.ident.authorises a 3 && authArg a == shake256 key 64
        then u.changeOwner 1 (some key) false else u.reply 1 (le 1 2)))
    ∧ (∀ a : Bytes, a.length = 3445 → exec (.ownRelease true a) s = .next (if s.ident.authorises a 2 then u.changeOwner 2 none false else u.reply 1 (le 1 2)))
    ∧ (∀ (cosign : Bool) (a : Bytes), a.length = 3445 → (cosign = true → u.cosignSafe = true) →
        exec (.ownCosign true cosign a) s = .next (if s.ident.authorises a 4 && (authArg a).take 1 == [BitVec.ofNat 8 (b2n cosign)]
          then u.changeOwner 3 s.ident.owner cosign else u.reply 1 (le 1 2)))
    ∧ (∀ key a : Bytes, a.length ≠ 3445 → exec (.ownTransfer true key a) s = .next (s.reply 1 (le 1 1))))
    ∧ (∀ (s : State) (sub : Nat) (owner : Option Bytes) (cosign : Bool),
    (s.changeOwner sub owner cosign).ident = { s.ident with owner := owner, cosign := cosign, epoch := (s.ident.epoch + 1) % 2 ^ 32, older := (s.ident.owner, s.ident.cosign, s.ident.epoch) }
      ∧ s.changeOwner sub owner cosign = { s with
          ident := (s.changeOwner sub owner cosign).ident, evr := (s.changeOwner sub owner cosign).evr, out := (s.changeOwner sub owner cosign).out })

/-- The sideband endpoint and the DOE mailboxes: SPDM negotiation with the exact algorithms makes its transport ready and a session then opens, four at
most; another algorithm offers none; IDE_KM inside a session over a port's mailbox puts a key set of that port's stream in use, which ends its
insecure state; DOE discovery lists the port's protocols and CDAT entries answer on port 0; a PLDM sensor is read; a TMI command is busy in TASTING,
refused for an opcode the endpoint does not take, and otherwise runs as the command of its row. -/
def Obligations.SidebandRowsComplete : Prop :=
  (∀ (tr : Nat) (s : State), s.transportUp tr = true → s.vendorServed = true →
      (∃ t : State, exec (.spdmRequest tr (.negotiate true true true true)) s = .next t ∧ t.ident.negotiated.contains tr = true
        ∧ t = { s with free := t.free, out := t.out, ident := { s.ident with negotiated := t.ident.negotiated } })
      ∧ (∃ t : State, exec (.spdmRequest tr (.negotiate true true false true)) s = .next t ∧ t.ident.negotiated.contains tr = false)
      ∧ (s.ident.negotiated.contains tr = true → s.ident.sessions < 4 → ∃ t : State, exec (.spdmRequest tr .session) s = .next t ∧ t.ident.sessions = s.ident.sessions + 1
        ∧ t = { s with free := t.free, out := t.out, ident := { s.ident with sessions := s.ident.sessions + 1 } })
      ∧ (0 < s.ident.sessions → ∃ t : State, exec (.spdmRequest tr .endSession) s = .next t ∧ t.ident.sessions = s.ident.sessions - 1
        ∧ t = { s with out := t.out, ident := { s.ident with sessions := s.ident.sessions - 1 } })
      ∧ (∀ (e : IdeStream) (set : Nat), tr < 2 → 0 < s.ident.sessions → s.cxl.ideStream tr e.kind = some e → (kget e.keys set).isSome →
        ∃ t : State, exec (.spdmRequest tr (.ideKm true (.go e.kind set))) s = .next t ∧ e.id ∉ t.cxl.insecure
          ∧ t.cxl.ide = s.cxl.ide.map (fun x => if x.port = tr ∧ x.kind = e.kind then { x with inUse := some set } else x)
          ∧ t = { s with out := t.out, free := t.free, cxl := { s.cxl with ide := t.cxl.ide, insecure := t.cxl.insecure } }))
    ∧ (∀ (tr : Nat) (r : SpdmReq) (s : State), s.transportUp tr = true → s.vendorServed = false →
        exec (.spdmRequest tr r) s = .next { s with out := { s.out with sideband := s.out.sideband ++ [[2]] } })
    ∧ (∀ (port : Nat) (s : State), s.transportUp port = true →
        exec (.doeRequest port .discovery) s = .next { s with out := { s.out with sideband := s.out.sideband ++ [3 :: (doeProtocols port).flatMap (le 1)] } }
        ∧ (∀ i b, port = 0 → cdatEntry i = some b → exec (.doeRequest port (.cdat i)) s = .next { s with out := { s.out with sideband := s.out.sideband ++ [3 :: b] } }))
    ∧ (∀ (r : PldmReq) (s : State), s.life.dev ≠ .off →
        exec (.pldmRequest r) s = .next { s with out := { s.out with sideband := s.out.sideband ++ [3 :: s.sensor r] } })
    ∧ (∀ (c : Cmd) (s : State), s.life.dev ≠ .off → (∀ r ∈ s.tmi.running, r.src ≠ .sideband) →
        (s.life.dev = .tasting → exec (.sidebandTmiCommand c) s = .next (refuse { c with src := .sideband } 0x0004 s))
        ∧ (s.life.dev ≠ .tasting → sidebandAccepts c.op = false → exec (.sidebandTmiCommand c) s = .next (refuse { c with src := .sideband } 0x0001 s))
        ∧ (Accepted 0x0601 { c with src := .sideband } s → s.life.dev ≠ .tasting →
            exec (.sidebandTmiCommand c) s = .next (doneReport { c with src := .sideband } s.powerReport s))
        ∧ (s.life.dev ≠ .tasting → c.op = 0x0501 → exec (.sidebandTmiCommand c) s = exec (.fabricSet { c with src := .sideband }) s)
        ∧ (s.life.dev ≠ .tasting → c.op = 0x0609 → exec (.sidebandTmiCommand c) s = exec (.evrClear { c with src := .sideband }) s))

/-- The tile ID: of a tile's 11-bit ID, bits [10:9] are the die, [8:5] the column within the die and [4:0] the row; its array column is 16 times the die
plus the column within it, so that die d holds array columns 16d to 16d + 15. -/
def Obligations.TileIdFieldsAreDieColumnRow : Prop :=
  ∀ t, t < 2048 →
    tileDie t = (BitVec.ofNat 11 t).toNat / 2 ^ 9 ∧ tileRow t = (BitVec.ofNat 11 t).toNat % 2 ^ 5
      ∧ tileCol t = 16 * tileDie t + (BitVec.ofNat 11 t).toNat / 2 ^ 5 % 2 ^ 4 ∧ tileDie t < 4
      ∧ 16 * tileDie t ≤ tileCol t ∧ tileCol t ≤ 16 * tileDie t + 15

/-- The staging buffer takes a group of records whole or drops it whole. With room for every record of it the group follows what is staged, numbered on
from the next number by 1 modulo 2^32; without room nothing is staged, no number is given, and each record adds 1 to the overflow count, which
saturates at 2^32 − 1. Where drops are owed and there is room, one RECORDS_LOST record of cause 0 goes in first. -/
def Obligations.StagingTakesAGroupWholeOrDropsIt : Prop :=
  ∀ (s u : State) (rs : List RecSpec), u = s.stageSkipped.stageLost → rs ≠ [] → u.evr.nextSeq < 2 ^ 32 →
    (u.evr.staging.length + rs.length ≤ 512 → ∃ l : List Record, (s.stageGroup rs).evr.staging = u.evr.staging ++ l
        ∧ l.map Record.seq = (List.range rs.length).map (fun i => (u.evr.nextSeq + i) % 2 ^ 32)
        ∧ l.map (fun r => (r.rtype, r.cont, r.body)) = rs
        ∧ (s.stageGroup rs).evr.nextSeq = (u.evr.nextSeq + rs.length) % 2 ^ 32 ∧ (s.stageGroup rs).evr.overflow = u.evr.overflow)
    ∧ (512 < u.evr.staging.length + rs.length → (s.stageGroup rs).evr.staging = u.evr.staging ∧ (s.stageGroup rs).evr.nextSeq = u.evr.nextSeq
        ∧ (s.stageGroup rs).evr.overflow = min (u.evr.overflow + rs.length) (2 ^ 32 - 1) ∧ (s.stageGroup rs).evr.dropped = u.evr.dropped + rs.length)
    ∧ (0 < s.evr.dropped → s.evr.skipped = none → s.evr.staging.length < 512 →
        u.evr.staging = s.evr.staging ++ [s.mkRecord (0x0013, false, lostBody 0 s.evr.dropped s.evr.dropAfter)] ∧ u.evr.dropped = 0)

/-- What ends the one live nonce: another issued by either path takes its place, one authorisation checked against it ends it whether or not the check
passes, its 60 s end it, and so does any reset. -/
def Obligations.NonceEndsByItsFourEvents : Prop :=
  (∀ (c : Cmd) (s : State), Accepted 0x0608 c s → c.wr = .ok → ∃ t, exec (.evrNonce c) s = .next t ∧ t.ident.nonce = some s.drawNonce ∧ s.drawNonce.length = 32)
    ∧ (∀ s : State, s.life.dev = .opened ∨ s.life.dev = .corked → 0 < s.ident.sessions →
        (∃ t, exec (.authNonce true) s = .next t ∧ t.ident.nonce = some s.drawNonce)
        ∧ (∀ key a : Bytes, a.length = 3445 → ∃ t, exec (.ownTransfer true key a) s = .next t ∧ t.ident.nonce = none)
        ∧ (∀ a : Bytes, a.length = 3445 → ∃ t, exec (.ownRelease true a) s = .next t ∧ t.ident.nonce = none)
        ∧ (∀ (b : Bool) (a : Bytes), a.length = 3445 → ∃ t, exec (.ownCosign true b a) s = .next t ∧ t.ident.nonce = none))
    ∧ (∀ (c : Cmd) (d : Bytes) (s : State), Accepted 0x0609 c s → c.data = .ok d → ∃ t, exec (.evrClear c) s = .next t ∧ t.ident.nonce = none)
    ∧ (∀ s : State, ∃ t, exec .nonceExpiry s = .next t ∧ t.ident.nonce = none)
    ∧ (∀ s : State, s.hostUp = true →
        (∃ t, exec .functionLevelReset s = .next t ∧ t.ident.nonce = none) ∧ (∃ t, exec .cxlLinkDown s = .next t ∧ t.ident.nonce = none))
    ∧ (∀ s : State, s.life.aux = true → s.life.perstN = true → s.life.dev ≠ .off → s.pwr.stopped = false → s.life.supplyReset = false →
        ∃ t, exec .perstNFall s = .next t ∧ t.ident.nonce = none)
    ∧ (∀ s : State, s.tastes = true → ∃ t, exec .watchdogExpiry s = .next t ∧ t.ident.nonce = none)
    ∧ (∀ (held : Bool) (s : State), s.life.aux = true → ∃ t, exec (.vinAuxLoss held) s = .next t ∧ t.ident.nonce = none)
    ∧ (∀ (rail : Nat) (s : State), s.life.aux = true → s.life.dev ≠ .off → s.pwr.stopped = false →
        ∃ t, exec (.railResetLevel rail) s = .next t ∧ t.ident.nonce = none)

/-- Only the rows listed reach the tiers of memory: every other command, whatever its operands and the state, leaves the whole memory as it was, so that
every byte of every tier, the unit map, the rim caches and the translation caches read after it as before. -/
def Obligations.OnlyListedCommandsReachMemory : Prop :=
  ∀ (i : Instr) (s t : State), exec i s = .next t →
    (match i with
      | .statsRead .. | .memMap .. | .memUnmap .. | .memPin .. | .memUnpin .. | .hostTierAdd .. | .hostTierRemove .. | .dmaCopy ..
      | .cuveeLoad .. | .cuveeSwap .. | .caskLoad .. | .partReset .. | .partResume .. | .partInspect .. | .fabricPartSwitch ..
      | .cfgCommit .. | .cfgCommitDeadline .. | .cfgAbort .. | .streamRingPush .. | .shadowWrite .. | .tileIdleReport ..
      | .partitionRestart .. | .meshReplayRequest .. | .foldStepTimer .. | .streamIssue .. | .readDataArrival .. | .writeAckArrival .. | .caskImageLineWrite ..
      | .rimAccess .. | .demotionSelect .. | .decantComplete .. | .cellarFullRecord .. | .mapSweep .. | .patrolScrub .. | .submit ..
      | .hoAccept .. | .hoRefusal .. | .hoBusyRetryTimer .. | .kvship .. | .kvack .. | .hoCommit .. | .hoCommitComplete .. | .hoAbort ..
      | .hoReceiverSilence .. | .fabricRequest .. | .dvqPacketReceive .. | .idleWordReceive .. | .dvqReplayRequest .. | .rd .. | .wr .. | .add32 .. | .add64 .. | .fadd32 ..
      | .fadd64 .. | .barArrive .. | .barRelease .. | .rddata .. | .ack .. | .atdata .. | .sereply .. | .err .. | .fabricTimeout ..
      | .tagWithholdExpiry .. | .barrierKeepalive .. | .portHoldEnd .. | .lossOfSignal .. | .charterReceive .. | .charterVerdict ..
      | .cableTemperaturePoll .. | .retimerLockPoll .. | .railResetLevel .. | .supplyResetRecovery .. | .pwrokRise .. | .perstNRise ..
      | .perstNFall .. | .vinAuxLoss .. | .tastingStageComplete .. | .watchdogExpiry .. | .functionLevelReset .. | .cxlLinkDown ..
      | .cxlLinkTrained .. | .gpfPhase1 .. | .hostSnoop .. | .cxlMemRequest .. | .birsp .. | .cxlCacheResponse ..
      | .sidebandTmiCommand .. | .loadCompletion .. | .generationHoldExpiry .. => True
      | _ => t.mem = s.mem)
end

