-- ==== Sys2Proof/Laws/Accepted.lean ====
section
/-! SUPPORT. What the shared frame of the TMI commands does, once for all of them: a served command that passes the common checks runs its body, one that fails one is refused, one that is not served changes nothing. -/

namespace Sys2Proof.Machine

theorem runCmd_accepted {op : Nat} {c : Cmd} {s : State} (body : Cmd → State → State) (h : Accepted op c s) :
    runCmd op c body s = body c s := by
  simp [runCmd, h.1, h.2.1, h.2.2]

theorem runCmd_refused {op : Nat} {c : Cmd} {s : State} {st : Nat} (body : Cmd → State → State) (h : Refused op c s st) :
    runCmd op c body s = refuse c st s := by
  simp [runCmd, h.1, h.2.1, h.2.2]

theorem runCmd_not_served {op : Nat} {c : Cmd} {s : State} (body : Cmd → State → State) (h : tmiServed c.src s = false) :
    runCmd op c body s = s := by
  simp [runCmd, h]

theorem runCmd_other_op {op : Nat} {c : Cmd} {s : State} (body : Cmd → State → State) (h : c.op ≠ op) :
    runCmd op c body s = s := by
  simp [runCmd, h]

end Sys2Proof.Machine
end

