-- ==== Sys2Proof/Laws/Memory.lean ====
section
/-! SUPPORT. Sparse stores and byte memories: a write is read back, leaves every other place alone, and keeps the canonical form. -/

namespace Sys2Proof.Machine

/-! ## Sparse stores -/

/-- Every key of a store lies above `k`. -/
def keysAbove {α : Type} (k : Nat) (m : KMap α) : Prop := ∀ e ∈ m, k < e.1

theorem ksorted_cons {α : Type} (k : Nat) (v : α) (m : KMap α) : ksorted ((k, v) :: m) = true ↔ keysAbove k m ∧ ksorted m = true := by
  induction m generalizing k v with
  | nil => simp [ksorted, keysAbove]
  | cons e m ih =>
    obtain ⟨j, w⟩ := e
    simp only [ksorted, Bool.and_eq_true, decide_eq_true_eq, keysAbove, List.mem_cons, forall_eq_or_imp]
    constructor
    · rintro ⟨h, hs⟩
      exact ⟨⟨h, fun e he => lt_trans h (((ih j w).1 hs).1 e he)⟩, hs⟩
    · rintro ⟨⟨h, -⟩, hs⟩
      exact ⟨h, hs⟩

theorem mem_kput {α : Type} (m : KMap α) (k : Nat) (v : α) (e : Nat × α) (h : e ∈ kput m k v) : e = (k, v) ∨ e ∈ m := by
  induction m with
  | nil => simpa [kput] using h
  | cons f m ih =>
    obtain ⟨j, w⟩ := f
    simp only [kput] at h
    split at h
    · simpa using h
    · split at h
      · simp only [List.mem_cons] at h ⊢
        rcases h with h | h
        · exact .inl h
        · exact .inr (.inr h)
      · simp only [List.mem_cons] at h ⊢
        rcases h with h | h
        · exact .inr (.inl h)
        · rcases ih h with h | h
          · exact .inl h
          · exact .inr (.inr h)

theorem mem_kdel {α : Type} (m : KMap α) (k : Nat) (e : Nat × α) (h : e ∈ kdel m k) : e ∈ m := by
  induction m with
  | nil => simp [kdel] at h
  | cons f m ih =>
    obtain ⟨j, w⟩ := f
    simp only [kdel] at h
    split at h
    · exact h
    · split at h
      · exact List.mem_cons_of_mem _ h
      · simp only [List.mem_cons] at h ⊢
        exact h.imp id ih

theorem ksorted_kput {α : Type} (m : KMap α) (k : Nat) (v : α) (h : ksorted m = true) : ksorted (kput m k v) = true := by
  induction m with
  | nil => rfl
  | cons f m ih =>
    obtain ⟨j, w⟩ := f
    have h' := (ksorted_cons j w m).1 h
    simp only [kput]
    split
    · rename_i hk
      refine (ksorted_cons k v _).2 ⟨?_, h⟩
      intro e he
      rcases List.mem_cons.1 he with rfl | he
      · exact hk
      · exact lt_trans hk (h'.1 e he)
    · split
      · rename_i hk
        subst hk
        exact (ksorted_cons k v m).2 h'
      · rename_i h1 h2
        refine (ksorted_cons j w _).2 ⟨?_, ih h'.2⟩
        intro e he
        rcases mem_kput m k v e he with rfl | he
        · exact lt_of_le_of_ne (not_lt.1 h1) (Ne.symm h2)
        · exact h'.1 e he

theorem ksorted_kdel {α : Type} (m : KMap α) (k : Nat) (h : ksorted m = true) : ksorted (kdel m k) = true := by
  induction m with
  | nil => rfl
  | cons f m ih =>
    obtain ⟨j, w⟩ := f
    have h' := (ksorted_cons j w m).1 h
    simp only [kdel]
    split
    · exact h
    · split
      · exact h'.2
      · exact (ksorted_cons j w _).2 ⟨fun e he => h'.1 e (mem_kdel m k e he), ih h'.2⟩

theorem ksorted_filter {α : Type} (m : KMap α) (q : Nat × α → Bool) (h : ksorted m = true) : ksorted (m.filter q) = true := by
  induction m with
  | nil => rfl
  | cons f m ih =>
    obtain ⟨j, w⟩ := f
    have h' := (ksorted_cons j w m).1 h
    simp only [List.filter_cons]
    split
    · exact (ksorted_cons j w _).2 ⟨fun e he => h'.1 e (List.mem_of_mem_filter he), ih h'.2⟩
    · exact ih h'.2

theorem kget_of_above {α : Type} (m : KMap α) (k : Nat) (h : keysAbove k m) : kget m k = none := by
  cases m with
  | nil => rfl
  | cons f m =>
    obtain ⟨j, w⟩ := f
    have : k < j := h (j, w) (List.mem_cons_self ..)
    simp [kget, this, Nat.ne_of_lt this]

/-- What is stored under a key is read back. -/
@[simp] theorem kget_kput {α : Type} (m : KMap α) (k : Nat) (v : α) : kget (kput m k v) k = some v := by
  induction m with
  | nil => simp [kput, kget]
  | cons f m ih =>
    obtain ⟨j, w⟩ := f
    simp only [kput]
    split
    · simp [kget]
    · split
      · simp [kget]
      · rename_i h1 h2
        simp [kget, h1, h2, ih]

/-- Storing under a key leaves every other key alone. -/
theorem kget_kput_ne {α : Type} (m : KMap α) (k k' : Nat) (v : α) (h : k' ≠ k) : kget (kput m k v) k' = kget m k' := by
  induction m with
  | nil => simp [kput, kget, h]
  | cons f m ih =>
    obtain ⟨j, w⟩ := f
    simp only [kput]
    split
    · rename_i hk
      simp only [kget]
      by_cases h1 : k' = j
      · subst h1; simp [Nat.ne_of_gt hk, Nat.not_lt_of_gt hk]
      · by_cases h2 : k' < j
        · simp [h, h1, h2]
        · have : ¬ k' < k := fun hq => h2 (lt_trans hq hk)
          simp [h, h1, h2, this]
    · split
      · rename_i hk
        subst hk
        simp [kget, h]
      · simp only [kget, ih]

/-- A removed key holds nothing. -/
theorem kget_kdel {α : Type} (m : KMap α) (k : Nat) (hs : ksorted m = true) : kget (kdel m k) k = none := by
  induction m with
  | nil => rfl
  | cons f m ih =>
    obtain ⟨j, w⟩ := f
    have h' := (ksorted_cons j w m).1 hs
    simp only [kdel]
    split
    · rename_i hk
      simp [kget, hk, Nat.ne_of_lt hk]
    · split
      · rename_i hk
        exact kget_of_above m k (hk ▸ h'.1)
      · rename_i h1 h2
        simp [kget, h1, h2, ih h'.2]

/-- Removing a key leaves every other key alone. -/
theorem kget_kdel_ne {α : Type} (m : KMap α) (k k' : Nat) (h : k' ≠ k) (hs : ksorted m = true) : kget (kdel m k) k' = kget m k' := by
  induction m with
  | nil => rfl
  | cons f m ih =>
    obtain ⟨j, w⟩ := f
    have h' := (ksorted_cons j w m).1 hs
    simp only [kdel]
    split
    · rfl
    · split
      · rename_i hk
        subst hk
        simp only [kget, if_neg h]
        split
        · rename_i h2
          exact kget_of_above m k' fun e he => lt_trans h2 (h'.1 e he)
        · rfl
      · simp only [kget, ih h'.2]

/-! ## Byte memories -/

theorem cellsWf_iff (m : List Host.Cell) : cellsWf m = true ↔ ksorted m = true ∧ ∀ c ∈ m, c.2 ≠ 0 := by
  simp [cellsWf]

@[simp] theorem cellsWf_nil : cellsWf [] = true := rfl

/-- A byte stored keeps the canonical form. -/
theorem cellsWf_mset (m : List Host.Cell) (a : Nat) (b : Byte) (h : cellsWf m = true) : cellsWf (mset m a b) = true := by
  rw [cellsWf_iff] at h ⊢
  unfold mset
  split
  · exact ⟨ksorted_kdel m a h.1, fun c hc => h.2 c (mem_kdel m a c hc)⟩
  · refine ⟨ksorted_kput m a b h.1, fun c hc => ?_⟩
    rcases mem_kput m a b c hc with rfl | hc
    · assumption
    · exact h.2 c hc

/-- Bytes stored keep the canonical form. -/
@[simp] theorem cellsWf_mwrite (m : List Host.Cell) (a : Nat) (b : Bytes) (h : cellsWf m = true) : cellsWf (mwrite m a b) = true := by
  induction b generalizing m a with
  | nil => exact h
  | cons x xs ih => exact ih _ _ (cellsWf_mset m a x h)

/-- A range cleared keeps the canonical form. -/
@[simp] theorem cellsWf_mclear (m : List Host.Cell) (a n : Nat) (h : cellsWf m = true) : cellsWf (mclear m a n) = true := by
  rw [cellsWf_iff] at h ⊢
  exact ⟨ksorted_filter m _ h.1, fun c hc => h.2 c (List.mem_of_mem_filter hc)⟩

/-- The byte stored is read back. -/
theorem mget_mset (m : List Host.Cell) (a : Nat) (b : Byte) (h : cellsWf m = true) : mget (mset m a b) a = b := by
  rw [cellsWf_iff] at h
  unfold mget mset
  split
  · rename_i hb
    simp [kget_kdel m a h.1, hb]
  · simp

/-- A stored byte leaves every other address alone. -/
theorem mget_mset_ne (m : List Host.Cell) (a a' : Nat) (b : Byte) (ha : a' ≠ a) (h : cellsWf m = true) : mget (mset m a b) a' = mget m a' := by
  rw [cellsWf_iff] at h
  unfold mget mset
  split
  · rw [kget_kdel_ne m a a' ha h.1]
  · rw [kget_kput_ne m a a' b ha]

/-- Stored bytes leave every address outside them alone. -/
theorem mget_mwrite_outside (m : List Host.Cell) (a a' : Nat) (b : Bytes) (h : cellsWf m = true) (ha : a' < a ∨ a + b.length ≤ a') :
    mget (mwrite m a b) a' = mget m a' := by
  induction b generalizing m a with
  | nil => rfl
  | cons x xs ih =>
    simp only [List.length_cons] at ha
    rw [mwrite, ih _ _ (cellsWf_mset m a x h) (by omega), mget_mset_ne m a a' x (by omega) h]

/-- Stored bytes are read back, each at its place. -/
theorem mget_mwrite_inside (m : List Host.Cell) (a : Nat) (b : Bytes) (i : Nat) (h : cellsWf m = true) (hi : i < b.length) :
    mget (mwrite m a b) (a + i) = b[i] := by
  induction b generalizing m a i with
  | nil => simp at hi
  | cons x xs ih =>
    cases i with
    | zero =>
      rw [mwrite, mget_mwrite_outside _ _ _ _ (cellsWf_mset m a x h) (by omega)]
      simpa using mget_mset m a x h
    | succ i =>
      have := ih (mset m a x) (a + 1) i (cellsWf_mset m a x h) (by simpa using hi)
      simpa [mwrite, Nat.add_assoc, Nat.add_comm 1 i] using this

/-- Reading what was written gives it. -/
theorem mread_mwrite (m : List Host.Cell) (a : Nat) (b : Bytes) (h : cellsWf m = true) : mread (mwrite m a b) a b.length = b := by
  induction b generalizing m a with
  | nil => rfl
  | cons x xs ih =>
    have h0 := mget_mwrite_inside m a (x :: xs) 0 h (by simp)
    simp only [Nat.add_zero, List.getElem_cons_zero] at h0
    simp only [List.length_cons, mread, h0]
    exact congrArg _ (ih (mset m a x) (a + 1) (cellsWf_mset m a x h))

/-- The tiers' contents at reset are in canonical form. -/
theorem wf_reset : State.reset.mem.wf = true := rfl

end Sys2Proof.Machine
end

