-- ==== Sys2Proof/Laws/Keeps.lean ====
section
/-! SUPPORT. What a fold of steps keeps, when each step keeps it; the canonical form of the three tiers' contents. -/

namespace Sys2Proof.Machine

theorem foldl_keeps {α : Type} {β : Type} (p : State → β) (f : State → α → State) (h : ∀ s a, p (f s a) = p s) (l : List α) (s : State) :
    p (l.foldl f s) = p s := by
  induction l generalizing s with
  | nil => rfl
  | cons a l ih => simp [ih, h]

@[simp] theorem foldl_pending {α : Type} (f : State → α → State) (h : ∀ s a, (f s a).pending = s.pending) (l : List α) (s : State) :
    (l.foldl f s).pending = s.pending := foldl_keeps State.pending f h l s

@[simp] theorem foldl_mem {α : Type} (f : State → α → State) (h : ∀ s a, (f s a).mem = s.mem) (l : List α) (s : State) :
    (l.foldl f s).mem = s.mem := foldl_keeps State.mem f h l s

@[simp] theorem foldl_ident {α : Type} (f : State → α → State) (h : ∀ s a, (f s a).ident = s.ident) (l : List α) (s : State) :
    (l.foldl f s).ident = s.ident := foldl_keeps State.ident f h l s

@[simp] theorem foldl_title {α : Type} (f : State → α → State) (h : ∀ s a, (f s a).ident.title = s.ident.title) (l : List α) (s : State) :
    (l.foldl f s).ident.title = s.ident.title := foldl_keeps (fun s => s.ident.title) f h l s

/-- The three tiers' contents are in canonical form. -/
abbrev MemOk (m : Memory) : Prop := cellsWf m.near = true ∧ cellsWf m.cellar = true ∧ cellsWf m.hostTier = true

theorem memOk_iff (m : Memory) : MemOk m ↔ m.wf = true := by
  simp [Memory.wf, and_assoc]

@[simp] theorem foldl_memOk {α : Type} (f : State → α → State) (h : ∀ s a, MemOk s.mem → MemOk (f s a).mem) (l : List α) (s : State)
    (hs : MemOk s.mem) : MemOk (l.foldl f s).mem := by
  induction l generalizing s with
  | nil => exact hs
  | cons a l ih => exact ih _ (h s a hs)

@[simp] theorem foldl_memOkM {α : Type} (f : Memory → α → Memory) (h : ∀ s a, MemOk s → MemOk (f s a)) (l : List α) (s : Memory)
    (hs : MemOk s) : MemOk (l.foldl f s) := by
  induction l generalizing s with
  | nil => exact hs
  | cons a l ih => exact ih _ (h s a hs)

end Sys2Proof.Machine
end

