-- ==== Sys2Proof/Laws/KeepOps.lean ====
section
/-! SUPPORT. What no operation or command of Machine/Ops.lean touches: the queue, who owns the device, and (`_keeps`, where it writes no tier) the memory; where it may write one, `_memOk` says the canonical form stays. -/

namespace Sys2Proof.Machine

@[simp] theorem State_used_keeps (s : State) :
    (State.used s).pending = s.pending ∧ (State.used s).ident = s.ident ∧ (State.used s).mem = s.mem := ⟨rfl, rfl, rfl⟩

@[simp] theorem State_advanceTick_keeps (s : State) :
    (State.advanceTick s).pending = s.pending ∧ (State.advanceTick s).ident = s.ident ∧ (State.advanceTick s).mem = s.mem := by
  unfold State.advanceTick
  try dsimp only
  (repeat' split) <;> simp_all [apply_ite]

@[simp] theorem State_stageOne_keeps (s : State) (rs : RecSpec) :
    (State.stageOne s rs).pending = s.pending ∧ (State.stageOne s rs).ident = s.ident ∧ (State.stageOne s rs).mem = s.mem := ⟨rfl, rfl, rfl⟩

@[simp] theorem State_stageSkipped_keeps (s : State) :
    (State.stageSkipped s).pending = s.pending ∧ (State.stageSkipped s).ident = s.ident ∧ (State.stageSkipped s).mem = s.mem := by
  unfold State.stageSkipped
  try dsimp only
  (repeat' split) <;> simp_all [apply_ite]

@[simp] theorem State_stageLost_keeps (s : State) :
    (State.stageLost s).pending = s.pending ∧ (State.stageLost s).ident = s.ident ∧ (State.stageLost s).mem = s.mem := by
  unfold State.stageLost
  try dsimp only
  (repeat' split) <;> simp_all [apply_ite]

@[simp] theorem State_stageGroup_keeps (s : State) (rs : List RecSpec) :
    (State.stageGroup s rs).pending = s.pending ∧ (State.stageGroup s rs).ident = s.ident ∧ (State.stageGroup s rs).mem = s.mem := by
  unfold State.stageGroup
  try dsimp only
  (repeat' split) <;> simp_all [apply_ite]

@[simp] theorem State_stage_keeps (s : State) (rtype : Nat) (body : Bytes) :
    (State.stage s rtype body).pending = s.pending ∧ (State.stage s rtype body).ident = s.ident ∧ (State.stage s rtype body).mem = s.mem := by
  unfold State.stage
  try dsimp only
  (repeat' split) <;> simp_all [apply_ite]

@[simp] theorem State_hostWrite_keeps (s : State) (port addr : Nat) (b : Bytes) :
    (State.hostWrite s port addr b).pending = s.pending ∧ (State.hostWrite s port addr b).ident = s.ident ∧ (State.hostWrite s port addr b).mem = s.mem := ⟨rfl, rfl, rfl⟩

@[simp] theorem State_msix_keeps (s : State) (vec : Nat) :
    (State.msix s vec).pending = s.pending ∧ (State.msix s vec).ident = s.ident ∧ (State.msix s vec).mem = s.mem := by
  unfold State.msix
  try dsimp only
  (repeat' split) <;> simp_all [apply_ite]

@[simp] theorem State_devInt_keeps (s : State) (bits : BitVec 32) :
    (State.devInt s bits).pending = s.pending ∧ (State.devInt s bits).ident = s.ident ∧ (State.devInt s bits).mem = s.mem := by
  unfold State.devInt
  try dsimp only
  (repeat' split) <;> simp_all [apply_ite]

@[simp] theorem State_writeStatus_keeps (s : State) (n : Nat) :
    (State.writeStatus s n).pending = s.pending ∧ (State.writeStatus s n).ident = s.ident ∧ (State.writeStatus s n).mem = s.mem := by
  unfold State.writeStatus
  try dsimp only
  (repeat' split) <;> simp_all [apply_ite]

@[simp] theorem State_writeEntry_keeps (s : State) (n : Nat) (entry : Bytes) (notice : Bool) :
    (State.writeEntry s n entry notice).pending = s.pending ∧ (State.writeEntry s n entry notice).ident = s.ident ∧ (State.writeEntry s n entry notice).mem = s.mem := by
  unfold State.writeEntry
  try dsimp only
  (repeat' split) <;> simp_all [apply_ite]

@[simp] theorem State_deliverNotice_keeps (s : State) (nt : Notice) :
    (State.deliverNotice s nt).pending = s.pending ∧ (State.deliverNotice s nt).ident = s.ident ∧ (State.deliverNotice s nt).mem = s.mem := by
  unfold State.deliverNotice
  try dsimp only
  (repeat' split) <;> simp_all [apply_ite]

@[simp] theorem State_notice_keeps (s : State) (code evseq : Nat) (result : Bytes) :
    (State.notice s code evseq result).pending = s.pending ∧ (State.notice s code evseq result).ident = s.ident ∧ (State.notice s code evseq result).mem = s.mem := by
  unfold State.notice
  try dsimp only
  (repeat' split) <;> simp_all [apply_ite]

@[simp] theorem State_report_keeps (s : State) (rtype : Nat) (body : Bytes) (code : Nat) (result : Bytes) :
    (State.report s rtype body code result).pending = s.pending ∧ (State.report s rtype body code result).ident = s.ident ∧ (State.report s rtype body code result).mem = s.mem := by
  unfold State.report
  try dsimp only
  (repeat' split) <;> simp_all [apply_ite]

@[simp] theorem State_ringError_keeps (s : State) (src ring value : Nat) :
    (State.ringError s src ring value).pending = s.pending ∧ (State.ringError s src ring value).ident = s.ident ∧ (State.ringError s src ring value).mem = s.mem := by
  unfold State.ringError
  try dsimp only
  (repeat' split) <;> simp_all [apply_ite]

@[simp] theorem State_answerCmd_keeps (s : State) (src : CmdSrc) (cid op cls st evseq : Nat) (result : Bytes) :
    (State.answerCmd s src cid op cls st evseq result).pending = s.pending ∧ (State.answerCmd s src cid op cls st evseq result).ident = s.ident ∧ (State.answerCmd s src cid op cls st evseq result).mem = s.mem := by
  unfold State.answerCmd
  try dsimp only
  (repeat' split) <;> simp_all [apply_ite]

@[simp] theorem State_settlePair0_keeps (s : State) :
    (State.settlePair0 s).pending = s.pending ∧ (State.settlePair0 s).ident = s.ident ∧ (State.settlePair0 s).mem = s.mem := by
  unfold State.settlePair0
  try dsimp only
  (repeat' split) <;> simp_all [apply_ite]

@[simp] theorem State_settleDestroy_keeps (s : State) (d : Nat × Running) :
    (State.settleDestroy s d).pending = s.pending ∧ (State.settleDestroy s d).ident = s.ident ∧ (State.settleDestroy s d).mem = s.mem := by
  unfold State.settleDestroy
  try dsimp only
  (repeat' split) <;> simp_all [apply_ite]

@[simp] theorem State_settlePairs_keeps (s : State) :
    (State.settlePairs s).pending = s.pending ∧ (State.settlePairs s).ident = s.ident ∧ (State.settlePairs s).mem = s.mem := by
  unfold State.settlePairs
  try dsimp only
  (repeat' split) <;> simp_all [apply_ite]

@[simp] theorem State_finish_keeps (s : State) (src : CmdSrc) (cid op cls st evseq : Nat) (result : Bytes) :
    (State.finish s src cid op cls st evseq result).pending = s.pending ∧ (State.finish s src cid op cls st evseq result).ident = s.ident ∧ (State.finish s src cid op cls st evseq result).mem = s.mem := by
  unfold State.finish
  try dsimp only
  (repeat' split) <;> simp_all [apply_ite]

@[simp] theorem State_finishRec_keeps (s : State) (r : Running) (st evseq : Nat) (result : Bytes) :
    (State.finishRec s r st evseq result).pending = s.pending ∧ (State.finishRec s r st evseq result).ident = s.ident ∧ (State.finishRec s r st evseq result).mem = s.mem := by
  unfold State.finishRec
  try dsimp only
  (repeat' split) <;> simp_all [apply_ite]

@[simp] theorem State_finishRun_keeps (s : State) (r : Running) (st : Nat) (result : Bytes) :
    (State.finishRun s r st result).pending = s.pending ∧ (State.finishRun s r st result).ident = s.ident ∧ (State.finishRun s r st result).mem = s.mem := by
  unfold State.finishRun
  try dsimp only
  (repeat' split) <;> simp_all [apply_ite]

@[simp] theorem State_setTile_keeps (s : State) (t : Nat) (x : Tile) :
    (State.setTile s t x).pending = s.pending ∧ (State.setTile s t x).ident = s.ident ∧ (State.setTile s t x).mem = s.mem := ⟨rfl, rfl, rfl⟩

@[simp] theorem State_modTile_keeps (s : State) (t : Nat) (f : Tile → Tile) :
    (State.modTile s t f).pending = s.pending ∧ (State.modTile s t f).ident = s.ident ∧ (State.modTile s t f).mem = s.mem := ⟨rfl, rfl, rfl⟩

@[simp] theorem State_modLink_keeps (s : State) (k : Nat) (f : Link → Link) :
    (State.modLink s k f).pending = s.pending ∧ (State.modLink s k f).ident = s.ident ∧ (State.modLink s k f).mem = s.mem := ⟨rfl, rfl, rfl⟩

@[simp] theorem State_takeRim_keeps (s : State) (t exit : Nat) (k : Flit → Bool) :
    (State.takeRim s t exit k).pending = s.pending ∧ (State.takeRim s t exit k).ident = s.ident ∧ (State.takeRim s t exit k).mem = s.mem := by
  unfold State.takeRim
  try dsimp only
  (repeat' split) <;> simp_all [apply_ite]

@[simp] theorem State_holdRim_keeps (s : State) (t exit : Nat) (k : Flit → Bool) :
    (State.holdRim s t exit k).pending = s.pending ∧ (State.holdRim s t exit k).ident = s.ident ∧ (State.holdRim s t exit k).mem = s.mem := ⟨rfl, rfl, rfl⟩

@[simp] theorem State_freeRim_keeps (s : State) (t exit : Nat) (k : Flit → Bool) :
    (State.freeRim s t exit k).pending = s.pending ∧ (State.freeRim s t exit k).ident = s.ident ∧ (State.freeRim s t exit k).mem = s.mem := ⟨rfl, rfl, rfl⟩

@[simp] theorem State_rimSend_keeps (s : State) (t exit : Nat) (f : Flit) :
    (State.rimSend s t exit f).pending = s.pending ∧ (State.rimSend s t exit f).ident = s.ident ∧ (State.rimSend s t exit f).mem = s.mem := ⟨rfl, rfl, rfl⟩

@[simp] theorem State_takeKind_keeps (s : State) (t : Nat) (k : Flit → Bool) :
    (State.takeKind s t k).pending = s.pending ∧ (State.takeKind s t k).ident = s.ident ∧ (State.takeKind s t k).mem = s.mem := ⟨rfl, rfl, rfl⟩

@[simp] theorem State_setPart_keeps (s : State) (p : Nat) (x : Partition) :
    (State.setPart s p x).pending = s.pending ∧ (State.setPart s p x).ident = s.ident ∧ (State.setPart s p x).mem = s.mem := ⟨rfl, rfl, rfl⟩

@[simp] theorem State_modPart_keeps (s : State) (p : Nat) (f : Partition → Partition) :
    (State.modPart s p f).pending = s.pending ∧ (State.modPart s p f).ident = s.ident ∧ (State.modPart s p f).mem = s.mem := ⟨rfl, rfl, rfl⟩

end Sys2Proof.Machine
end

