-- ==== Sys2Proof/Laws/KeepFlits.lean ====
section
/-! SUPPORT. What no operation or command of Machine/Flits.lean touches: the queue, who owns the device, and (`_keeps`, where it writes no tier) the memory; where it may write one, `_memOk` says the canonical form stays. -/

namespace Sys2Proof.Machine

@[simp] theorem State_enterLocal_keeps (s : State) (t e : Nat) (f : Flit) (r : Bool) :
    (State.enterLocal s t e f r).pending = s.pending ∧ (State.enterLocal s t e f r).ident = s.ident ∧ (State.enterLocal s t e f r).mem = s.mem := ⟨rfl, rfl, rfl⟩

@[simp] theorem State_fillLocal_keeps (s : State) (t : Nat) (z0 : Nat) :
    (State.fillLocal s t z0).pending = s.pending ∧ (State.fillLocal s t z0).ident = s.ident ∧ (State.fillLocal s t z0).mem = s.mem := by
  induction z0 generalizing s t <;>
  (unfold State.fillLocal; try dsimp only) <;> (repeat' split) <;> simp_all [apply_ite]

@[simp] theorem State_injectBy_keeps (s : State) (t e : Nat) (fs : List Flit) :
    (State.injectBy s t e fs).pending = s.pending ∧ (State.injectBy s t e fs).ident = s.ident ∧ (State.injectBy s t e fs).mem = s.mem := by
  unfold State.injectBy
  try dsimp only
  (repeat' split) <;> simp_all [apply_ite]

@[simp] theorem State_inject_keeps (s : State) (t : Nat) (fs : List Flit) :
    (State.inject s t fs).pending = s.pending ∧ (State.inject s t fs).ident = s.ident ∧ (State.inject s t fs).mem = s.mem := by
  unfold State.inject
  try dsimp only
  (repeat' split) <;> simp_all [apply_ite]

@[simp] theorem State_sendReport_keeps (s : State) (t : Nat) (r : Report) :
    (State.sendReport s t r).pending = s.pending ∧ (State.sendReport s t r).ident = s.ident ∧ (State.sendReport s t r).mem = s.mem := by
  unfold State.sendReport
  try dsimp only
  (repeat' split) <;> simp_all [apply_ite]

@[simp] theorem State_replaceFlit_keeps (s : State) (t : Nat) (f g : Flit) :
    (State.replaceFlit s t f g).pending = s.pending ∧ (State.replaceFlit s t f g).ident = s.ident ∧ (State.replaceFlit s t f g).mem = s.mem := ⟨rfl, rfl, rfl⟩

@[simp] theorem State_sendNar_keeps (s : State) (t ac orow ocol pos : Nat) (r : Report) :
    (State.sendNar s t ac orow ocol pos r).pending = s.pending ∧ (State.sendNar s t ac orow ocol pos r).ident = s.ident ∧ (State.sendNar s t ac orow ocol pos r).mem = s.mem := by
  unfold State.sendNar
  try dsimp only
  (repeat' split) <;> simp_all [apply_ite]

@[simp] theorem State_becameNar_keeps (s : State) (t cask uop orow ocol ac : Nat) (srcs : List NarAt) :
    (State.becameNar s t cask uop orow ocol ac srcs).pending = s.pending ∧ (State.becameNar s t cask uop orow ocol ac srcs).ident = s.ident ∧ (State.becameNar s t cask uop orow ocol ac srcs).mem = s.mem := by
  unfold State.becameNar
  try dsimp only
  (repeat' split) <;> simp_all [apply_ite]

@[simp] theorem State_residueFailure_keeps (s : State) (t cask uop unit orow ocol : Nat) :
    (State.residueFailure s t cask uop unit orow ocol).pending = s.pending ∧ (State.residueFailure s t cask uop unit orow ocol).ident = s.ident ∧ (State.residueFailure s t cask uop unit orow ocol).mem = s.mem := by
  unfold State.residueFailure
  try dsimp only
  (repeat' split) <;> simp_all [apply_ite]

@[simp] theorem State_uopFault_keeps (s : State) (t cask fault uop : Nat) :
    (State.uopFault s t cask fault uop).pending = s.pending ∧ (State.uopFault s t cask fault uop).ident = s.ident ∧ (State.uopFault s t cask fault uop).mem = s.mem := by
  unfold State.uopFault
  try dsimp only
  (repeat' split) <;> simp_all [apply_ite]

@[simp] theorem State_idleReport_keeps (s : State) (t : Nat) :
    (State.idleReport s t).pending = s.pending ∧ (State.idleReport s t).ident = s.ident ∧ (State.idleReport s t).mem = s.mem := by
  unfold State.idleReport
  try dsimp only
  (repeat' split) <;> simp_all [apply_ite]

end Sys2Proof.Machine
end

