-- ==== Sys2Proof/Laws/KeepCatalogue.lean ====
section
/-! SUPPORT. What no operation or command of Machine/Catalogue.lean touches: the queue, who owns the device, and (`_keeps`, where it writes no tier) the memory; where it may write one, `_memOk` says the canonical form stays. -/

namespace Sys2Proof.Machine

@[simp] theorem complete_keeps (c : Cmd) (st evseq : Nat) (result : Bytes) (s : State) :
    (complete c st evseq result s).pending = s.pending ∧ (complete c st evseq result s).ident = s.ident ∧ (complete c st evseq result s).mem = s.mem := by
  unfold complete
  try dsimp only
  (repeat' split) <;> simp_all [apply_ite]

@[simp] theorem refuse_keeps (c : Cmd) (st : Nat) (s : State) :
    (refuse c st s).pending = s.pending ∧ (refuse c st s).ident = s.ident ∧ (refuse c st s).mem = s.mem := by
  unfold refuse
  try dsimp only
  (repeat' split) <;> simp_all [apply_ite]

@[simp] theorem done_keeps (c : Cmd) (result : Bytes) (s : State) :
    (done c result s).pending = s.pending ∧ (done c result s).ident = s.ident ∧ (done c result s).mem = s.mem := by
  unfold done
  try dsimp only
  (repeat' split) <;> simp_all [apply_ite]

@[simp] theorem doneFrom_keeps (c : Cmd) (result : Bytes) (s t : State) :
    (doneFrom c result s t).pending = t.pending ∧ (doneFrom c result s t).ident = t.ident ∧ (doneFrom c result s t).mem = t.mem := by
  simp [doneFrom]

@[simp] theorem doneBuffer_keeps (c : Cmd) (b result : Bytes) (s : State) :
    (doneBuffer c b result s).pending = s.pending ∧ (doneBuffer c b result s).ident = s.ident ∧ (doneBuffer c b result s).mem = s.mem := by
  unfold doneBuffer
  try dsimp only
  (repeat' split) <;> simp_all [apply_ite]

@[simp] theorem runCmd_pending (op : Nat) (c : Cmd) (body : Cmd → State → State) (s : State) (h : ∀ s, (body c s).pending = s.pending) :
    (runCmd op c body s).pending = s.pending := by
  unfold runCmd
  (repeat' split) <;> simp_all
@[simp] theorem runCmd_ident (op : Nat) (c : Cmd) (body : Cmd → State → State) (s : State) (h : ∀ s, (body c s).ident = s.ident) :
    (runCmd op c body s).ident = s.ident := by
  unfold runCmd
  (repeat' split) <;> simp_all
@[simp] theorem runCmd_mem (op : Nat) (c : Cmd) (body : Cmd → State → State) (s : State) (h : ∀ s, (body c s).mem = s.mem) :
    (runCmd op c body s).mem = s.mem := by
  unfold runCmd
  (repeat' split) <;> simp_all
@[simp] theorem runCmd_title (op : Nat) (c : Cmd) (body : Cmd → State → State) (s : State) (h : ∀ s, (body c s).ident.title = s.ident.title) :
    (runCmd op c body s).ident.title = s.ident.title := by
  unfold runCmd
  (repeat' split) <;> simp_all

@[simp] theorem State_keepRunning_keeps (s : State) (c : Cmd) :
    (State.keepRunning s c).pending = s.pending ∧ (State.keepRunning s c).ident = s.ident ∧ (State.keepRunning s c).mem = s.mem := by
  unfold State.keepRunning
  try dsimp only
  (repeat' split) <;> simp_all [apply_ite]

/-! ## The canonical form of the tiers stays -/

@[simp] theorem runCmd_memOk (op : Nat) (c : Cmd) (body : Cmd → State → State) (s : State) (hb : ∀ s : State, MemOk s.mem → MemOk (body c s).mem) (h : MemOk s.mem) :
    MemOk (runCmd op c body s).mem := by
  unfold runCmd
  split
  · split
    · simpa using h
    · exact hb s h
  · exact h

end Sys2Proof.Machine
end

