-- ==== Sys2Proof/Laws/KeepTierOps.lean ====
section
/-! SUPPORT. What no operation or command of Machine/TierOps.lean touches: the queue, who owns the device, and (`_keeps`, where it writes no tier) the memory; where it may write one, `_memOk` says the canonical form stays. -/

namespace Sys2Proof.Machine

@[simp] theorem State_refreshPin_keeps (s : State) (u : Nat) :
    (State.refreshPin s u).pending = s.pending ∧ (State.refreshPin s u).ident = s.ident := by
  unfold State.refreshPin
  try dsimp only
  (repeat' split) <;> simp_all [apply_ite]

@[simp] theorem State_marks_keeps (s : State) :
    (State.marks s).pending = s.pending ∧ (State.marks s).ident = s.ident := ⟨rfl, rfl⟩

@[simp] theorem State_cxlCache_keeps (s : State) (l : List (Nat × Nat)) :
    (State.cxlCache s l).pending = s.pending ∧ (State.cxlCache s l).ident = s.ident ∧ (State.cxlCache s l).mem = s.mem := ⟨rfl, rfl, rfl⟩

@[simp] theorem State_startDecant_keeps (s : State) (u toTier : Nat) :
    (State.startDecant s u toTier).pending = s.pending ∧ (State.startDecant s u toTier).ident = s.ident := by
  unfold State.startDecant
  try dsimp only
  (repeat' split) <;> simp_all [apply_ite]

@[simp] theorem State_touchUnit_keeps (s : State) (u : Nat) :
    (State.touchUnit s u).pending = s.pending ∧ (State.touchUnit s u).ident = s.ident := by
  unfold State.touchUnit
  try dsimp only
  (repeat' split) <;> simp_all [apply_ite]

@[simp] theorem State_selected_keeps (s : State) (tier u : Nat) :
    (State.selected s tier u).pending = s.pending ∧ (State.selected s tier u).ident = s.ident := ⟨rfl, rfl⟩

/-! ## The canonical form of the tiers stays -/

@[simp] theorem Memory_rimPut_memOk (m : Memory) (a w : Nat) (l : Option RimLine) (h : MemOk m) :
    MemOk ((Memory.rimPut m a w l)) := by
  unfold Memory.rimPut
  try dsimp only
  (repeat' split) <;> simp_all [MemOk]

@[simp] theorem Memory_rimTouch_memOk (m : Memory) (a : Nat) (h : MemOk m) :
    MemOk ((Memory.rimTouch m a)) := by
  unfold Memory.rimTouch
  try dsimp only
  (repeat' split) <;> simp_all [MemOk]

@[simp] theorem Memory_setEntry_memOk (m : Memory) (u : Nat) (e : UnitEntry) (h : MemOk m) :
    MemOk ((Memory.setEntry m u e)) := by
  unfold Memory.setEntry
  try dsimp only
  (repeat' split) <;> simp_all [MemOk]

@[simp] theorem Memory_translate_memOk (m : Memory) (die u : Nat) (h : MemOk m) :
    MemOk ((Memory.translate m die u)) := by
  unfold Memory.translate
  try dsimp only
  (repeat' split) <;> simp_all [MemOk]

@[simp] theorem Memory_mapLineBad_memOk (m : Memory) (copyB : Bool) (g : Nat) (h : MemOk m) :
    MemOk ((Memory.mapLineBad m copyB g)) := by
  unfold Memory.mapLineBad
  try dsimp only
  (repeat' split) <;> simp_all [MemOk]

@[simp] theorem Memory_readMap_memOk (m : Memory) (u : Nat) (ea eb : Bool) (h : MemOk m) :
    MemOk ((Memory.readMap m u ea eb)) := by
  unfold Memory.readMap
  try dsimp only
  (repeat' split) <;> simp_all [MemOk]

@[simp] theorem Memory_mendMap_memOk (m : Memory) (u : Nat) (h : MemOk m) :
    MemOk ((Memory.mendMap m u)) := by
  unfold Memory.mendMap
  try dsimp only
  (repeat' split) <;> simp_all [MemOk]

@[simp] theorem Memory_tierWrite_memOk (m : Memory) (tier f off : Nat) (b : Bytes) (h : MemOk m) :
    MemOk ((Memory.tierWrite m tier f off b)) := by
  unfold Memory.tierWrite
  try dsimp only
  (repeat' split) <;> simp_all [MemOk]

@[simp] theorem Memory_clearFrame_memOk (m : Memory) (tier f : Nat) (h : MemOk m) :
    MemOk ((Memory.clearFrame m tier f)) := by
  unfold Memory.clearFrame
  try dsimp only
  (repeat' split) <;> simp_all [MemOk]

@[simp] theorem Memory_setLineBad_memOk (m : Memory) (tier f l : Nat) (bad : Bool) (h : MemOk m) :
    MemOk ((Memory.setLineBad m tier f l bad)) := by
  unfold Memory.setLineBad
  try dsimp only
  (repeat' split) <;> simp_all [MemOk]

@[simp] theorem Memory_modCache_memOk (m : Memory) (u : Nat) (f : CacheFrame → CacheFrame) (h : MemOk m) :
    MemOk ((Memory.modCache m u f)) := by
  unfold Memory.modCache
  try dsimp only
  (repeat' split) <;> simp_all [MemOk]

@[simp] theorem Memory_storeBelow_memOk (m : Memory) (a : Nat) (e : UnitEntry) (b : Bytes) (h : MemOk m) :
    MemOk ((Memory.storeBelow m a e b)) := by
  unfold Memory.storeBelow
  try dsimp only
  (repeat' split) <;> simp (disch := (intros; (repeat' split) <;> simp_all [MemOk])) [MemOk, *]

@[simp] theorem Memory_flushLine_memOk (m : Memory) (frame home : Nat) (l : Nat) (h : MemOk m) :
    MemOk ((Memory.flushLine m frame home l)) := by
  unfold Memory.flushLine
  try dsimp only
  (repeat' split) <;> simp_all [MemOk]

@[simp] theorem Memory_flushSectors_memOk (m : Memory) (x : CacheFrame) (home : Nat) (h : MemOk m) :
    MemOk ((Memory.flushSectors m x home)) := by
  unfold Memory.flushSectors
  try dsimp only
  (repeat' split) <;> simp (disch := (intros; (repeat' split) <;> simp_all [MemOk])) [MemOk, *]

@[simp] theorem Memory_uncache_memOk (m : Memory) (u : Nat) (h : MemOk m) :
    MemOk ((Memory.uncache m u)) := by
  unfold Memory.uncache
  try dsimp only
  (repeat' split) <;> simp_all [MemOk]

@[simp] theorem Memory_dropCache_memOk (m : Memory) (u : Nat) (h : MemOk m) :
    MemOk ((Memory.dropCache m u)) := by
  unfold Memory.dropCache
  try dsimp only
  (repeat' split) <;> simp_all [MemOk]

@[simp] theorem Memory_allocCache_memOk (m : Memory) (p S u : Nat) (h : MemOk m) :
    MemOk ((Memory.allocCache m p S u)) := by
  unfold Memory.allocCache
  try dsimp only
  (repeat' split) <;> simp (disch := (intros; (repeat' split) <;> simp_all [MemOk])) [MemOk, *]

@[simp] theorem Memory_cacheRead_memOk (m : Memory) (p quota a : Nat) (e : UnitEntry) (h : MemOk m) :
    MemOk ((Memory.cacheRead m p quota a e)) := by
  unfold Memory.cacheRead
  try dsimp only
  (repeat' split) <;> simp (disch := (intros; (repeat' split) <;> simp_all [MemOk])) [MemOk, *]

@[simp] theorem Memory_evict_memOk (m : Memory) (l : RimLine) (h : MemOk m) :
    MemOk ((Memory.evict m l).1) := by
  unfold Memory.evict
  try dsimp only
  (repeat' split) <;> simp_all [MemOk]

@[simp] theorem Memory_allocLine_memOk (m : Memory) (a : Nat) (l : RimLine) (h : MemOk m) :
    MemOk ((Memory.allocLine m a l).1) := by
  unfold Memory.allocLine
  try dsimp only
  (repeat' split) <;> simp (disch := (intros; (repeat' split) <;> simp_all [MemOk])) [MemOk, *]

@[simp] theorem Memory_dropLines_memOk (m : Memory) (u : Nat) (h : MemOk m) :
    MemOk ((Memory.dropLines m u)) := by
  unfold Memory.dropLines
  try dsimp only
  (repeat' split) <;> simp_all [MemOk]

@[simp] theorem Memory_cleanLines_memOk (m : Memory) (u : Nat) (e : UnitEntry) (h : MemOk m) :
    MemOk ((Memory.cleanLines m u e)) := by
  unfold Memory.cleanLines
  try dsimp only
  (repeat' split) <;> simp_all [MemOk]

@[simp] theorem Memory_back_memOk (m : Memory) (u tier f age : Nat) (nopromo : Bool) (h : MemOk m) :
    MemOk ((Memory.back m u tier f age nopromo)) := by
  unfold Memory.back
  repeat' (first | assumption | (intro _; done) | split | dsimp only | with_reducible apply Memory_setEntry_memOk | with_reducible apply Memory_mendMap_memOk | with_reducible apply Memory_clearFrame_memOk | with_reducible apply Memory_dropLines_memOk | with_reducible apply foldl_memOk | with_reducible apply foldl_memOkM | intro _)

@[simp] theorem Memory_unback_memOk (m : Memory) (u : Nat) (h : MemOk m) :
    MemOk ((Memory.unback m u)) := by
  unfold Memory.unback
  try dsimp only
  (repeat' split) <;> simp_all [MemOk]

@[simp] theorem State_refreshPin_memOk (s : State) (u : Nat) (h : MemOk s.mem) :
    MemOk (State.refreshPin s u).mem := by
  unfold State.refreshPin
  try dsimp only
  (repeat' split) <;> simp_all [MemOk]

@[simp] theorem State_marks_memOk (s : State) (h : MemOk s.mem) :
    MemOk (State.marks s).mem := by
  unfold State.marks
  try dsimp only
  (repeat' split) <;> simp_all [MemOk]

@[simp] theorem State_startDecant_memOk (s : State) (u toTier : Nat) (h : MemOk s.mem) :
    MemOk (State.startDecant s u toTier).mem := by
  unfold State.startDecant
  try dsimp only
  (repeat' split) <;> simp_all [MemOk]

@[simp] theorem State_touchUnit_memOk (s : State) (u : Nat) (h : MemOk s.mem) :
    MemOk (State.touchUnit s u).mem := by
  unfold State.touchUnit
  try dsimp only
  (repeat' split) <;> simp_all [MemOk]

@[simp] theorem Memory_copyFrame_memOk (m : Memory) (t0 f0 t1 f1 : Nat) (h : MemOk m) :
    MemOk ((Memory.copyFrame m t0 f0 t1 f1)) := by
  unfold Memory.copyFrame
  try dsimp only
  (repeat' split) <;> simp_all [MemOk]

@[simp] theorem Memory_gather_memOk (m : Memory) (u : Nat) (e : UnitEntry) (h : MemOk m) :
    MemOk ((Memory.gather m u e)) := by
  unfold Memory.gather
  try dsimp only
  (repeat' split) <;> simp_all [MemOk]

@[simp] theorem Memory_disown_memOk (m : Memory) (u : Nat) (h : MemOk m) :
    MemOk ((Memory.disown m u)) := by
  unfold Memory.disown
  try dsimp only
  (repeat' split) <;> simp_all [MemOk]

@[simp] theorem Memory_moveUnit_memOk (m : Memory) (d : Decant) (e : UnitEntry) (h : MemOk m) :
    MemOk ((Memory.moveUnit m d e)) := by
  have h1 := Memory_uncache_memOk _ d.unit (Memory_cleanLines_memOk m d.unit e h)
  have h2 := Memory_copyFrame_memOk _ e.tier e.frame d.toTier d.frame h1
  exact Memory_setEntry_memOk _ d.unit { e with tier := d.toTier, frame := d.frame, tcnt := 0, busy := false, cached := false } h2


@[simp] theorem Memory_abandon_memOk (m : Memory) (u : Nat) (e : UnitEntry) (h : MemOk m) :
    MemOk ((Memory.abandon m u e)) := by
  unfold Memory.abandon
  try dsimp only
  (repeat' split) <;> simp_all [MemOk]

@[simp] theorem State_selected_memOk (s : State) (tier u : Nat) (h : MemOk s.mem) :
    MemOk (State.selected s tier u).mem := by
  unfold State.selected
  try dsimp only
  (repeat' split) <;> simp_all [MemOk]

end Sys2Proof.Machine
end

