-- ==== Sys2Proof/Laws/KeepServeOps.lean ====
section
/-! SUPPORT. What no operation or command of Machine/ServeOps.lean touches: the queue, who owns the device, and (`_keeps`, where it writes no tier) the memory; where it may write one, `_memOk` says the canonical form stays. -/

namespace Sys2Proof.Machine

@[simp] theorem State_allocPage_keeps (s : State) (p pool : Nat) :
    ((State.allocPage s p pool).2).pending = s.pending ∧ ((State.allocPage s p pool).2).ident = s.ident ∧ ((State.allocPage s p pool).2).mem = s.mem := ⟨rfl, rfl, rfl⟩

@[simp] theorem State_allocPages_keeps (s : State) (p pool : Nat) (z0 : Nat) :
    ((State.allocPages s p pool z0).2).pending = s.pending ∧ ((State.allocPages s p pool z0).2).ident = s.ident ∧ ((State.allocPages s p pool z0).2).mem = s.mem := by
  induction z0 generalizing s p pool <;>
  (unfold State.allocPages; try dsimp only) <;> (repeat' split) <;> simp_all [apply_ite]

@[simp] theorem State_pfxPurgeKey_keeps (s : State) (k : Nat) :
    (State.pfxPurgeKey s k).pending = s.pending ∧ (State.pfxPurgeKey s k).ident = s.ident ∧ (State.pfxPurgeKey s k).mem = s.mem := ⟨rfl, rfl, rfl⟩

@[simp] theorem State_pfxPurge_keeps (s : State) (pred : PfxEntry → Bool) :
    (State.pfxPurge s pred).pending = s.pending ∧ (State.pfxPurge s pred).ident = s.ident ∧ (State.pfxPurge s pred).mem = s.mem := by
  unfold State.pfxPurge
  try dsimp only
  (repeat' split) <;> simp_all [apply_ite]

@[simp] theorem State_pfxInsert_keeps (s : State) (p tkey slot page : Nat) (d : Bytes) :
    (State.pfxInsert s p tkey slot page d).pending = s.pending ∧ (State.pfxInsert s p tkey slot page d).ident = s.ident ∧ (State.pfxInsert s p tkey slot page d).mem = s.mem := by
  unfold State.pfxInsert
  try dsimp only
  (repeat' split) <;> simp_all [apply_ite]

@[simp] theorem State_rebuildPool_keeps (s : State) (p slot : Nat) :
    (State.rebuildPool s p slot).pending = s.pending ∧ (State.rebuildPool s p slot).ident = s.ident ∧ (State.rebuildPool s p slot).mem = s.mem := ⟨rfl, rfl, rfl⟩

@[simp] theorem State_ringVector_keeps (s : State) (ring vec : Nat) :
    (State.ringVector s ring vec).pending = s.pending ∧ (State.ringVector s ring vec).ident = s.ident ∧ (State.ringVector s ring vec).mem = s.mem := by
  unfold State.ringVector
  try dsimp only
  (repeat' split) <;> simp_all [apply_ite]

@[simp] theorem State_freeReq_keeps (s : State) (ridx : Nat) :
    (State.freeReq s ridx).pending = s.pending ∧ (State.freeReq s ridx).ident = s.ident ∧ (State.freeReq s ridx).mem = s.mem := by
  unfold State.freeReq
  try dsimp only
  (repeat' split) <;> simp_all [apply_ite]

@[simp] theorem State_stopOutRing_keeps (s : State) (ring : Nat) :
    (State.stopOutRing s ring).pending = s.pending ∧ (State.stopOutRing s ring).ident = s.ident ∧ (State.stopOutRing s ring).mem = s.mem := by
  unfold State.stopOutRing
  try dsimp only
  (repeat' split) <;> simp_all [apply_ite]

@[simp] theorem State_writeRecord_keeps (s : State) (ring : Nat) (rec : Bytes) :
    (State.writeRecord s ring rec).pending = s.pending ∧ (State.writeRecord s ring rec).ident = s.ident ∧ (State.writeRecord s ring rec).mem = s.mem := by
  unfold State.writeRecord
  try dsimp only
  (repeat' split) <;> simp_all [apply_ite]

@[simp] theorem State_modReq_keeps (s : State) (ridx : Nat) (f : Req → Req) :
    (State.modReq s ridx f).pending = s.pending ∧ (State.modReq s ridx f).ident = s.ident ∧ (State.modReq s ridx f).mem = s.mem := ⟨rfl, rfl, rfl⟩

@[simp] theorem State_endReq_keeps (s : State) (ridx st : Nat) :
    (State.endReq s ridx st).pending = s.pending ∧ (State.endReq s ridx st).ident = s.ident ∧ (State.endReq s ridx st).mem = s.mem := by
  unfold State.endReq
  try dsimp only
  (repeat' split) <;> simp_all [apply_ite]

@[simp] theorem State_retirePage_keeps (s : State) (p page : Nat) :
    (State.retirePage s p page).pending = s.pending ∧ (State.retirePage s p page).ident = s.ident ∧ (State.retirePage s p page).mem = s.mem := ⟨rfl, rfl, rfl⟩

@[simp] theorem State_poolDataError_keeps (s : State) (a : Nat) :
    (State.poolDataError s a).pending = s.pending ∧ (State.poolDataError s a).ident = s.ident ∧ (State.poolDataError s a).mem = s.mem := by
  unfold State.poolDataError
  try dsimp only
  (repeat' split) <;> simp_all [apply_ite]

@[simp] theorem State_listDataError_keeps (s : State) (pn ridx off : Nat) :
    (State.listDataError s pn ridx off).pending = s.pending ∧ (State.listDataError s pn ridx off).ident = s.ident ∧ (State.listDataError s pn ridx off).mem = s.mem := by
  unfold State.listDataError
  try dsimp only
  (repeat' split) <;> simp_all [apply_ite]

@[simp] theorem State_prefixLineEmptied_keeps (s : State) (line : Nat) :
    (State.prefixLineEmptied s line).pending = s.pending ∧ (State.prefixLineEmptied s line).ident = s.ident ∧ (State.prefixLineEmptied s line).mem = s.mem := by
  unfold State.prefixLineEmptied
  simp only [List.foldl]
  refine ⟨?_, ?_, ?_⟩ <;> (repeat' split) <;> rfl


@[simp] theorem State_allocatorLost_keeps (s : State) (pn : Nat) :
    (State.allocatorLost s pn).pending = s.pending ∧ (State.allocatorLost s pn).ident = s.ident ∧ (State.allocatorLost s pn).mem = s.mem := ⟨rfl, rfl, rfl⟩

@[simp] theorem State_serveDataError_keeps (s : State) (a : Nat) :
    (State.serveDataError s a).pending = s.pending ∧ (State.serveDataError s a).ident = s.ident ∧ (State.serveDataError s a).mem = s.mem := by
  unfold State.serveDataError
  try dsimp only
  (repeat' split) <;> simp_all [apply_ite]

end Sys2Proof.Machine
end

