-- ==== Sys2Proof/Laws/KeepCaskOps.lean ====
section
/-! SUPPORT. What no operation or command of Machine/CaskOps.lean touches: the queue, who owns the device, and (`_keeps`, where it writes no tier) the memory; where it may write one, `_memOk` says the canonical form stays. -/

namespace Sys2Proof.Machine

@[simp] theorem State_modTiles_keeps (s : State) (ts : List Nat) (f : Nat → Tile → Tile) :
    (State.modTiles s ts f).pending = s.pending ∧ (State.modTiles s ts f).ident = s.ident ∧ (State.modTiles s ts f).mem = s.mem := by
  unfold State.modTiles
  try dsimp only
  (repeat' split) <;> simp_all [apply_ite]

@[simp] theorem State_emptySlot_keeps (s : State) (p c : Nat) :
    (State.emptySlot s p c).pending = s.pending ∧ (State.emptySlot s p c).ident = s.ident ∧ (State.emptySlot s p c).mem = s.mem := by
  unfold State.emptySlot
  try dsimp only
  (repeat' split) <;> simp_all [apply_ite]

@[simp] theorem State_creditEdge_keeps (s : State) (t c e n : Nat) :
    (State.creditEdge s t c e n).pending = s.pending ∧ (State.creditEdge s t c e n).ident = s.ident ∧ (State.creditEdge s t c e n).mem = s.mem := by
  unfold State.creditEdge
  try dsimp only
  (repeat' split) <;> simp_all [apply_ite]

@[simp] theorem State_flushQueue_keeps (s : State) (t c q : Nat) :
    (State.flushQueue s t c q).pending = s.pending ∧ (State.flushQueue s t c q).ident = s.ident ∧ (State.flushQueue s t c q).mem = s.mem := by
  unfold State.flushQueue
  try dsimp only
  (repeat' split) <;> simp_all [apply_ite]

@[simp] theorem State_flushCask_keeps (s : State) (pn c : Nat) :
    (State.flushCask s pn c).pending = s.pending ∧ (State.flushCask s pn c).ident = s.ident ∧ (State.flushCask s pn c).mem = s.mem := by
  unfold State.flushCask
  try dsimp only
  (repeat' split) <;> simp_all [apply_ite]

@[simp] theorem State_abortReq_keeps (s : State) (ridx : Nat) :
    (State.abortReq s ridx).pending = s.pending ∧ (State.abortReq s ridx).ident = s.ident ∧ (State.abortReq s ridx).mem = s.mem := by
  unfold State.abortReq
  try dsimp only
  (repeat' split) <;> simp_all [apply_ite]

@[simp] theorem State_abortStep_keeps (s : State) (pn : Nat) :
    (State.abortStep s pn).pending = s.pending ∧ (State.abortStep s pn).ident = s.ident ∧ (State.abortStep s pn).mem = s.mem := by
  unfold State.abortStep
  try dsimp only
  (repeat' split) <;> simp_all [apply_ite]

@[simp] theorem State_clearJournal_keeps (s : State) (pn : Nat) :
    (State.clearJournal s pn).pending = s.pending ∧ (State.clearJournal s pn).ident = s.ident ∧ (State.clearJournal s pn).mem = s.mem := ⟨rfl, rfl, rfl⟩

@[simp] theorem State_endEntries_keeps (s : State) (pn st : Nat) :
    (State.endEntries s pn st).pending = s.pending ∧ (State.endEntries s pn st).ident = s.ident ∧ (State.endEntries s pn st).mem = s.mem := by
  unfold State.endEntries
  try dsimp only
  (repeat' split) <;> simp_all [apply_ite]

@[simp] theorem State_dropPins_keeps (s : State) (pn : Nat) :
    (State.dropPins s pn).pending = s.pending ∧ (State.dropPins s pn).ident = s.ident := by
  unfold State.dropPins
  try dsimp only
  (repeat' split) <;> simp_all [apply_ite]

@[simp] theorem State_dropCacheUnits_keeps (s : State) (pn : Nat) :
    (State.dropCacheUnits s pn).pending = s.pending ∧ (State.dropCacheUnits s pn).ident = s.ident := ⟨rfl, rfl⟩

@[simp] theorem State_dropPool_keeps (s : State) (pn slot : Nat) :
    (State.dropPool s pn slot).pending = s.pending ∧ (State.dropPool s pn slot).ident = s.ident ∧ (State.dropPool s pn slot).mem = s.mem := ⟨rfl, rfl, rfl⟩

@[simp] theorem State_dropBacked_keeps (s : State) (pn : Nat) :
    (State.dropBacked s pn).pending = s.pending ∧ (State.dropBacked s pn).ident = s.ident := by
  unfold State.dropBacked
  try dsimp only
  (repeat' split) <;> simp_all [apply_ite]

@[simp] theorem State_endCommands_keeps (s : State) (pn st : Nat) :
    (State.endCommands s pn st).pending = s.pending ∧ (State.endCommands s pn st).ident = s.ident ∧ (State.endCommands s pn st).mem = s.mem := by
  unfold State.endCommands
  try dsimp only
  (repeat' split) <;> simp_all [apply_ite]

@[simp] theorem State_releasePart_keeps (s : State) (pn st : Nat) :
    (State.releasePart s pn st).pending = s.pending ∧ (State.releasePart s pn st).ident = s.ident := by
  unfold State.releasePart
  try dsimp only
  (repeat' split) <;> simp_all [apply_ite]

@[simp] theorem State_resetPart_keeps (s : State) (pn : Nat) :
    (State.resetPart s pn).pending = s.pending ∧ (State.resetPart s pn).ident = s.ident := by
  unfold State.resetPart
  try dsimp only
  (repeat' split) <;> simp_all [apply_ite]

@[simp] theorem State_inServiceCork_keeps (s : State) (stage unit ukind : Nat) :
    (State.inServiceCork s stage unit ukind).pending = s.pending ∧ (State.inServiceCork s stage unit ukind).ident = s.ident := by
  unfold State.inServiceCork
  try dsimp only
  (repeat' split) <;> simp_all [apply_ite]

@[simp] theorem State_stopClock_keeps (s : State) (pn : Nat) :
    (State.stopClock s pn).pending = s.pending ∧ (State.stopClock s pn).ident = s.ident ∧ (State.stopClock s pn).mem = s.mem := by
  unfold State.stopClock
  try dsimp only
  (repeat' split) <;> simp_all [apply_ite]

/-! ## The canonical form of the tiers stays -/

@[simp] theorem State_dropPins_memOk (s : State) (pn : Nat) (h : MemOk s.mem) :
    MemOk (State.dropPins s pn).mem := by
  unfold State.dropPins
  try dsimp only
  (repeat' split) <;> simp_all [MemOk]

@[simp] theorem State_dropCacheUnits_memOk (s : State) (pn : Nat) (h : MemOk s.mem) :
    MemOk (State.dropCacheUnits s pn).mem := by
  unfold State.dropCacheUnits
  try dsimp only
  (repeat' split) <;> simp_all [MemOk]

@[simp] theorem State_dropBacked_memOk (s : State) (pn : Nat) (h : MemOk s.mem) :
    MemOk (State.dropBacked s pn).mem := by
  unfold State.dropBacked
  try dsimp only
  (repeat' split) <;> simp_all [MemOk]

@[simp] theorem State_releasePart_memOk (s : State) (pn st : Nat) (h : MemOk s.mem) :
    MemOk (State.releasePart s pn st).mem := by
  unfold State.releasePart
  try dsimp only
  (repeat' split) <;> simp (disch := (intros; (repeat' split) <;> simp_all [MemOk])) [MemOk, *]

@[simp] theorem State_resetPart_memOk (s : State) (pn : Nat) (h : MemOk s.mem) :
    MemOk (State.resetPart s pn).mem := by
  unfold State.resetPart
  try dsimp only
  (repeat' split) <;> simp_all [MemOk]

@[simp] theorem State_inServiceCork_memOk (s : State) (stage unit ukind : Nat) (h : MemOk s.mem) :
    MemOk (State.inServiceCork s stage unit ukind).mem := by
  unfold State.inServiceCork
  try dsimp only
  (repeat' split) <;> simp_all [MemOk]

end Sys2Proof.Machine
end

