-- ==== Sys2Proof/Laws/KeepAccess.lean ====
section
/-! SUPPORT. What no operation or command of Machine/Access.lean touches: the queue, who owns the device, and (`_keeps`, where it writes no tier) the memory; where it may write one, `_memOk` says the canonical form stays. -/

namespace Sys2Proof.Machine

@[simp] theorem State_tierError_keeps (s : State) (a : Access) (cause loc : Nat) :
    (State.tierError s a cause loc).pending = s.pending ∧ (State.tierError s a cause loc).ident = s.ident ∧ (State.tierError s a cause loc).mem = s.mem := by
  unfold State.tierError
  try dsimp only
  (repeat' split) <;> simp_all [apply_ite]

@[simp] theorem State_answerTile_keeps (s : State) (t c e seq exit : Nat) (a : Access) (b : Bytes) :
    (State.answerTile s t c e seq exit a b).pending = s.pending ∧ (State.answerTile s t c e seq exit a b).ident = s.ident ∧ (State.answerTile s t c e seq exit a b).mem = s.mem := by
  unfold State.answerTile
  try dsimp only
  (repeat' split) <;> simp_all [apply_ite]

@[simp] theorem State_answer_keeps (s : State) (a : Access) (failed : Option Nat) (b : Bytes) :
    (State.answer s a failed b).pending = s.pending ∧ (State.answer s a failed b).ident = s.ident := by
  unfold State.answer
  try dsimp only
  (repeat' split) <;> simp_all [apply_ite]

@[simp] theorem State_tileFailed_keeps (s : State) (t c e seq : Nat) (read : Bool) :
    (State.tileFailed s t c e seq read).pending = s.pending ∧ (State.tileFailed s t c e seq read).ident = s.ident ∧ (State.tileFailed s t c e seq read).mem = s.mem := by
  unfold State.tileFailed
  try dsimp only
  (repeat' split) <;> simp_all [apply_ite]

@[simp] theorem State_failAccess_keeps (s : State) (a : Access) (cause loc : Nat) :
    (State.failAccess s a cause loc).pending = s.pending ∧ (State.failAccess s a cause loc).ident = s.ident := by
  unfold State.failAccess
  try dsimp only
  (repeat' split) <;> simp_all [apply_ite]

@[simp] theorem State_countCorrected_keeps (s : State) (i : Nat) :
    (State.countCorrected s i).pending = s.pending ∧ (State.countCorrected s i).ident = s.ident := ⟨rfl, rfl⟩

@[simp] theorem State_deviceCorrected_keeps (s : State) (channel rank dev : Nat) :
    (State.deviceCorrected s channel rank dev).pending = s.pending ∧ (State.deviceCorrected s channel rank dev).ident = s.ident := by
  unfold State.deviceCorrected
  try dsimp only
  (repeat' split) <;> simp_all [apply_ite]

@[simp] theorem State_noteEcc_keeps (s : State) (tier loc : Nat) (found : Ecc) :
    (State.noteEcc s tier loc found).pending = s.pending ∧ (State.noteEcc s tier loc found).ident = s.ident := by
  unfold State.noteEcc
  try dsimp only
  (repeat' split) <;> simp_all [apply_ite]

@[simp] theorem State_putStruct_keeps (s : State) (a : Nat) (b : Bytes) :
    (State.putStruct s a b).pending = s.pending ∧ (State.putStruct s a b).ident = s.ident := by
  unfold State.putStruct
  try dsimp only
  (repeat' split) <;> simp_all [apply_ite]

@[simp] theorem State_afterAccess_keeps (s : State) (a : Access) :
    (State.afterAccess s a).pending = s.pending ∧ (State.afterAccess s a).ident = s.ident := by
  unfold State.afterAccess
  try dsimp only
  (repeat' split) <;> simp_all [apply_ite]

@[simp] theorem State_track_keeps (s : State) (addr : Nat) :
    (State.track s addr).pending = s.pending ∧ (State.track s addr).ident = s.ident := by
  unfold State.track
  try dsimp only
  (repeat' split) <;> simp_all [apply_ite]

@[simp] theorem State_trackFor_keeps (s : State) (a : Access) :
    (State.trackFor s a).pending = s.pending ∧ (State.trackFor s a).ident = s.ident := by
  unfold State.trackFor
  try dsimp only
  (repeat' split) <;> simp_all [apply_ite]

@[simp] theorem State_perform_keeps (s : State) (a : Access) (l : RimLine) :
    (State.perform s a l).pending = s.pending ∧ (State.perform s a l).ident = s.ident := by
  unfold State.perform
  try dsimp only
  (repeat' split) <;> simp_all [apply_ite]

@[simp] theorem State_holdLine_keeps (s : State) (a : Access) (w : Nat) (l : RimLine) :
    (State.holdLine s a w l).pending = s.pending ∧ (State.holdLine s a w l).ident = s.ident := by
  unfold State.holdLine
  try dsimp only
  (repeat' split) <;> simp_all [apply_ite]

@[simp] theorem State_serveHit_keeps (s : State) (a : Access) (w : Nat) (l : RimLine) (found : Ecc) :
    (State.serveHit s a w l found).pending = s.pending ∧ (State.serveHit s a w l found).ident = s.ident := by
  unfold State.serveHit
  try dsimp only
  (repeat' split) <;> simp_all [apply_ite]

@[simp] theorem State_serveMiss_keeps (s : State) (a : Access) (e : UnitEntry) (found : Ecc) :
    (State.serveMiss s a e found).pending = s.pending ∧ (State.serveMiss s a e found).ident = s.ident := by
  unfold State.serveMiss
  try dsimp only
  (repeat' split) <;> simp_all [apply_ite]

@[simp] theorem State_lookUp_keeps (s : State) (a : Nat) (ea eb : Ecc) :
    (State.lookUp s a ea eb).pending = s.pending ∧ (State.lookUp s a ea eb).ident = s.ident := by
  unfold State.lookUp
  try dsimp only
  (repeat' split) <;> simp_all [apply_ite]

@[simp] theorem State_askHost_keeps (s : State) (a : Access) (code : Nat) :
    (State.askHost s a code).pending = s.pending ∧ (State.askHost s a code).ident = s.ident := by
  unfold State.askHost
  try dsimp only
  (repeat' split) <;> simp_all [apply_ite]

@[simp] theorem State_enqueue_keeps (s : State) (a : Access) (found : Ecc) :
    (State.enqueue s a found).pending = s.pending ∧ (State.enqueue s a found).ident = s.ident := by
  unfold State.enqueue
  try dsimp only
  (repeat' split) <;> simp_all [apply_ite]

@[simp] theorem State_serve_keeps (s : State) (a : Access) (found : Ecc) (clear : Bool) :
    (State.serve s a found clear).pending = s.pending ∧ (State.serve s a found clear).ident = s.ident := by
  unfold State.serve
  try dsimp only
  (repeat' split) <;> simp_all [apply_ite]

@[simp] theorem State_refill_keeps (s : State) (line : Nat) (z0 : Nat) :
    (State.refill s line z0).pending = s.pending ∧ (State.refill s line z0).ident = s.ident := by
  induction z0 generalizing s line <;>
  (unfold State.refill; try dsimp only) <;> (repeat' split) <;> simp_all [apply_ite]

@[simp] theorem State_advance_keeps (s : State) (line : Nat) (z0 : Nat) :
    (State.advance s line z0).pending = s.pending ∧ (State.advance s line z0).ident = s.ident := by
  induction z0 generalizing s line <;>
  (unfold State.advance; try dsimp only) <;> (repeat' split) <;> simp_all [apply_ite]

@[simp] theorem State_proceed_keeps (s : State) (line : Nat) :
    (State.proceed s line).pending = s.pending ∧ (State.proceed s line).ident = s.ident := by
  unfold State.proceed
  try dsimp only
  (repeat' split) <;> simp_all [apply_ite]

@[simp] theorem State_readOut_keeps (s : State) (x : Access × Ecc) :
    (State.readOut s x).pending = s.pending ∧ (State.readOut s x).ident = s.ident := by
  unfold State.readOut
  try dsimp only
  (repeat' split) <;> simp_all [apply_ite]

@[simp] theorem State_issueOne_keeps (s : State) (k : Nat) :
    (State.issueOne s k).pending = s.pending ∧ (State.issueOne s k).ident = s.ident := by
  unfold State.issueOne
  try dsimp only
  (repeat' split) <;> simp_all [apply_ite]

@[simp] theorem State_issueAll_keeps (s : State) (k : Nat) (z0 : Nat) :
    (State.issueAll s k z0).pending = s.pending ∧ (State.issueAll s k z0).ident = s.ident := by
  induction z0 generalizing s k <;>
  (unfold State.issueAll; try dsimp only) <;> (repeat' split) <;> simp_all [apply_ite]

@[simp] theorem State_settleAt_keeps (s : State) (a : Nat) :
    (State.settleAt s a).pending = s.pending ∧ (State.settleAt s a).ident = s.ident := by
  unfold State.settleAt
  try dsimp only
  (repeat' split) <;> simp_all [apply_ite]

@[simp] theorem State_access_keeps (s : State) (a : Access) (found : Ecc) (held : Bool) :
    (State.access s a found held).pending = s.pending ∧ (State.access s a found held).ident = s.ident := by
  unfold State.access
  try dsimp only
  (repeat' split) <;> simp_all [apply_ite]

@[simp] theorem State_issueWaiting_keeps (s : State) :
    (State.issueWaiting s).pending = s.pending ∧ (State.issueWaiting s).ident = s.ident := by
  unfold State.issueWaiting
  try dsimp only
  (repeat' split) <;> simp_all [apply_ite]

@[simp] theorem State_resume_keeps (s : State) (l : List Access) :
    (State.resume s l).pending = s.pending ∧ (State.resume s l).ident = s.ident := by
  unfold State.resume
  try dsimp only
  (repeat' split) <;> simp_all [apply_ite]

@[simp] theorem State_hostData_keeps (s : State) (addr : Nat) (r : HostRead) :
    (State.hostData s addr r).pending = s.pending ∧ (State.hostData s addr r).ident = s.ident := by
  unfold State.hostData
  try dsimp only
  (repeat' split) <;> simp_all [apply_ite]

@[simp] theorem State_snoopDone_keeps (s : State) (addr : Nat) :
    (State.snoopDone s addr).pending = s.pending ∧ (State.snoopDone s addr).ident = s.ident := by
  unfold State.snoopDone
  try dsimp only
  (repeat' split) <;> simp (disch := (intros; (repeat' split) <;> simp_all)) [apply_ite, *]

@[simp] theorem State_decantRead_keeps (s : State) (e : UnitEntry) (l : Nat) (found : Ecc) :
    (State.decantRead s e l found).pending = s.pending ∧ (State.decantRead s e l found).ident = s.ident := by
  unfold State.decantRead
  try dsimp only
  (repeat' split) <;> simp_all [apply_ite]

@[simp] theorem State_endDecant_keeps (s : State) (d : Decant) (l : Nat) (found : Ecc) :
    (State.endDecant s d l found).pending = s.pending ∧ (State.endDecant s d l found).ident = s.ident := by
  unfold State.endDecant
  try dsimp only
  (repeat' split) <;> simp_all [apply_ite]

@[simp] theorem State_settle_keeps (s : State) (u : Nat) :
    (State.settle s u).pending = s.pending ∧ (State.settle s u).ident = s.ident := by
  unfold State.settle
  try dsimp only
  (repeat' split) <;> simp_all [apply_ite]

@[simp] theorem State_relocate_keeps (s : State) (u t : Nat) :
    (State.relocate s u t).pending = s.pending ∧ (State.relocate s u t).ident = s.ident := by
  unfold State.relocate
  try dsimp only
  (repeat' split) <;> simp_all [apply_ite]

@[simp] theorem State_drainLine_keeps (s : State) (a : Nat) (z0 : Nat) :
    (State.drainLine s a z0).pending = s.pending ∧ (State.drainLine s a z0).ident = s.ident := by
  induction z0 generalizing s a <;>
  (unfold State.drainLine; try dsimp only) <;> (repeat' split) <;> simp_all [apply_ite]

@[simp] theorem State_settleLine_keeps (s : State) (a : Nat) (writes : Bool) :
    (State.settleLine s a writes).pending = s.pending ∧ (State.settleLine s a writes).ident = s.ident := by
  unfold State.settleLine
  try dsimp only
  (repeat' split) <;> simp_all [apply_ite]

@[simp] theorem State_fwLine_keeps (s : State) (a : Access) :
    (State.fwLine s a).pending = s.pending ∧ (State.fwLine s a).ident = s.ident := by
  unfold State.fwLine
  try dsimp only
  (repeat' split) <;> simp_all [apply_ite]

@[simp] theorem State_fwWrite_keeps (s : State) (q : Requester) (a : Nat) (b : Bytes) (z0 : Nat) :
    ((State.fwWrite s q a b z0).2).pending = s.pending ∧ ((State.fwWrite s q a b z0).2).ident = s.ident := by
  induction z0 generalizing s q a b <;>
  (unfold State.fwWrite; try dsimp only) <;> (repeat' split) <;> simp_all [apply_ite]

@[simp] theorem State_fwRead_keeps (s : State) (q : Requester) (a : Nat) (z0 : Nat) :
    ((State.fwRead s q a z0).2).pending = s.pending ∧ ((State.fwRead s q a z0).2).ident = s.ident := by
  induction z0 generalizing s q a <;>
  (unfold State.fwRead; try dsimp only) <;> (repeat' split) <;> simp_all [apply_ite]

@[simp] theorem State_readBytes_keeps (s : State) (q : Requester) (a n : Nat) :
    ((State.readBytes s q a n).2).pending = s.pending ∧ ((State.readBytes s q a n).2).ident = s.ident := by
  unfold State.readBytes
  try dsimp only
  (repeat' split) <;> simp_all [apply_ite]

@[simp] theorem State_writeBytes_keeps (s : State) (q : Requester) (a : Nat) (b : Bytes) :
    ((State.writeBytes s q a b).2).pending = s.pending ∧ ((State.writeBytes s q a b).2).ident = s.ident := by
  unfold State.writeBytes
  try dsimp only
  (repeat' split) <;> simp_all [apply_ite]

/-! ## The canonical form of the tiers stays -/

@[simp] theorem State_answer_memOk (s : State) (a : Access) (failed : Option Nat) (b : Bytes) (h : MemOk s.mem) :
    MemOk (State.answer s a failed b).mem := by
  unfold State.answer
  try dsimp only
  (repeat' split) <;> simp_all [MemOk]

@[simp] theorem State_failAccess_memOk (s : State) (a : Access) (cause loc : Nat) (h : MemOk s.mem) :
    MemOk (State.failAccess s a cause loc).mem := by
  unfold State.failAccess
  try dsimp only
  (repeat' split) <;> simp_all [MemOk]

@[simp] theorem State_countCorrected_memOk (s : State) (i : Nat) (h : MemOk s.mem) :
    MemOk (State.countCorrected s i).mem := by
  unfold State.countCorrected
  try dsimp only
  (repeat' split) <;> simp_all [MemOk]

@[simp] theorem State_deviceCorrected_memOk (s : State) (channel rank dev : Nat) (h : MemOk s.mem) :
    MemOk (State.deviceCorrected s channel rank dev).mem := by
  unfold State.deviceCorrected
  try dsimp only
  (repeat' split) <;> simp_all [MemOk]

@[simp] theorem State_noteEcc_memOk (s : State) (tier loc : Nat) (found : Ecc) (h : MemOk s.mem) :
    MemOk (State.noteEcc s tier loc found).mem := by
  unfold State.noteEcc
  try dsimp only
  (repeat' split) <;> simp_all [MemOk]

@[simp] theorem Memory_putEntry_memOk (m : Memory) (u : Nat) (b : Bytes) (h : MemOk m) :
    MemOk ((Memory.putEntry m u b)) := by
  unfold Memory.putEntry
  try dsimp only
  (repeat' split) <;> simp_all [MemOk]

@[simp] theorem State_putStruct_memOk (s : State) (a : Nat) (b : Bytes) (h : MemOk s.mem) :
    MemOk (State.putStruct s a b).mem := by
  unfold State.putStruct
  try dsimp only
  (repeat' split) <;> simp_all [MemOk]

@[simp] theorem State_afterAccess_memOk (s : State) (a : Access) (h : MemOk s.mem) :
    MemOk (State.afterAccess s a).mem := by
  unfold State.afterAccess
  try dsimp only
  (repeat' split) <;> simp_all [MemOk]

@[simp] theorem State_track_memOk (s : State) (addr : Nat) (h : MemOk s.mem) :
    MemOk (State.track s addr).mem := by
  unfold State.track
  try dsimp only
  (repeat' split) <;> simp_all [MemOk]

@[simp] theorem State_trackFor_memOk (s : State) (a : Access) (h : MemOk s.mem) :
    MemOk (State.trackFor s a).mem := by
  unfold State.trackFor
  try dsimp only
  (repeat' split) <;> simp_all [MemOk]

@[simp] theorem State_perform_memOk (s : State) (a : Access) (l : RimLine) (h : MemOk s.mem) :
    MemOk (State.perform s a l).mem := by
  unfold State.perform
  repeat' (first | assumption | (intro _; done) | split | dsimp only | simp only [State_cxlCache_keeps] | with_reducible apply State_answer_memOk | with_reducible apply State_putStruct_memOk | with_reducible apply State_afterAccess_memOk | with_reducible apply State_trackFor_memOk | with_reducible apply Memory_allocLine_memOk | with_reducible apply foldl_memOk | with_reducible apply foldl_memOkM | intro _)

@[simp] theorem State_holdLine_memOk (s : State) (a : Access) (w : Nat) (l : RimLine) (h : MemOk s.mem) :
    MemOk (State.holdLine s a w l).mem := by
  unfold State.holdLine
  try dsimp only
  (repeat' split) <;> simp (disch := (intros; (repeat' split) <;> simp_all [MemOk])) [MemOk, *]

@[simp] theorem State_serveHit_memOk (s : State) (a : Access) (w : Nat) (l : RimLine) (found : Ecc) (h : MemOk s.mem) :
    MemOk (State.serveHit s a w l found).mem := by
  unfold State.serveHit
  try dsimp only
  (repeat' split) <;> simp_all [MemOk]

@[simp] theorem State_serveMiss_memOk (s : State) (a : Access) (e : UnitEntry) (found : Ecc) (h : MemOk s.mem) :
    MemOk (State.serveMiss s a e found).mem := by
  unfold State.serveMiss
  try dsimp only
  (repeat' split) <;> simp (disch := (intros; (repeat' split) <;> simp_all [MemOk])) [MemOk, *]

@[simp] theorem State_lookUp_memOk (s : State) (a : Nat) (ea eb : Ecc) (h : MemOk s.mem) :
    MemOk (State.lookUp s a ea eb).mem := by
  have key : ∀ t : State, MemOk t.mem → MemOk (if t.mem.mapBad (a / unitBytes) then t
      else ({ t with
        mem := (t.mem.allocLine (s.mem.mapAddr (a / unitBytes)) ⟨s.mem.mapAddr (a / unitBytes) / 64, false, false, false,
          (t.structLine (s.mem.mapAddr (a / unitBytes))).getD []⟩).1.translate (lineDie a) (a / unitBytes) }).cxlCache
        (t.mem.allocLine (s.mem.mapAddr (a / unitBytes)) ⟨s.mem.mapAddr (a / unitBytes) / 64, false, false, false,
          (t.structLine (s.mem.mapAddr (a / unitBytes))).getD []⟩).2).mem := by
    intro t ht
    split
    · exact ht
    · simp only [State_cxlCache_keeps]
      exact Memory_translate_memOk _ _ _ (Memory_allocLine_memOk _ _ _ ht)
  unfold State.lookUp
  dsimp only
  split
  · exact h
  · apply key
    split
    · exact h
    · exact Memory_readMap_memOk _ _ _ _ (State_noteEcc_memOk _ _ _ _ h)

@[simp] theorem State_askHost_memOk (s : State) (a : Access) (code : Nat) (h : MemOk s.mem) :
    MemOk (State.askHost s a code).mem := by
  unfold State.askHost
  try dsimp only
  (repeat' split) <;> simp_all [MemOk]

@[simp] theorem State_enqueue_memOk (s : State) (a : Access) (found : Ecc) (h : MemOk s.mem) :
    MemOk (State.enqueue s a found).mem := by
  unfold State.enqueue
  try dsimp only
  (repeat' split) <;> simp_all [MemOk]

@[simp] theorem State_serve_memOk (s : State) (a : Access) (found : Ecc) (clear : Bool) (h : MemOk s.mem) :
    MemOk (State.serve s a found clear).mem := by
  unfold State.serve
  try dsimp only
  (repeat' split) <;> simp_all [MemOk]

@[simp] theorem State_refill_memOk (s : State) (line : Nat) (z0 : Nat) (h : MemOk s.mem) :
    MemOk (State.refill s line z0).mem := by
  induction z0 generalizing s line <;>
  (unfold State.refill; try dsimp only) <;> (repeat' split) <;> simp_all [MemOk]

@[simp] theorem State_advance_memOk (s : State) (line : Nat) (z0 : Nat) (h : MemOk s.mem) :
    MemOk (State.advance s line z0).mem := by
  induction z0 generalizing s with
  | zero => exact h
  | succ n ih =>
    have h1 := State_refill_memOk s line 4 h
    unfold State.advance
    dsimp only
    split
    · exact h1
    · split
      · exact ih _ (State_serve_memOk _ _ _ _ h1)
      · exact h1

@[simp] theorem State_proceed_memOk (s : State) (line : Nat) (h : MemOk s.mem) :
    MemOk (State.proceed s line).mem := by
  unfold State.proceed
  try dsimp only
  (repeat' split) <;> simp_all [MemOk]

@[simp] theorem State_readOut_memOk (s : State) (x : Access × Ecc) (h : MemOk s.mem) :
    MemOk (State.readOut s x).mem := by
  unfold State.readOut
  try dsimp only
  (repeat' split) <;> simp_all [MemOk]

@[simp] theorem State_issueOne_memOk (s : State) (k : Nat) (h : MemOk s.mem) :
    MemOk (State.issueOne s k).mem := by
  unfold State.issueOne
  try dsimp only
  (repeat' split) <;> simp_all [MemOk]

@[simp] theorem State_issueAll_memOk (s : State) (k : Nat) (z0 : Nat) (h : MemOk s.mem) :
    MemOk (State.issueAll s k z0).mem := by
  induction z0 generalizing s k <;>
  (unfold State.issueAll; try dsimp only) <;> (repeat' split) <;> simp_all [MemOk]

@[simp] theorem State_settleAt_memOk (s : State) (a : Nat) (h : MemOk s.mem) :
    MemOk (State.settleAt s a).mem := by
  unfold State.settleAt
  try dsimp only
  (repeat' split) <;> simp_all [MemOk]

@[simp] theorem State_access_memOk (s : State) (a : Access) (found : Ecc) (held : Bool) (h : MemOk s.mem) :
    MemOk (State.access s a found held).mem := by
  unfold State.access
  try dsimp only
  (repeat' split) <;> simp (disch := (intros; (repeat' split) <;> simp_all [MemOk])) [MemOk, *]

@[simp] theorem State_issueWaiting_memOk (s : State) (h : MemOk s.mem) :
    MemOk (State.issueWaiting s).mem := by
  unfold State.issueWaiting
  try dsimp only
  (repeat' split) <;> simp_all [MemOk]

@[simp] theorem State_resume_memOk (s : State) (l : List Access) (h : MemOk s.mem) :
    MemOk (State.resume s l).mem := by
  unfold State.resume
  try dsimp only
  (repeat' split) <;> simp (disch := (intros; (repeat' split) <;> simp_all [MemOk])) [MemOk, *]

@[simp] theorem State_hostData_memOk (s : State) (addr : Nat) (r : HostRead) (h : MemOk s.mem) :
    MemOk (State.hostData s addr r).mem := by
  unfold State.hostData
  try dsimp only
  (repeat' split) <;> simp (disch := (intros; (repeat' split) <;> simp_all [MemOk])) [MemOk, *]

@[simp] theorem State_snoopDone_memOk (s : State) (addr : Nat) (h : MemOk s.mem) :
    MemOk (State.snoopDone s addr).mem := by
  unfold State.snoopDone
  try dsimp only
  (repeat' split) <;> simp (disch := (intros; (repeat' split) <;> simp_all [MemOk])) [MemOk, *]

@[simp] theorem State_decantRead_memOk (s : State) (e : UnitEntry) (l : Nat) (found : Ecc) (h : MemOk s.mem) :
    MemOk (State.decantRead s e l found).mem := by
  unfold State.decantRead
  try dsimp only
  (repeat' split) <;> simp_all [MemOk]

@[simp] theorem State_endDecant_memOk (s : State) (d : Decant) (l : Nat) (found : Ecc) (h : MemOk s.mem) :
    MemOk (State.endDecant s d l found).mem := by
  have key : ∀ t : State, MemOk t.mem → MemOk (t.marks.resume d.waiting).issueWaiting.mem := fun t ht =>
    State_issueWaiting_memOk _ (State_resume_memOk _ _ (State_marks_memOk _ ht))
  unfold State.endDecant
  split
  · exact h
  · rename_i e _
    have h1 := State_decantRead_memOk s e (l % 1024) found h
    generalize s.decantRead e (l % 1024) found = t at h1
    apply key
    (repeat' split) <;> first | exact Memory_abandon_memOk _ _ _ h1 | exact Memory_moveUnit_memOk _ _ _ h1

@[simp] theorem State_settle_memOk (s : State) (u : Nat) (h : MemOk s.mem) :
    MemOk (State.settle s u).mem := by
  unfold State.settle
  try dsimp only
  (repeat' split) <;> simp_all [MemOk]

@[simp] theorem State_relocate_memOk (s : State) (u t : Nat) (h : MemOk s.mem) :
    MemOk (State.relocate s u t).mem := by
  unfold State.relocate
  try dsimp only
  (repeat' split) <;> simp_all [MemOk]

@[simp] theorem State_drainLine_memOk (s : State) (a : Nat) (z0 : Nat) (h : MemOk s.mem) :
    MemOk (State.drainLine s a z0).mem := by
  induction z0 generalizing s a <;>
  (unfold State.drainLine; try dsimp only) <;> (repeat' split) <;> simp_all [MemOk]

@[simp] theorem State_settleLine_memOk (s : State) (a : Nat) (writes : Bool) (h : MemOk s.mem) :
    MemOk (State.settleLine s a writes).mem := by
  unfold State.settleLine
  try dsimp only
  (repeat' split) <;> simp (disch := (intros; (repeat' split) <;> simp_all [MemOk])) [MemOk, *]

@[simp] theorem State_fwLine_memOk (s : State) (a : Access) (h : MemOk s.mem) :
    MemOk (State.fwLine s a).mem := by
  have h1 := State_settleLine_memOk s a.addr a.kind.writes h
  have h2 := State_lookUp_memOk _ a.addr .clean .clean h1
  have h3 := State_serve_memOk _ a .clean true h2
  have h4 := State_settleAt_memOk _ a.addr h3
  have key : ∀ t : State, MemOk t.mem → MemOk ({ t with mem := { t.mem with resp := t.mem.resp.filter fun r => r.access != a } } : State).mem := fun t ht => ht
  exact key _ h4

@[simp] theorem State_fwWrite_memOk (s : State) (q : Requester) (a : Nat) (b : Bytes) (z0 : Nat) (h : MemOk s.mem) :
    MemOk (State.fwWrite s q a b z0).2.mem := by
  induction z0 generalizing s q a b <;>
  (unfold State.fwWrite; try dsimp only) <;> (repeat' split) <;> simp_all [MemOk]

@[simp] theorem State_fwRead_memOk (s : State) (q : Requester) (a : Nat) (z0 : Nat) (h : MemOk s.mem) :
    MemOk (State.fwRead s q a z0).2.mem := by
  induction z0 generalizing s a with
  | zero => simpa [State.fwRead] using h
  | succ n ih =>
    have h1 := State_settleLine_memOk s a false h
    have h2 := State_fwLine_memOk _ ⟨q, 0, a, .read⟩ h1
    unfold State.fwRead
    dsimp only
    split
    · split
      · exact h2
      · exact ih _ _ h2
    · exact h2


@[simp] theorem State_readBytes_memOk (s : State) (q : Requester) (a n : Nat) (h : MemOk s.mem) :
    MemOk (State.readBytes s q a n).2.mem := by
  unfold State.readBytes
  try dsimp only
  (repeat' split) <;> simp_all [MemOk]

@[simp] theorem State_writeBytes_memOk (s : State) (q : Requester) (a : Nat) (b : Bytes) (h : MemOk s.mem) :
    MemOk (State.writeBytes s q a b).2.mem := by
  unfold State.writeBytes
  try dsimp only
  (repeat' split) <;> simp_all [MemOk]

end Sys2Proof.Machine
end

