-- ==== Sys2Proof/Laws/KeepFabricOps.lean ====
section
/-! SUPPORT. What no operation or command of Machine/FabricOps.lean touches: the queue, who owns the device, and (`_keeps`, where it writes no tier) the memory; where it may write one, `_memOk` says the canonical form stays. -/

namespace Sys2Proof.Machine

@[simp] theorem State_modPort_keeps (s : State) (k : Nat) (f : Port → Port) :
    (State.modPort s k f).pending = s.pending ∧ (State.modPort s k f).ident = s.ident ∧ (State.modPort s k f).mem = s.mem := ⟨rfl, rfl, rfl⟩

@[simp] theorem State_countDiscard_keeps (s : State) (k : Nat) :
    (State.countDiscard s k).pending = s.pending ∧ (State.countDiscard s k).ident = s.ident ∧ (State.countDiscard s k).mem = s.mem := ⟨rfl, rfl, rfl⟩

@[simp] theorem State_portsChanged_keeps (s : State) (hop : Nat) :
    (State.portsChanged s hop).pending = s.pending ∧ (State.portsChanged s hop).ident = s.ident ∧ (State.portsChanged s hop).mem = s.mem := by
  unfold State.portsChanged
  try dsimp only
  (repeat' split) <;> simp_all [apply_ite]

@[simp] theorem State_sendCharter_keeps (s : State) (k : Nat) :
    (State.sendCharter s k).pending = s.pending ∧ (State.sendCharter s k).ident = s.ident ∧ (State.sendCharter s k).mem = s.mem := ⟨rfl, rfl, rfl⟩

@[simp] theorem State_portDown_keeps (s : State) (k : Nat) :
    (State.portDown s k).pending = s.pending ∧ (State.portDown s k).ident = s.ident ∧ (State.portDown s k).mem = s.mem := by
  unfold State.portDown
  try dsimp only
  (repeat' split) <;> simp_all [apply_ite]

@[simp] theorem State_toEgress_keeps (s : State) (k : Nat) (p : Packet) :
    (State.toEgress s k p).pending = s.pending ∧ (State.toEgress s k p).ident = s.ident ∧ (State.toEgress s k p).mem = s.mem := ⟨rfl, rfl, rfl⟩

@[simp] theorem State_forward_keeps (s : State) (u : FabUser) (cls : Nat) (data : Option Bytes) :
    (State.forward s u cls data).pending = s.pending ∧ (State.forward s u cls data).ident = s.ident ∧ (State.forward s u cls data).mem = s.mem := by
  unfold State.forward
  try dsimp only
  (repeat' split) <;> simp_all [apply_ite]

@[simp] theorem State_freeRequest_keeps (s : State) (u : FabUser) :
    (State.freeRequest s u).pending = s.pending ∧ (State.freeRequest s u).ident = s.ident ∧ (State.freeRequest s u).mem = s.mem := by
  unfold State.freeRequest
  try dsimp only
  (repeat' split) <;> simp_all [apply_ite]

@[simp] theorem State_endTx_keeps (s : State) (t : FabTx) (st : Nat) (data : Bytes) :
    (State.endTx s t st data).pending = s.pending ∧ (State.endTx s t st data).ident = s.ident ∧ (State.endTx s t st data).mem = s.mem := by
  unfold State.endTx
  try dsimp only
  (repeat' split) <;> simp_all [apply_ite]

@[simp] theorem State_forwardArrival_keeps (s : State) (u : FabUser) (cls st : Nat) :
    (State.forwardArrival s u cls st).pending = s.pending ∧ (State.forwardArrival s u cls st).ident = s.ident ∧ (State.forwardArrival s u cls st).mem = s.mem := by
  unfold State.forwardArrival
  try dsimp only
  (repeat' split) <;> simp_all [apply_ite]

@[simp] theorem State_endArrival_keeps (s : State) (a : Arrival) (st : Nat) :
    (State.endArrival s a st).pending = s.pending ∧ (State.endArrival s a st).ident = s.ident ∧ (State.endArrival s a st).mem = s.mem := by
  unfold State.endArrival
  try dsimp only
  (repeat' split) <;> simp_all [apply_ite]

@[simp] theorem State_arrivalAnswer_keeps (s : State) (a : Arrival) (st : Nat) :
    (State.arrivalAnswer s a st).pending = s.pending ∧ (State.arrivalAnswer s a st).ident = s.ident ∧ (State.arrivalAnswer s a st).mem = s.mem := by
  unfold State.arrivalAnswer
  try dsimp only
  (repeat' split) <;> simp_all [apply_ite]

@[simp] theorem State_endArrive_keeps (s : State) (t : FabTx) (st : Nat) :
    (State.endArrive s t st).pending = s.pending ∧ (State.endArrive s t st).ident = s.ident ∧ (State.endArrive s t st).mem = s.mem := by
  unfold State.endArrive
  try dsimp only
  (repeat' split) <;> simp_all [apply_ite]

@[simp] theorem State_closeTx_keeps (s : State) (t : FabTx) (st : Nat) (data : Bytes) :
    (State.closeTx s t st data).pending = s.pending ∧ (State.closeTx s t st data).ident = s.ident ∧ (State.closeTx s t st data).mem = s.mem := by
  unfold State.closeTx
  try dsimp only
  (repeat' split) <;> simp_all [apply_ite]

@[simp] theorem State_takeResponse_keeps (s : State) (t : FabTx) (p : Packet) :
    (State.takeResponse s t p).pending = s.pending ∧ (State.takeResponse s t p).ident = s.ident ∧ (State.takeResponse s t p).mem = s.mem := by
  unfold State.takeResponse
  try dsimp only
  (repeat' split) <;> simp_all [apply_ite]

@[simp] theorem State_respond_keeps (s : State) (req : Packet) (ptype st pidx : Nat) (last : Bool) (payload : Bytes) :
    (State.respond s req ptype st pidx last payload).pending = s.pending ∧ (State.respond s req ptype st pidx last payload).ident = s.ident ∧ (State.respond s req ptype st pidx last payload).mem = s.mem := by
  unfold State.respond
  try dsimp only
  (repeat' split) <;> simp_all [apply_ite]

@[simp] theorem State_respondErr_keeps (s : State) (req : Packet) (st : Nat) :
    (State.respondErr s req st).pending = s.pending ∧ (State.respondErr s req st).ident = s.ident ∧ (State.respondErr s req st).mem = s.mem := by
  unfold State.respondErr
  try dsimp only
  (repeat' split) <;> simp_all [apply_ite]

@[simp] theorem State_leaveIngress_keeps (s : State) (p : Packet) :
    (State.leaveIngress s p).pending = s.pending ∧ (State.leaveIngress s p).ident = s.ident ∧ (State.leaveIngress s p).mem = s.mem := by
  unfold State.leaveIngress
  try dsimp only
  (repeat' split) <;> simp_all [apply_ite]

@[simp] theorem State_shipPerformed_keeps (s : State) (o : PeerOp) :
    (State.shipPerformed s o).pending = s.pending ∧ (State.shipPerformed s o).ident = s.ident ∧ (State.shipPerformed s o).mem = s.mem := by
  unfold State.shipPerformed
  try dsimp only
  (repeat' split) <;> simp_all [apply_ite]

@[simp] theorem State_peerDone_keeps (s : State) (o : PeerOp) :
    (State.peerDone s o).pending = s.pending ∧ (State.peerDone s o).ident = s.ident ∧ (State.peerDone s o).mem = s.mem := by
  unfold State.peerDone
  try dsimp only
  (repeat' split) <;> simp_all [apply_ite]

@[simp] theorem State_flushOps_keeps (s : State) :
    (State.flushOps s).pending = s.pending ∧ (State.flushOps s).ident = s.ident ∧ (State.flushOps s).mem = s.mem := by
  unfold State.flushOps
  try dsimp only
  (repeat' split) <;> simp_all [apply_ite]

@[simp] theorem State_takeAnswers_keeps (s : State) :
    (State.takeAnswers s).pending = s.pending ∧ (State.takeAnswers s).ident = s.ident := by
  unfold State.takeAnswers
  try dsimp only
  (repeat' split) <;> simp_all [apply_ite]

@[simp] theorem State_runLines_keeps (s : State) (l : List Access) :
    (State.runLines s l).pending = s.pending ∧ (State.runLines s l).ident = s.ident := by
  unfold State.runLines
  try dsimp only
  (repeat' split) <;> simp_all [apply_ite]

@[simp] theorem State_servePeers_keeps (s : State) (z0 : Nat) :
    (State.servePeers s z0).pending = s.pending ∧ (State.servePeers s z0).ident = s.ident := by
  induction z0 generalizing s <;>
  (unfold State.servePeers; try dsimp only) <;> (repeat' split) <;> simp_all [apply_ite]

@[simp] theorem State_settlePeers_keeps (s : State) :
    (State.settlePeers s).pending = s.pending ∧ (State.settlePeers s).ident = s.ident := by
  unfold State.settlePeers
  try dsimp only
  (repeat' split) <;> simp_all [apply_ite]

@[simp] theorem State_startOp_keeps (s : State) (o : PeerOp) (l : List Access) :
    (State.startOp s o l).pending = s.pending ∧ (State.startOp s o l).ident = s.ident := by
  unfold State.startOp
  try dsimp only
  (repeat' split) <;> simp_all [apply_ite]

@[simp] theorem State_serveRd_keeps (s : State) (p : Packet) :
    (State.serveRd s p).pending = s.pending ∧ (State.serveRd s p).ident = s.ident := by
  unfold State.serveRd
  try dsimp only
  (repeat' split) <;> simp_all [apply_ite]

@[simp] theorem State_serveWr_keeps (s : State) (p : Packet) :
    (State.serveWr s p).pending = s.pending ∧ (State.serveWr s p).ident = s.ident := by
  unfold State.serveWr
  try dsimp only
  (repeat' split) <;> simp_all [apply_ite]

@[simp] theorem State_serveAtomic_keeps (s : State) (p : Packet) (w : Nat) (fetch : Bool) :
    (State.serveAtomic s p w fetch).pending = s.pending ∧ (State.serveAtomic s p w fetch).ident = s.ident := by
  unfold State.serveAtomic
  try dsimp only
  (repeat' split) <;> simp_all [apply_ite]

@[simp] theorem State_serveShip_keeps (s : State) (p : Packet) :
    (State.serveShip s p).pending = s.pending ∧ (State.serveShip s p).ident = s.ident := by
  unfold State.serveShip
  try dsimp only
  (repeat' split) <;> simp_all [apply_ite]

@[simp] theorem State_takeRelease_keeps (s : State) (home id round : Nat) :
    ((State.takeRelease s home id round).2).pending = s.pending ∧ ((State.takeRelease s home id round).2).ident = s.ident ∧ ((State.takeRelease s home id round).2).mem = s.mem := by
  unfold State.takeRelease
  try dsimp only
  (repeat' split) <;> simp_all [apply_ite]

@[simp] theorem routeReq_pending (s : State) (r : FabReq) (ended issue : Nat → State) (h : ∀ n, (ended n).pending = s.pending) (h' : ∀ n, (issue n).pending = s.pending) :
    (s.routeReq r ended issue).pending = s.pending := by
  unfold State.routeReq
  (repeat' split) <;> simp_all
@[simp] theorem routeReq_ident (s : State) (r : FabReq) (ended issue : Nat → State) (h : ∀ n, (ended n).ident = s.ident) (h' : ∀ n, (issue n).ident = s.ident) :
    (s.routeReq r ended issue).ident = s.ident := by
  unfold State.routeReq
  (repeat' split) <;> simp_all
@[simp] theorem routeReq_mem (s : State) (r : FabReq) (ended issue : Nat → State) (h : ∀ n, (ended n).mem = s.mem) (h' : ∀ n, (issue n).mem = s.mem) :
    (s.routeReq r ended issue).mem = s.mem := by
  unfold State.routeReq
  (repeat' split) <;> simp_all

@[simp] theorem State_sendOne_keeps (s : State) (user : FabUser) (ptype cls node addr hop : Nat) :
    (State.sendOne s user ptype cls node addr hop).pending = s.pending ∧ (State.sendOne s user ptype cls node addr hop).ident = s.ident ∧ (State.sendOne s user ptype cls node addr hop).mem = s.mem := by
  unfold State.sendOne
  try dsimp only
  (repeat' split) <;> simp_all [apply_ite]

@[simp] theorem State_releaseBarrier_keeps (s : State) (id : Nat) (b : Barrier) :
    (State.releaseBarrier s id b).pending = s.pending ∧ (State.releaseBarrier s id b).ident = s.ident ∧ (State.releaseBarrier s id b).mem = s.mem := by
  unfold State.releaseBarrier
  try dsimp only
  (repeat' split) <;> simp (disch := (intros; (repeat' split) <;> simp_all)) [apply_ite, *]

@[simp] theorem State_serveArrive_keeps (s : State) (p : Packet) :
    (State.serveArrive s p).pending = s.pending ∧ (State.serveArrive s p).ident = s.ident ∧ (State.serveArrive s p).mem = s.mem := by
  unfold State.serveArrive
  try dsimp only
  (repeat' split) <;> simp_all [apply_ite]

@[simp] theorem State_serveRelease_keeps (s : State) (p : Packet) :
    (State.serveRelease s p).pending = s.pending ∧ (State.serveRelease s p).ident = s.ident ∧ (State.serveRelease s p).mem = s.mem := by
  unfold State.serveRelease
  try dsimp only
  (repeat' split) <;> simp_all [apply_ite]

@[simp] theorem State_serveRequest_keeps (s : State) (p : Packet) :
    (State.serveRequest s p).pending = s.pending ∧ (State.serveRequest s p).ident = s.ident := by
  unfold State.serveRequest
  try dsimp only
  (repeat' split) <;> simp_all [apply_ite]

@[simp] theorem State_endLocal_keeps (s : State) (r : FabReq) (st : Nat) :
    (State.endLocal s r st).pending = s.pending ∧ (State.endLocal s r st).ident = s.ident ∧ (State.endLocal s r st).mem = s.mem := by
  unfold State.endLocal
  try dsimp only
  (repeat' split) <;> simp_all [apply_ite]

@[simp] theorem State_pendArrival_keeps (s : State) (r : FabReq) :
    (State.pendArrival s r).pending = s.pending ∧ (State.pendArrival s r).ident = s.ident ∧ (State.pendArrival s r).mem = s.mem := by
  unfold State.pendArrival
  try dsimp only
  (repeat' split) <;> simp_all [apply_ite]

@[simp] theorem State_issue_keeps (s : State) (r : FabReq) (hop : Nat) :
    (State.issue s r hop).pending = s.pending ∧ (State.issue s r hop).ident = s.ident := by
  unfold State.issue
  try dsimp only
  (repeat' split) <;> simp (disch := (intros; (repeat' split) <;> simp_all)) [apply_ite, *]

@[simp] theorem State_fabTakeUp_keeps (s : State) (r : FabReq) :
    (State.fabTakeUp s r).pending = s.pending ∧ (State.fabTakeUp s r).ident = s.ident := by
  unfold State.fabTakeUp
  try dsimp only
  (repeat' split) <;> simp_all [apply_ite]

@[simp] theorem State_fabRequest_keeps (s : State) (r : FabReq) :
    (State.fabRequest s r).pending = s.pending ∧ (State.fabRequest s r).ident = s.ident := by
  unfold State.fabRequest
  try dsimp only
  (repeat' split) <;> simp_all [apply_ite]

@[simp] theorem State_rimRetry_keeps (s : State) :
    (State.rimRetry s).pending = s.pending ∧ (State.rimRetry s).ident = s.ident := by
  unfold State.rimRetry
  try dsimp only
  (repeat' split) <;> simp_all [apply_ite]

@[simp] theorem State_arriveRetry_keeps (s : State) :
    (State.arriveRetry s).pending = s.pending ∧ (State.arriveRetry s).ident = s.ident := by
  unfold State.arriveRetry
  try dsimp only
  (repeat' split) <;> simp_all [apply_ite]

@[simp] theorem State_genRetry_keeps (s : State) (hop : Nat) :
    (State.genRetry s hop).pending = s.pending ∧ (State.genRetry s hop).ident = s.ident := by
  unfold State.genRetry
  try dsimp only
  (repeat' split) <;> simp_all [apply_ite]

@[simp] theorem State_afterTx_keeps (s : State) :
    (State.afterTx s).pending = s.pending ∧ (State.afterTx s).ident = s.ident := by
  unfold State.afterTx
  try dsimp only
  (repeat' split) <;> simp_all [apply_ite]

@[simp] theorem State_portMoved_keeps (s : State) (k : Nat) :
    (State.portMoved s k).pending = s.pending ∧ (State.portMoved s k).ident = s.ident := by
  unfold State.portMoved
  try dsimp only
  (repeat' split) <;> simp_all [apply_ite]

@[simp] theorem State_portOpens_keeps (s : State) (k : Nat) :
    (State.portOpens s k).pending = s.pending ∧ (State.portOpens s k).ident = s.ident := by
  unfold State.portOpens
  try dsimp only
  (repeat' split) <;> simp_all [apply_ite]

@[simp] theorem State_quarantine_keeps (s : State) (k cause : Nat) :
    (State.quarantine s k cause).pending = s.pending ∧ (State.quarantine s k cause).ident = s.ident ∧ (State.quarantine s k cause).mem = s.mem := by
  unfold State.quarantine
  try dsimp only
  (repeat' split) <;> simp_all [apply_ite]

@[simp] theorem State_judge_keeps (s : State) (k : Nat) :
    (State.judge s k).pending = s.pending ∧ (State.judge s k).ident = s.ident := by
  unfold State.judge
  try dsimp only
  (repeat' split) <;> simp_all [apply_ite]

@[simp] theorem State_recharter_keeps (s : State) (k : Nat) :
    (State.recharter s k).pending = s.pending ∧ (State.recharter s k).ident = s.ident ∧ (State.recharter s k).mem = s.mem := by
  unfold State.recharter
  try dsimp only
  (repeat' split) <;> simp_all [apply_ite]

/-! ## The canonical form of the tiers stays -/

@[simp] theorem State_takeAnswers_memOk (s : State) (h : MemOk s.mem) :
    MemOk (State.takeAnswers s).mem := by
  unfold State.takeAnswers
  try dsimp only
  (repeat' split) <;> simp_all [MemOk]

@[simp] theorem State_runLines_memOk (s : State) (l : List Access) (h : MemOk s.mem) :
    MemOk (State.runLines s l).mem := by
  unfold State.runLines
  try dsimp only
  (repeat' split) <;> simp_all [MemOk]

@[simp] theorem State_servePeers_memOk (s : State) (z0 : Nat) (h : MemOk s.mem) :
    MemOk (State.servePeers s z0).mem := by
  induction z0 generalizing s with
  | zero => exact h
  | succ n ih =>
    have h1 := State_takeAnswers_memOk s h
    unfold State.servePeers
    extract_lets t
    have h2 : MemOk t.mem := h1
    clear_value t
    split
    · exact ih _ (State_runLines_memOk _ _ h2)
    · exact h2

@[simp] theorem State_settlePeers_memOk (s : State) (h : MemOk s.mem) :
    MemOk (State.settlePeers s).mem := by
  unfold State.settlePeers
  try dsimp only
  (repeat' split) <;> simp_all [MemOk]

@[simp] theorem State_startOp_memOk (s : State) (o : PeerOp) (l : List Access) (h : MemOk s.mem) :
    MemOk (State.startOp s o l).mem := by
  unfold State.startOp
  try dsimp only
  (repeat' split) <;> simp_all [MemOk]

@[simp] theorem State_serveRd_memOk (s : State) (p : Packet) (h : MemOk s.mem) :
    MemOk (State.serveRd s p).mem := by
  unfold State.serveRd
  try dsimp only
  (repeat' split) <;> simp_all [MemOk]

@[simp] theorem State_serveWr_memOk (s : State) (p : Packet) (h : MemOk s.mem) :
    MemOk (State.serveWr s p).mem := by
  unfold State.serveWr
  try dsimp only
  (repeat' split) <;> simp_all [MemOk]

@[simp] theorem State_serveAtomic_memOk (s : State) (p : Packet) (w : Nat) (fetch : Bool) (h : MemOk s.mem) :
    MemOk (State.serveAtomic s p w fetch).mem := by
  unfold State.serveAtomic
  try dsimp only
  (repeat' split) <;> simp_all [MemOk]

@[simp] theorem State_serveShip_memOk (s : State) (p : Packet) (h : MemOk s.mem) :
    MemOk (State.serveShip s p).mem := by
  unfold State.serveShip
  try dsimp only
  (repeat' split) <;> simp_all [MemOk]

@[simp] theorem routeReq_memOk (s : State) (r : FabReq) (ended issue : Nat → State) (h : MemOk s.mem) (he : ∀ n, MemOk (ended n).mem)
    (hi : ∀ n, MemOk (issue n).mem) : MemOk (s.routeReq r ended issue).mem := by
  unfold State.routeReq
  (repeat' split) <;> first | exact h | exact he _ | exact hi _

@[simp] theorem State_serveRequest_memOk (s : State) (p : Packet) (h : MemOk s.mem) :
    MemOk (State.serveRequest s p).mem := by
  unfold State.serveRequest
  try dsimp only
  (repeat' split) <;> simp_all [MemOk]

@[simp] theorem State_issue_memOk (s : State) (r : FabReq) (hop : Nat) (h : MemOk s.mem) :
    MemOk (State.issue s r hop).mem := by
  unfold State.issue
  try dsimp only
  (repeat' split) <;> simp (disch := (intros; (repeat' split) <;> simp_all [MemOk])) [MemOk, *]

@[simp] theorem State_fabTakeUp_memOk (s : State) (r : FabReq) (h : MemOk s.mem) :
    MemOk (State.fabTakeUp s r).mem := by
  unfold State.fabTakeUp
  dsimp only
  (repeat' split) <;> first | (simp_all [MemOk]; done) | exact routeReq_memOk _ _ _ _ h (fun n => by simp_all [MemOk]) (fun n => by simp_all [MemOk])


@[simp] theorem State_fabRequest_memOk (s : State) (r : FabReq) (h : MemOk s.mem) :
    MemOk (State.fabRequest s r).mem := by
  unfold State.fabRequest
  try dsimp only
  (repeat' split) <;> simp_all [MemOk]

@[simp] theorem State_rimRetry_memOk (s : State) (h : MemOk s.mem) :
    MemOk (State.rimRetry s).mem := by
  unfold State.rimRetry
  try dsimp only
  (repeat' split) <;> simp_all [MemOk]

@[simp] theorem State_arriveRetry_memOk (s : State) (h : MemOk s.mem) :
    MemOk (State.arriveRetry s).mem := by
  unfold State.arriveRetry
  try dsimp only
  (repeat' split) <;> simp_all [MemOk]

@[simp] theorem State_genRetry_memOk (s : State) (hop : Nat) (h : MemOk s.mem) :
    MemOk (State.genRetry s hop).mem := by
  unfold State.genRetry
  try dsimp only
  (repeat' split) <;> simp (disch := (intros; (repeat' split) <;> simp_all [MemOk])) [MemOk, *]

@[simp] theorem State_afterTx_memOk (s : State) (h : MemOk s.mem) :
    MemOk (State.afterTx s).mem := by
  unfold State.afterTx
  try dsimp only
  (repeat' split) <;> simp_all [MemOk]

@[simp] theorem State_portMoved_memOk (s : State) (k : Nat) (h : MemOk s.mem) :
    MemOk (State.portMoved s k).mem := by
  unfold State.portMoved
  try dsimp only
  (repeat' split) <;> simp_all [MemOk]

@[simp] theorem State_portOpens_memOk (s : State) (k : Nat) (h : MemOk s.mem) :
    MemOk (State.portOpens s k).mem := by
  unfold State.portOpens
  try dsimp only
  (repeat' split) <;> simp_all [MemOk]

@[simp] theorem State_judge_memOk (s : State) (k : Nat) (h : MemOk s.mem) :
    MemOk (State.judge s k).mem := by
  unfold State.judge
  try dsimp only
  (repeat' split) <;> simp_all [MemOk]

end Sys2Proof.Machine
end

