-- ==== Sys2Proof/Laws/KeepPowerOps.lean ====
section
/-! SUPPORT. What no operation or command of Machine/PowerOps.lean touches: the queue, who owns the device, and (`_keeps`, where it writes no tier) the memory; where it may write one, `_memOk` says the canonical form stays. -/

namespace Sys2Proof.Machine

@[simp] theorem State_follow_keeps (s : State) :
    (State.follow s).pending = s.pending ∧ (State.follow s).ident = s.ident ∧ (State.follow s).mem = s.mem := by
  unfold State.follow
  try dsimp only
  (repeat' split) <;> simp_all [apply_ite]

@[simp] theorem State_sendDip_keeps (s : State) (e : DipReport) :
    (State.sendDip s e).pending = s.pending ∧ (State.sendDip s e).ident = s.ident ∧ (State.sendDip s e).mem = s.mem := by
  unfold State.sendDip
  try dsimp only
  (repeat' split) <;> simp_all [apply_ite]

@[simp] theorem State_endEpisode_keeps (s : State) (e : DipReport) (began : Nat) :
    (State.endEpisode s e began).pending = s.pending ∧ (State.endEpisode s e began).ident = s.ident ∧ (State.endEpisode s e began).mem = s.mem := by
  unfold State.endEpisode
  try dsimp only
  (repeat' split) <;> simp_all [apply_ite]

@[simp] theorem State_flushDip_keeps (s : State) :
    (State.flushDip s).pending = s.pending ∧ (State.flushDip s).ident = s.ident ∧ (State.flushDip s).mem = s.mem := by
  unfold State.flushDip
  try dsimp only
  (repeat' split) <;> simp_all [apply_ite]

@[simp] theorem State_setThermal_keeps (s : State) (c : Nat) (src : Nat × Nat × Int) :
    (State.setThermal s c src).pending = s.pending ∧ (State.setThermal s c src).ident = s.ident ∧ (State.setThermal s c src).mem = s.mem := by
  unfold State.setThermal
  try dsimp only
  (repeat' split) <;> simp_all [apply_ite]

@[simp] theorem State_lowerThermal_keeps (s : State) (c : Nat) (src : Nat × Nat × Int) :
    (State.lowerThermal s c src).pending = s.pending ∧ (State.lowerThermal s c src).ident = s.ident ∧ (State.lowerThermal s c src).mem = s.mem := by
  unfold State.lowerThermal
  try dsimp only
  (repeat' split) <;> simp_all [apply_ite]

@[simp] theorem State_stopCore_keeps (s : State) (body : Bytes) :
    (State.stopCore s body).pending = s.pending ∧ (State.stopCore s body).ident = s.ident ∧ (State.stopCore s body).mem = s.mem := by
  unfold State.stopCore
  try dsimp only
  (repeat' split) <;> simp_all [apply_ite]

@[simp] theorem State_vintageRecord_keeps (s : State) (sub epoch : Nat) :
    (State.vintageRecord s sub epoch).pending = s.pending ∧ (State.vintageRecord s sub epoch).ident = s.ident ∧ (State.vintageRecord s sub epoch).mem = s.mem := by
  unfold State.vintageRecord
  try dsimp only
  (repeat' split) <;> simp_all [apply_ite]

@[simp] theorem State_recordPlan_keeps (s : State) :
    (State.recordPlan s).pending = s.pending ∧ (State.recordPlan s).ident = s.ident ∧ (State.recordPlan s).mem = s.mem := by
  unfold State.recordPlan
  try dsimp only
  (repeat' split) <;> simp_all [apply_ite]

@[simp] theorem State_planVintage_keeps (s : State) :
    (State.planVintage s).pending = s.pending ∧ (State.planVintage s).ident = s.ident ∧ (State.planVintage s).mem = s.mem := by
  unfold State.planVintage
  try dsimp only
  (repeat' split) <;> simp_all [apply_ite]

@[simp] theorem State_applyVintage_keeps (s : State) :
    (State.applyVintage s).pending = s.pending ∧ (State.applyVintage s).ident = s.ident ∧ (State.applyVintage s).mem = s.mem := by
  unfold State.applyVintage
  try dsimp only
  (repeat' split) <;> simp_all [apply_ite]

end Sys2Proof.Machine
end

