-- ==== Sys2Proof/Laws/KeepFirmware.lean ====
section
/-! SUPPORT. What no operation or command of Machine/Firmware.lean touches: the queue, who owns the device, and (`_keeps`, where it writes no tier) the memory; where it may write one, `_memOk` says the canonical form stays. -/

namespace Sys2Proof.Machine

@[simp] theorem State_writeSel_keeps (s : State) (x : Selector) :
    (State.writeSel s x).pending = s.pending ∧ (State.writeSel s x).ident = s.ident ∧ (State.writeSel s x).mem = s.mem := ⟨rfl, rfl, rfl⟩

@[simp] theorem State_showFw_keeps (s : State) :
    (State.showFw s).pending = s.pending ∧ (State.showFw s).ident = s.ident ∧ (State.showFw s).mem = s.mem := ⟨rfl, rfl, rfl⟩

@[simp] theorem State_runBank_keeps (s : State) (b : Nat) (fallback : Bool) :
    (State.runBank s b fallback).pending = s.pending ∧ (State.runBank s b fallback).ident.title = s.ident.title ∧ (State.runBank s b fallback).mem = s.mem := by
  simp [State.runBank, Ident.title]


@[simp] theorem State_markBad_keeps (s : State) (b : Nat) :
    (State.markBad s b).pending = s.pending ∧ (State.markBad s b).ident = s.ident ∧ (State.markBad s b).mem = s.mem := by
  unfold State.markBad
  try dsimp only
  (repeat' split) <;> simp_all [apply_ite]

@[simp] theorem State_firstBank_keeps (s : State) :
    ((State.firstBank s).2.2).pending = s.pending ∧ ((State.firstBank s).2.2).ident = s.ident ∧ ((State.firstBank s).2.2).mem = s.mem := by
  unfold State.firstBank
  try dsimp only
  (repeat' split) <;> simp_all [apply_ite]

@[simp] theorem State_chooseBank_keeps (s : State) :
    ((State.chooseBank s).2).pending = s.pending ∧ ((State.chooseBank s).2).ident.title = s.ident.title ∧ ((State.chooseBank s).2).mem = s.mem := by
  unfold State.chooseBank
  try dsimp only
  (repeat' split) <;> simp_all [apply_ite]

@[simp] theorem doFwBankWrite_keeps (c : Cmd) (s : State) :
    (doFwBankWrite c s).pending = s.pending ∧ (doFwBankWrite c s).ident = s.ident ∧ (doFwBankWrite c s).mem = s.mem := by
  unfold doFwBankWrite
  try dsimp only
  (repeat' split) <;> simp_all [apply_ite]

theorem execFwBankWrite_keeps (c : Cmd) (s : State) :
    ∀ nx, execFwBankWrite c s = .next nx → (nx).pending = s.pending ∧ (nx).ident = s.ident ∧ (nx).mem = s.mem := by
  intro nx h
  cases h
  simp

@[simp] theorem State_bankWritten_keeps (s : State) (r : Running) (b : Nat) :
    (State.bankWritten s r b).pending = s.pending ∧ (State.bankWritten s r b).ident = s.ident ∧ (State.bankWritten s r b).mem = s.mem := by
  unfold State.bankWritten
  try dsimp only
  (repeat' split) <;> simp_all [apply_ite]

theorem execBankWriteCompletion_keeps (s : State) :
    ∀ nx, execBankWriteCompletion s = .next nx → (nx).pending = s.pending ∧ (nx).ident = s.ident ∧ (nx).mem = s.mem := by
  intro nx h
  unfold execBankWriteCompletion at h
  try dsimp only at h
  (repeat' split at h) <;> (try cases h) <;> simp_all [apply_ite]

@[simp] theorem State_selectBank_keeps (s : State) (b : Nat) :
    (State.selectBank s b).pending = s.pending ∧ (State.selectBank s b).ident = s.ident ∧ (State.selectBank s b).mem = s.mem := by
  unfold State.selectBank
  try dsimp only
  (repeat' split) <;> simp_all [apply_ite]

@[simp] theorem doFwBankSelect_keeps (c : Cmd) (s : State) :
    (doFwBankSelect c s).pending = s.pending ∧ (doFwBankSelect c s).ident = s.ident ∧ (doFwBankSelect c s).mem = s.mem := by
  unfold doFwBankSelect
  try dsimp only
  (repeat' split) <;> simp_all [apply_ite]

theorem execFwBankSelect_keeps (c : Cmd) (s : State) :
    ∀ nx, execFwBankSelect c s = .next nx → (nx).pending = s.pending ∧ (nx).ident = s.ident ∧ (nx).mem = s.mem := by
  intro nx h
  cases h
  simp

end Sys2Proof.Machine
end

