-- ==== Sys2Proof/Laws/KeepMailbox.lean ====
section
/-! SUPPORT. What no operation or command of Machine/Mailbox.lean touches: the queue, who owns the device, and (`_keeps`, where it writes no tier) the memory; where it may write one, `_memOk` says the canonical form stays. -/

namespace Sys2Proof.Machine

@[simp] theorem State_dropDoorbell_keeps (s : State) :
    (State.dropDoorbell s).pending = s.pending ∧ (State.dropDoorbell s).ident = s.ident ∧ (State.dropDoorbell s).mem = s.mem := ⟨rfl, rfl, rfl⟩

@[simp] theorem State_ringCommand_keeps (s : State) (n v value : Nat) :
    (State.ringCommand s n v value).pending = s.pending ∧ (State.ringCommand s n v value).ident = s.ident ∧ (State.ringCommand s n v value).mem = s.mem := by
  unfold State.ringCommand
  try dsimp only
  (repeat' split) <;> simp_all [apply_ite]

@[simp] theorem State_ringCompletion_keeps (s : State) (n v value : Nat) :
    (State.ringCompletion s n v value).pending = s.pending ∧ (State.ringCompletion s n v value).ident = s.ident ∧ (State.ringCompletion s n v value).mem = s.mem := by
  unfold State.ringCompletion
  try dsimp only
  (repeat' split) <;> simp_all [apply_ite]

@[simp] theorem State_commandDoorbell_keeps (s : State) (n value : Nat) :
    (State.commandDoorbell s n value).pending = s.pending ∧ (State.commandDoorbell s n value).ident = s.ident ∧ (State.commandDoorbell s n value).mem = s.mem := by
  unfold State.commandDoorbell
  try dsimp only
  (repeat' split) <;> simp_all [apply_ite]

@[simp] theorem State_completionDoorbell_keeps (s : State) (n value : Nat) :
    (State.completionDoorbell s n value).pending = s.pending ∧ (State.completionDoorbell s n value).ident = s.ident ∧ (State.completionDoorbell s n value).mem = s.mem := by
  unfold State.completionDoorbell
  try dsimp only
  (repeat' split) <;> simp_all [apply_ite]

@[simp] theorem State_heldDoorbells_keeps (s : State) :
    (State.heldDoorbells s).pending = s.pending ∧ (State.heldDoorbells s).ident = s.ident ∧ (State.heldDoorbells s).mem = s.mem := by
  unfold State.heldDoorbells
  try dsimp only
  (repeat' split) <;> simp_all [apply_ite]

theorem execCommandDoorbell_keeps (pair : Nat) (value : BitVec 32) (s : State) :
    ∀ nx, execCommandDoorbell pair value s = .next nx → (nx).pending = s.pending ∧ (nx).ident = s.ident ∧ (nx).mem = s.mem := by
  intro nx h
  unfold execCommandDoorbell at h
  try dsimp only at h
  (repeat' split at h) <;> (try cases h) <;> simp_all [apply_ite]

theorem execCompletionDoorbell_keeps (pair : Nat) (value : BitVec 32) (s : State) :
    ∀ nx, execCompletionDoorbell pair value s = .next nx → (nx).pending = s.pending ∧ (nx).ident = s.ident ∧ (nx).mem = s.mem := by
  intro nx h
  unfold execCompletionDoorbell at h
  try dsimp only at h
  (repeat' split at h) <;> (try cases h) <;> simp_all [apply_ite]

@[simp] theorem State_fetched_keeps (s : State) (n : Nat) (d : Bytes) :
    (State.fetched s n d).pending = s.pending ∧ (State.fetched s n d).ident = s.ident ∧ (State.fetched s n d).mem = s.mem := by
  unfold State.fetched
  try dsimp only
  (repeat' split) <;> simp_all [apply_ite]

@[simp] theorem State_stopPair_keeps (s : State) (n : Nat) :
    (State.stopPair s n).pending = s.pending ∧ (State.stopPair s n).ident = s.ident ∧ (State.stopPair s n).mem = s.mem := by
  unfold State.stopPair
  try dsimp only
  (repeat' split) <;> simp_all [apply_ite]

theorem execCommandFetch_keeps (pair : Nat) (r : HostRead) (s : State) :
    ∀ nx, execCommandFetch pair r s = .next nx → (nx).pending = s.pending ∧ (nx).ident = s.ident ∧ (nx).mem = s.mem := by
  intro nx h
  unfold execCommandFetch at h
  try dsimp only at h
  (repeat' split at h) <;> (try cases h) <;> simp_all [apply_ite]

@[simp] theorem State_startFetched_keeps (s : State) (n : Nat) (f : Fetched) (rest : List Fetched) :
    (State.startFetched s n f rest).pending = s.pending ∧ (State.startFetched s n f rest).ident = s.ident ∧ (State.startFetched s n f rest).mem = s.mem := by
  unfold State.startFetched
  try dsimp only
  (repeat' split) <;> simp_all [apply_ite]

theorem execCommandStart_keeps (s : State) :
    ∀ nx, execCommandStart s = .next nx → (nx).pending = s.pending ∧ (nx).ident = s.ident ∧ (nx).mem = s.mem := by
  intro nx h
  unfold execCommandStart at h
  try dsimp only at h
  (repeat' split at h) <;> (try cases h) <;> simp_all [apply_ite]

theorem execClassPromotion_keeps (pair : Nat) (s : State) :
    ∀ nx, execClassPromotion pair s = .next nx → (nx).pending = s.pending ∧ (nx).ident = s.ident ∧ (nx).mem = s.mem := by
  intro nx h
  unfold execClassPromotion at h
  try dsimp only at h
  (repeat' split at h) <;> (try cases h) <;> simp_all [apply_ite]

theorem execVectorCoalesceTimer_keeps (pair : Nat) (s : State) :
    ∀ nx, execVectorCoalesceTimer pair s = .next nx → (nx).pending = s.pending ∧ (nx).ident = s.ident ∧ (nx).mem = s.mem := by
  intro nx h
  unfold execVectorCoalesceTimer at h
  try dsimp only at h
  (repeat' split at h) <;> (try cases h) <;> simp_all [apply_ite]

@[simp] theorem State_noticesLost_keeps (s : State) :
    (State.noticesLost s).pending = s.pending ∧ (State.noticesLost s).ident = s.ident ∧ (State.noticesLost s).mem = s.mem := by
  unfold State.noticesLost
  try dsimp only
  (repeat' split) <;> simp_all [apply_ite]

theorem execNoticeHeldDeliver_keeps (s : State) :
    ∀ nx, execNoticeHeldDeliver s = .next nx → (nx).pending = s.pending ∧ (nx).ident = s.ident ∧ (nx).mem = s.mem := by
  intro nx h
  unfold execNoticeHeldDeliver at h
  try dsimp only at h
  (repeat' split at h) <;> (try cases h) <;> simp_all [apply_ite]

@[simp] theorem doDevInfo_keeps (c : Cmd) (s : State) :
    (doDevInfo c s).pending = s.pending ∧ (doDevInfo c s).ident = s.ident ∧ (doDevInfo c s).mem = s.mem := by
  unfold doDevInfo
  try dsimp only
  (repeat' split) <;> simp_all [apply_ite]

theorem execDevInfo_keeps (c : Cmd) (s : State) :
    ∀ nx, execDevInfo c s = .next nx → (nx).pending = s.pending ∧ (nx).ident = s.ident ∧ (nx).mem = s.mem := by
  intro nx h
  cases h
  simp

@[simp] theorem doRingCreate_keeps (c : Cmd) (s : State) :
    (doRingCreate c s).pending = s.pending ∧ (doRingCreate c s).ident = s.ident ∧ (doRingCreate c s).mem = s.mem := by
  unfold doRingCreate
  try dsimp only
  (repeat' split) <;> simp_all [apply_ite]

theorem execRingCreate_keeps (c : Cmd) (s : State) :
    ∀ nx, execRingCreate c s = .next nx → (nx).pending = s.pending ∧ (nx).ident = s.ident ∧ (nx).mem = s.mem := by
  intro nx h
  cases h
  simp

@[simp] theorem doRingDestroy_keeps (c : Cmd) (s : State) :
    (doRingDestroy c s).pending = s.pending ∧ (doRingDestroy c s).ident = s.ident ∧ (doRingDestroy c s).mem = s.mem := by
  unfold doRingDestroy
  try dsimp only
  (repeat' split) <;> simp_all [apply_ite]

theorem execRingDestroy_keeps (c : Cmd) (s : State) :
    ∀ nx, execRingDestroy c s = .next nx → (nx).pending = s.pending ∧ (nx).ident = s.ident ∧ (nx).mem = s.mem := by
  intro nx h
  cases h
  simp

@[simp] theorem doNoticeMask_keeps (c : Cmd) (s : State) :
    (doNoticeMask c s).pending = s.pending ∧ (doNoticeMask c s).ident = s.ident ∧ (doNoticeMask c s).mem = s.mem := by
  unfold doNoticeMask
  try dsimp only
  (repeat' split) <;> simp_all [apply_ite]

theorem execNoticeMask_keeps (c : Cmd) (s : State) :
    ∀ nx, execNoticeMask c s = .next nx → (nx).pending = s.pending ∧ (nx).ident = s.ident ∧ (nx).mem = s.mem := by
  intro nx h
  cases h
  simp

@[simp] theorem State_clearStats_keeps (s : State) (g pn : Nat) :
    (State.clearStats s g pn).pending = s.pending ∧ (State.clearStats s g pn).ident = s.ident := by
  unfold State.clearStats
  try dsimp only
  (repeat' split) <;> simp_all [apply_ite]

@[simp] theorem doStatsRead_keeps (c : Cmd) (s : State) :
    (doStatsRead c s).pending = s.pending ∧ (doStatsRead c s).ident = s.ident := by
  unfold doStatsRead
  try dsimp only
  (repeat' split) <;> simp_all [apply_ite]

theorem execStatsRead_keeps (c : Cmd) (s : State) :
    ∀ nx, execStatsRead c s = .next nx → (nx).pending = s.pending ∧ (nx).ident = s.ident := by
  intro nx h
  cases h
  simp

/-! ## The canonical form of the tiers stays -/

@[simp] theorem State_clearStats_memOk (s : State) (g pn : Nat) (h : MemOk s.mem) :
    MemOk (State.clearStats s g pn).mem := by
  unfold State.clearStats
  try dsimp only
  (repeat' split) <;> simp_all [MemOk]

@[simp] theorem doStatsRead_memOk (c : Cmd) (s : State) (h : MemOk s.mem) :
    MemOk (doStatsRead c s).mem := by
  unfold doStatsRead
  try dsimp only
  (repeat' split) <;> simp_all [MemOk]

theorem execStatsRead_memOk (c : Cmd) (s : State) (h : MemOk s.mem) :
    ∀ nx, execStatsRead c s = .next nx → MemOk nx.mem := by
  intro nx hx
  unfold execStatsRead at hx
  try dsimp only at hx
  (repeat' split at hx) <;> (try cases hx) <;> simp (disch := (intros; (repeat' split) <;> simp_all [MemOk])) [MemOk, *]

end Sys2Proof.Machine
end

