-- ==== Sys2Proof/Laws/KeepBoundary.lean ====
section
/-! SUPPORT. What no operation or command of Machine/Boundary.lean touches: the queue, who owns the device, and (`_keeps`, where it writes no tier) the memory; where it may write one, `_memOk` says the canonical form stays. -/

namespace Sys2Proof.Machine

@[simp] theorem State_seMessage_keeps (s : State) (user : FabUser) (cls node granules : Nat) (m : SeMsg) :
    (State.seMessage s user cls node granules m).pending = s.pending ∧ (State.seMessage s user cls node granules m).ident = s.ident := by
  unfold State.seMessage
  try dsimp only
  (repeat' split) <;> simp_all [apply_ite]

@[simp] theorem State_modHandoff_keeps (s : State) (ridx : Nat) (f : Handoff → Handoff) :
    (State.modHandoff s ridx f).pending = s.pending ∧ (State.modHandoff s ridx f).ident = s.ident ∧ (State.modHandoff s ridx f).mem = s.mem := ⟨rfl, rfl, rfl⟩

@[simp] theorem State_sendOpen_keeps (s : State) (ridx : Nat) (alt : Bool) :
    ((State.sendOpen s ridx alt).2).pending = s.pending ∧ ((State.sendOpen s ridx alt).2).ident = s.ident := by
  unfold State.sendOpen
  try dsimp only
  (repeat' split) <;> simp_all [apply_ite]

@[simp] theorem State_sendAbort_keeps (s : State) (ridx : Nat) :
    (State.sendAbort s ridx).pending = s.pending ∧ (State.sendAbort s ridx).ident = s.ident := by
  unfold State.sendAbort
  try dsimp only
  (repeat' split) <;> simp_all [apply_ite]

@[simp] theorem State_tryAlternate_keeps (s : State) (ridx st : Nat) :
    (State.tryAlternate s ridx st).pending = s.pending ∧ (State.tryAlternate s ridx st).ident = s.ident := by
  unfold State.tryAlternate
  try dsimp only
  (repeat' split) <;> simp_all [apply_ite]

@[simp] theorem State_handoffFailed_keeps (s : State) (ridx : Nat) :
    (State.handoffFailed s ridx).pending = s.pending ∧ (State.handoffFailed s ridx).ident = s.ident := by
  unfold State.handoffFailed
  try dsimp only
  (repeat' split) <;> simp_all [apply_ite]

@[simp] theorem State_servingTxEnded_keeps (s : State) (ridx st : Nat) :
    (State.servingTxEnded s ridx st).pending = s.pending ∧ (State.servingTxEnded s ridx st).ident = s.ident := by
  unfold State.servingTxEnded
  try dsimp only
  (repeat' split) <;> simp_all [apply_ite]

@[simp] theorem State_startHandoff_keeps (s : State) (ridx : Nat) :
    (State.startHandoff s ridx).pending = s.pending ∧ (State.startHandoff s ridx).ident = s.ident := by
  unfold State.startHandoff
  try dsimp only
  (repeat' split) <;> simp_all [apply_ite]

@[simp] theorem State_startHandoffs_keeps (s : State) :
    (State.startHandoffs s).pending = s.pending ∧ (State.startHandoffs s).ident = s.ident := by
  unfold State.startHandoffs
  try dsimp only
  (repeat' split) <;> simp_all [apply_ite]

@[simp] theorem State_sendCommit_keeps (s : State) (ridx : Nat) (r : Req) (node : Nat) :
    (State.sendCommit s ridx r node).pending = s.pending ∧ (State.sendCommit s ridx r node).ident = s.ident := by
  unfold State.sendCommit
  try dsimp only
  (repeat' split) <;> simp_all [apply_ite]

@[simp] theorem State_shipPage_keeps (s : State) (ridx : Nat) :
    (State.shipPage s ridx).pending = s.pending ∧ (State.shipPage s ridx).ident = s.ident := by
  unfold State.shipPage
  try dsimp only
  (repeat' split) <;> simp_all [apply_ite]

@[simp] theorem State_shipMore_keeps (s : State) (ridx : Nat) (z0 : Nat) :
    (State.shipMore s ridx z0).pending = s.pending ∧ (State.shipMore s ridx z0).ident = s.ident := by
  induction z0 generalizing s ridx <;>
  (unfold State.shipMore; try dsimp only) <;> (repeat' split) <;> simp_all [apply_ite]

@[simp] theorem State_orderShards_keeps (s : State) (ridx : Nat) :
    (State.orderShards s ridx).pending = s.pending ∧ (State.orderShards s ridx).ident = s.ident := by
  unfold State.orderShards
  try dsimp only
  (repeat' split) <;> simp_all [apply_ite]

@[simp] theorem State_shardDone_keeps (s : State) (d : FabDone) :
    (State.shardDone s d).pending = s.pending ∧ (State.shardDone s d).ident = s.ident := by
  unfold State.shardDone
  try dsimp only
  (repeat' split) <;> simp_all [apply_ite]

@[simp] theorem State_settleFrom_keeps (s : State) (n : Nat) :
    (State.settleFrom s n).pending = s.pending ∧ (State.settleFrom s n).ident = s.ident := by
  unfold State.settleFrom
  try dsimp only
  (repeat' split) <;> simp_all [apply_ite]

@[simp] theorem State_insertBlocks_keeps (s : State) (ridx old next : Nat) :
    (State.insertBlocks s ridx old next).pending = s.pending ∧ (State.insertBlocks s ridx old next).ident = s.ident ∧ (State.insertBlocks s ridx old next).mem = s.mem := by
  unfold State.insertBlocks
  try dsimp only
  (repeat' split) <;> simp_all [apply_ite]

@[simp] theorem State_applyPrefill_keeps (s : State) (m : Manifest) (b : Placed) :
    (State.applyPrefill s m b).pending = s.pending ∧ (State.applyPrefill s m b).ident = s.ident ∧ (State.applyPrefill s m b).mem = s.mem := by
  unfold State.applyPrefill
  try dsimp only
  (repeat' split) <;> simp_all [apply_ite]

@[simp] theorem State_writeTokens_keeps (s : State) (r : Req) (ridx : Nat) (z0 : List Nat) (z1 : Nat) :
    (State.writeTokens s r ridx z0 z1).pending = s.pending ∧ (State.writeTokens s r ridx z0 z1).ident = s.ident ∧ (State.writeTokens s r ridx z0 z1).mem = s.mem := by
  induction z0 generalizing s z1 with
  | nil => simp [State.writeTokens]
  | cons a l ih => simp [State.writeTokens, ih]


@[simp] theorem State_advanceDecode_keeps (s : State) (p : Partition) (r : Req) (ridx tok k newt : Nat) (ended : Bool) :
    (State.advanceDecode s p r ridx tok k newt ended).pending = s.pending ∧ (State.advanceDecode s p r ridx tok k newt ended).ident = s.ident := by
  unfold State.advanceDecode
  try dsimp only
  (repeat' split) <;> simp_all [apply_ite]

@[simp] theorem State_applyDecode_keeps (s : State) (p : Partition) (stepn : Nat) (i : Nat) (b : Placed) :
    (State.applyDecode s p stepn i b).pending = s.pending ∧ (State.applyDecode s p stepn i b).ident = s.ident := by
  have hr := State_readBytes_keeps s .serving (0x1E00000 + (bankAddr p.man stepn + 8 * i)) 8
  unfold State.applyDecode
  dsimp only
  split
  · simp
  · split
    · simp [hr]
    · split
      · simp [hr]
      · split <;> simp [hr]


@[simp] theorem State_applyStep_keeps (s : State) (pn : Nat) (st : Step) :
    (State.applyStep s pn st).pending = s.pending ∧ (State.applyStep s pn st).ident = s.ident := by
  unfold State.applyStep
  try dsimp only
  (repeat' split) <;> simp_all [apply_ite]

@[simp] theorem State_takeDoom_keeps (s : State) (pn : Nat) :
    (State.takeDoom s pn).pending = s.pending ∧ (State.takeDoom s pn).ident = s.ident := by
  unfold State.takeDoom
  try dsimp only
  (repeat' split) <;> simp (disch := (intros; (repeat' split) <;> simp_all)) [apply_ite, *]

@[simp] theorem State_pauseReq_keeps (s : State) (ridx st : Nat) (host : Bool) :
    (State.pauseReq s ridx st host).pending = s.pending ∧ (State.pauseReq s ridx st host).ident = s.ident ∧ (State.pauseReq s ridx st host).mem = s.mem := by
  unfold State.pauseReq
  try dsimp only
  (repeat' split) <;> simp_all [apply_ite]

@[simp] theorem State_resumeReq_keeps (s : State) (ridx : Nat) :
    (State.resumeReq s ridx).pending = s.pending ∧ (State.resumeReq s ridx).ident = s.ident ∧ (State.resumeReq s ridx).mem = s.mem := by
  unfold State.resumeReq
  try dsimp only
  (repeat' split) <;> simp_all [apply_ite]

@[simp] theorem State_applyPending_keeps (s : State) (ridx : Nat) :
    (State.applyPending s ridx).pending = s.pending ∧ (State.applyPending s ridx).ident = s.ident ∧ (State.applyPending s ridx).mem = s.mem := by
  unfold State.applyPending
  try dsimp only
  (repeat' split) <;> simp_all [apply_ite]

@[simp] theorem State_checkDeadline_keeps (s : State) (pn ridx : Nat) :
    (State.checkDeadline s pn ridx).pending = s.pending ∧ (State.checkDeadline s pn ridx).ident = s.ident ∧ (State.checkDeadline s pn ridx).mem = s.mem := by
  unfold State.checkDeadline
  try dsimp only
  (repeat' split) <;> simp_all [apply_ite]

@[simp] theorem State_probeReq_keeps (s : State) (ridx : Nat) :
    (State.probeReq s ridx).pending = s.pending ∧ (State.probeReq s ridx).ident = s.ident ∧ (State.probeReq s ridx).mem = s.mem := by
  unfold State.probeReq
  try dsimp only
  (repeat' split) <;> simp_all [apply_ite]

@[simp] theorem State_skipPrefill_keeps (s : State) (ridx role : Nat) :
    (State.skipPrefill s ridx role).pending = s.pending ∧ (State.skipPrefill s ridx role).ident = s.ident := by
  unfold State.skipPrefill
  try dsimp only
  (repeat' split) <;> simp_all [apply_ite]

@[simp] theorem State_probeAgain_keeps (s : State) (ridx : Nat) :
    (State.probeAgain s ridx).pending = s.pending ∧ (State.probeAgain s ridx).ident = s.ident ∧ (State.probeAgain s ridx).mem = s.mem := by
  unfold State.probeAgain
  try dsimp only
  (repeat' split) <;> simp_all [apply_ite]

@[simp] theorem State_evictPrefix_keeps (s : State) (pn slot pool need : Nat) (z0 : Nat) :
    (State.evictPrefix s pn slot pool need z0).pending = s.pending ∧ (State.evictPrefix s pn slot pool need z0).ident = s.ident ∧ (State.evictPrefix s pn slot pool need z0).mem = s.mem := by
  induction z0 generalizing s pn slot pool need <;>
  (unfold State.evictPrefix; try dsimp only) <;> (repeat' split) <;> simp_all [apply_ite]

@[simp] theorem State_placeReq_keeps (s : State) (pn : Nat) (p : Partition) (e : Nat × Req) (b : Placed) :
    ((State.placeReq s pn p e b).2.2).pending = s.pending ∧ ((State.placeReq s pn p e b).2.2).ident = s.ident ∧ ((State.placeReq s pn p e b).2.2).mem = s.mem := by
  unfold State.placeReq
  try dsimp only
  (repeat' split) <;> simp_all [apply_ite]

@[simp] theorem State_takeBatch_keeps (s : State) (pn : Nat) (p : Partition) (prefill : Bool) (h : Shape) (z0 : List (Nat × Req)) (z1 : List Placed) (z2 : Bool) :
    ((State.takeBatch s pn p prefill h z0 z1 z2).2.2).pending = s.pending ∧ ((State.takeBatch s pn p prefill h z0 z1 z2).2.2).ident = s.ident ∧ ((State.takeBatch s pn p prefill h z0 z1 z2).2.2).mem = s.mem := by
  induction z0 generalizing s z1 z2 with
  | nil => simp [State.takeBatch]
  | cons e es ih =>
    unfold State.takeBatch
    split
    · simp
    · split
      · exact ih _ _ _
      · have hp := State_placeReq_keeps s pn p e (placedOf e prefill h.smax)
        dsimp only
        split
        · rename_i heq
          simp only [heq] at hp
          split
          · exact hp
          · simp only [ih, hp, and_self]
        · rename_i heq
          simp only [heq] at hp
          simp only [ih, hp, and_self]

@[simp] theorem State_freePool_keeps (s : State) (pn : Nat) (p : Partition) (need : Nat) (z0 : List (Nat × Req)) :
    (State.freePool s pn p need z0).pending = s.pending ∧ (State.freePool s pn p need z0).ident = s.ident ∧ (State.freePool s pn p need z0).mem = s.mem := by
  induction z0 generalizing s pn p need <;>
  (unfold State.freePool; try dsimp only) <;> (repeat' split) <;> simp_all [apply_ite]

@[simp] theorem State_writeRemote_keeps (s : State) (node a : Nat) (b : Bytes) (z0 : Nat) :
    (State.writeRemote s node a b z0).pending = s.pending ∧ (State.writeRemote s node a b z0).ident = s.ident := by
  induction z0 generalizing s node a b <;>
  (unfold State.writeRemote; try dsimp only) <;> (repeat' split) <;> simp_all [apply_ite]

@[simp] theorem State_writeList_keeps (s : State) (p : Partition) (ridx : Nat) :
    (State.writeList s p ridx).pending = s.pending ∧ (State.writeList s p ridx).ident = s.ident := by
  unfold State.writeList
  try dsimp only
  (repeat' split) <;> simp_all [apply_ite]

@[simp] theorem State_writeInput_keeps (s : State) (p : Partition) (st : Step) :
    (State.writeInput s p st).pending = s.pending ∧ (State.writeInput s p st).ident = s.ident := by
  unfold State.writeInput
  try dsimp only
  (repeat' split) <;> simp_all [apply_ite]

@[simp] theorem State_formKind_keeps (s : State) (pn : Nat) (p : Partition) (prefill : Bool) :
    ((State.formKind s pn p prefill).2.2).pending = s.pending ∧ ((State.formKind s pn p prefill).2.2).ident = s.ident := by
  unfold State.formKind
  try dsimp only
  (repeat' split) <;> simp_all [apply_ite]

@[simp] theorem State_formFirst_keeps (s : State) (pn : Nat) (p : Partition) (z0 : List Bool) :
    ((State.formFirst s pn p z0).2.2).pending = s.pending ∧ ((State.formFirst s pn p z0).2.2).ident = s.ident := by
  induction z0 generalizing s with
  | nil => simp [State.formFirst]
  | cons k ks ih =>
    have hp := State_formKind_keeps s pn p k
    unfold State.formFirst
    split
    · rename_i heq
      simpa only [heq] using hp
    · rename_i heq
      simp only [heq] at hp
      simp only [ih, hp, and_self]

@[simp] theorem State_formLeader_keeps (s : State) (pn : Nat) (p : Partition) :
    (State.formLeader s pn p).pending = s.pending ∧ (State.formLeader s pn p).ident = s.ident := by
  have hp := State_formFirst_keeps s pn p (kindOrder p.man.role p.afterDecode (!(s.candidates pn true).isEmpty))
  unfold State.formLeader
  split
  · rename_i heq
    simp only [heq] at hp
    split
    · simp [hp]
    · exact hp
  · rename_i heq
    simpa only [heq] using hp

@[simp] theorem State_formShard_keeps (s : State) (pn : Nat) (p : Partition) :
    (State.formShard s pn p).pending = s.pending ∧ (State.formShard s pn p).ident = s.ident := by
  unfold State.formShard
  try dsimp only
  (repeat' split) <;> simp_all [apply_ite]

@[simp] theorem State_formStep_keeps (s : State) (pn : Nat) :
    (State.formStep s pn).pending = s.pending ∧ (State.formStep s pn).ident = s.ident := by
  unfold State.formStep
  try dsimp only
  (repeat' split) <;> simp (disch := (intros; (repeat' split) <;> simp_all)) [apply_ite, *]

@[simp] theorem State_pauseAll_keeps (s : State) (pn : Nat) :
    (State.pauseAll s pn).pending = s.pending ∧ (State.pauseAll s pn).ident = s.ident ∧ (State.pauseAll s pn).mem = s.mem := by
  unfold State.pauseAll
  try dsimp only
  (repeat' split) <;> simp_all [apply_ite]

@[simp] theorem State_applyPendings_keeps (s : State) (pn : Nat) :
    (State.applyPendings s pn).pending = s.pending ∧ (State.applyPendings s pn).ident = s.ident ∧ (State.applyPendings s pn).mem = s.mem := by
  unfold State.applyPendings
  try dsimp only
  (repeat' split) <;> simp_all [apply_ite]

@[simp] theorem State_checkDeadlines_keeps (s : State) (pn : Nat) :
    (State.checkDeadlines s pn).pending = s.pending ∧ (State.checkDeadlines s pn).ident = s.ident ∧ (State.checkDeadlines s pn).mem = s.mem := by
  unfold State.checkDeadlines
  try dsimp only
  (repeat' split) <;> simp_all [apply_ite]

@[simp] theorem State_rebuildDue_keeps (s : State) (pn : Nat) :
    (State.rebuildDue s pn).pending = s.pending ∧ (State.rebuildDue s pn).ident = s.ident ∧ (State.rebuildDue s pn).mem = s.mem := by
  unfold State.rebuildDue
  try dsimp only
  (repeat' split) <;> simp_all [apply_ite]

@[simp] theorem State_boundaryResults_keeps (s : State) (pn : Nat) :
    (State.boundaryResults s pn).pending = s.pending ∧ (State.boundaryResults s pn).ident = s.ident := by
  unfold State.boundaryResults
  try dsimp only
  (repeat' split) <;> simp_all [apply_ite]

@[simp] theorem State_nextStep_keeps (s : State) (pn : Nat) (steps : Bool) :
    (State.nextStep s pn steps).pending = s.pending ∧ (State.nextStep s pn steps).ident = s.ident := by
  unfold State.nextStep
  try dsimp only
  (repeat' split) <;> simp_all [apply_ite]

@[simp] theorem State_boundaryForm_keeps (s : State) (pn : Nat) (steps : Bool) :
    (State.boundaryForm s pn steps).pending = s.pending ∧ (State.boundaryForm s pn steps).ident = s.ident := by
  unfold State.boundaryForm
  try dsimp only
  (repeat' split) <;> simp_all [apply_ite]

/-! ## The canonical form of the tiers stays -/

@[simp] theorem State_seMessage_memOk (s : State) (user : FabUser) (cls node granules : Nat) (m : SeMsg) (h : MemOk s.mem) :
    MemOk (State.seMessage s user cls node granules m).mem := by
  unfold State.seMessage
  try dsimp only
  (repeat' split) <;> simp_all [MemOk]

@[simp] theorem State_sendOpen_memOk (s : State) (ridx : Nat) (alt : Bool) (h : MemOk s.mem) :
    MemOk (State.sendOpen s ridx alt).2.mem := by
  unfold State.sendOpen
  try dsimp only
  (repeat' split) <;> simp_all [MemOk]

@[simp] theorem State_sendAbort_memOk (s : State) (ridx : Nat) (h : MemOk s.mem) :
    MemOk (State.sendAbort s ridx).mem := by
  unfold State.sendAbort
  try dsimp only
  (repeat' split) <;> simp_all [MemOk]

@[simp] theorem State_tryAlternate_memOk (s : State) (ridx st : Nat) (h : MemOk s.mem) :
    MemOk (State.tryAlternate s ridx st).mem := by
  unfold State.tryAlternate
  try dsimp only
  (repeat' split) <;> simp_all [MemOk]

@[simp] theorem State_handoffFailed_memOk (s : State) (ridx : Nat) (h : MemOk s.mem) :
    MemOk (State.handoffFailed s ridx).mem := by
  unfold State.handoffFailed
  try dsimp only
  (repeat' split) <;> simp_all [MemOk]

@[simp] theorem State_servingTxEnded_memOk (s : State) (ridx st : Nat) (h : MemOk s.mem) :
    MemOk (State.servingTxEnded s ridx st).mem := by
  unfold State.servingTxEnded
  try dsimp only
  (repeat' split) <;> simp_all [MemOk]

@[simp] theorem State_startHandoff_memOk (s : State) (ridx : Nat) (h : MemOk s.mem) :
    MemOk (State.startHandoff s ridx).mem := by
  unfold State.startHandoff
  try dsimp only
  (repeat' split) <;> simp_all [MemOk]

@[simp] theorem State_startHandoffs_memOk (s : State) (h : MemOk s.mem) :
    MemOk (State.startHandoffs s).mem := by
  unfold State.startHandoffs
  try dsimp only
  (repeat' split) <;> simp (disch := (intros; (repeat' split) <;> simp_all [MemOk])) [MemOk, *]

@[simp] theorem State_sendCommit_memOk (s : State) (ridx : Nat) (r : Req) (node : Nat) (h : MemOk s.mem) :
    MemOk (State.sendCommit s ridx r node).mem := by
  unfold State.sendCommit
  try dsimp only
  (repeat' split) <;> simp_all [MemOk]

@[simp] theorem State_shipPage_memOk (s : State) (ridx : Nat) (h : MemOk s.mem) :
    MemOk (State.shipPage s ridx).mem := by
  unfold State.shipPage
  try dsimp only
  (repeat' split) <;> simp (disch := (intros; (repeat' split) <;> simp_all [MemOk])) [MemOk, *]

@[simp] theorem State_shipMore_memOk (s : State) (ridx : Nat) (z0 : Nat) (h : MemOk s.mem) :
    MemOk (State.shipMore s ridx z0).mem := by
  induction z0 generalizing s ridx <;>
  (unfold State.shipMore; try dsimp only) <;> (repeat' split) <;> simp_all [MemOk]

@[simp] theorem State_orderShards_memOk (s : State) (ridx : Nat) (h : MemOk s.mem) :
    MemOk (State.orderShards s ridx).mem := by
  unfold State.orderShards
  try dsimp only
  (repeat' split) <;> simp_all [MemOk]

@[simp] theorem State_shardDone_memOk (s : State) (d : FabDone) (h : MemOk s.mem) :
    MemOk (State.shardDone s d).mem := by
  unfold State.shardDone
  try dsimp only
  (repeat' split) <;> simp_all [MemOk]

@[simp] theorem State_settleFrom_memOk (s : State) (n : Nat) (h : MemOk s.mem) :
    MemOk (State.settleFrom s n).mem := by
  unfold State.settleFrom
  repeat' (first | assumption | (intro _; done) | split | dsimp only | simp only [done_keeps] | with_reducible apply State_servingTxEnded_memOk | with_reducible apply State_startHandoffs_memOk | with_reducible apply State_shardDone_memOk | with_reducible apply foldl_memOk | with_reducible apply foldl_memOkM | intro _)

@[simp] theorem State_advanceDecode_memOk (s : State) (p : Partition) (r : Req) (ridx tok k newt : Nat) (ended : Bool) (h : MemOk s.mem) :
    MemOk (State.advanceDecode s p r ridx tok k newt ended).mem := by
  unfold State.advanceDecode
  try dsimp only
  (repeat' split) <;> simp_all [MemOk]

@[simp] theorem State_applyDecode_memOk (s : State) (p : Partition) (stepn : Nat) (i : Nat) (b : Placed) (h : MemOk s.mem) :
    MemOk (State.applyDecode s p stepn i b).mem := by
  unfold State.applyDecode
  try dsimp only
  (repeat' split) <;> simp_all [MemOk]

@[simp] theorem State_applyStep_memOk (s : State) (pn : Nat) (st : Step) (h : MemOk s.mem) :
    MemOk (State.applyStep s pn st).mem := by
  unfold State.applyStep
  try dsimp only
  (repeat' split) <;> simp_all [MemOk]

@[simp] theorem State_takeDoom_memOk (s : State) (pn : Nat) (h : MemOk s.mem) :
    MemOk (State.takeDoom s pn).mem := by
  unfold State.takeDoom
  try dsimp only
  (repeat' split) <;> simp (disch := (intros; (repeat' split) <;> simp_all [MemOk])) [MemOk, *]

@[simp] theorem State_skipPrefill_memOk (s : State) (ridx role : Nat) (h : MemOk s.mem) :
    MemOk (State.skipPrefill s ridx role).mem := by
  unfold State.skipPrefill
  try dsimp only
  (repeat' split) <;> simp_all [MemOk]

@[simp] theorem State_writeRemote_memOk (s : State) (node a : Nat) (b : Bytes) (z0 : Nat) (h : MemOk s.mem) :
    MemOk (State.writeRemote s node a b z0).mem := by
  induction z0 generalizing s node a b <;>
  (unfold State.writeRemote; try dsimp only) <;> (repeat' split) <;> simp_all [MemOk]

@[simp] theorem State_writeList_memOk (s : State) (p : Partition) (ridx : Nat) (h : MemOk s.mem) :
    MemOk (State.writeList s p ridx).mem := by
  unfold State.writeList
  try dsimp only
  (repeat' split) <;> simp_all [MemOk]

@[simp] theorem State_writeInput_memOk (s : State) (p : Partition) (st : Step) (h : MemOk s.mem) :
    MemOk (State.writeInput s p st).mem := by
  unfold State.writeInput
  try dsimp only
  (repeat' split) <;> simp (disch := (intros; (repeat' split) <;> simp_all [MemOk])) [MemOk, *]

@[simp] theorem State_formKind_memOk (s : State) (pn : Nat) (p : Partition) (prefill : Bool) (h : MemOk s.mem) :
    MemOk (State.formKind s pn p prefill).2.2.mem := by
  unfold State.formKind
  try dsimp only
  (repeat' split) <;> simp_all [MemOk]

@[simp] theorem State_formFirst_memOk (s : State) (pn : Nat) (p : Partition) (z0 : List Bool) (h : MemOk s.mem) :
    MemOk (State.formFirst s pn p z0).2.2.mem := by
  induction z0 generalizing s with
  | nil => exact h
  | cons k ks ih =>
    have hp := State_formKind_memOk s pn p k h
    unfold State.formFirst
    split
    · rename_i heq
      simpa only [heq] using hp
    · rename_i heq
      simp only [heq] at hp
      exact ih _ hp

@[simp] theorem State_formLeader_memOk (s : State) (pn : Nat) (p : Partition) (h : MemOk s.mem) :
    MemOk (State.formLeader s pn p).mem := by
  have hp := State_formFirst_memOk s pn p (kindOrder p.man.role p.afterDecode (!(s.candidates pn true).isEmpty)) h
  unfold State.formLeader
  split
  · rename_i heq
    simp only [heq] at hp
    split
    · exact State_formKind_memOk _ _ _ _ (by simpa using hp)
    · exact hp
  · rename_i heq
    simpa only [heq] using hp

@[simp] theorem State_formShard_memOk (s : State) (pn : Nat) (p : Partition) (h : MemOk s.mem) :
    MemOk (State.formShard s pn p).mem := by
  unfold State.formShard
  try dsimp only
  (repeat' split) <;> simp_all [MemOk]

@[simp] theorem State_formStep_memOk (s : State) (pn : Nat) (h : MemOk s.mem) :
    MemOk (State.formStep s pn).mem := by
  unfold State.formStep
  try dsimp only
  (repeat' split) <;> simp_all [MemOk]

@[simp] theorem State_boundaryResults_memOk (s : State) (pn : Nat) (h : MemOk s.mem) :
    MemOk (State.boundaryResults s pn).mem := by
  unfold State.boundaryResults
  repeat' (first | assumption | (intro _; done) | split | dsimp only | simp only [State_applyPendings_keeps, State_checkDeadlines_keeps, State_rebuildDue_keeps, State_modPart_keeps] | with_reducible apply State_applyStep_memOk | with_reducible apply State_takeDoom_memOk | with_reducible apply foldl_memOk | with_reducible apply foldl_memOkM | intro _)

@[simp] theorem State_nextStep_memOk (s : State) (pn : Nat) (steps : Bool) (h : MemOk s.mem) :
    MemOk (State.nextStep s pn steps).mem := by
  unfold State.nextStep
  try dsimp only
  (repeat' split) <;> simp_all [MemOk]

@[simp] theorem State_boundaryForm_memOk (s : State) (pn : Nat) (steps : Bool) (h : MemOk s.mem) :
    MemOk (State.boundaryForm s pn steps).mem := by
  unfold State.boundaryForm
  try dsimp only
  (repeat' split) <;> simp_all [MemOk]

end Sys2Proof.Machine
end

