-- ==== Sys2Proof/Laws/KeepTiers.lean ====
section
/-! SUPPORT. What no operation or command of Machine/Tiers.lean touches: the queue, who owns the device, and (`_keeps`, where it writes no tier) the memory; where it may write one, `_memOk` says the canonical form stays. -/

namespace Sys2Proof.Machine

@[simp] theorem State_takeRequest_keeps (s : State) (a : Access) :
    (State.takeRequest s a).pending = s.pending ∧ (State.takeRequest s a).ident = s.ident ∧ (State.takeRequest s a).mem = s.mem := by
  unfold State.takeRequest
  try dsimp only
  (repeat' split) <;> simp_all [apply_ite]

theorem execRimAccess_keeps (a : Access) (found mapA mapB : Ecc) (held : Bool) (s : State) :
    ∀ nx, execRimAccess a found mapA mapB held s = .next nx → (nx).pending = s.pending ∧ (nx).ident = s.ident := by
  intro nx h
  unfold execRimAccess at h
  try dsimp only at h
  (repeat' split at h) <;> (try cases h) <;> simp_all [apply_ite]

theorem execDemotionSelect_keeps (die tier : Nat) (s : State) :
    ∀ nx, execDemotionSelect die tier s = .next nx → (nx).pending = s.pending ∧ (nx).ident = s.ident := by
  intro nx h
  unfold execDemotionSelect at h
  try dsimp only at h
  (repeat' split at h) <;> (try cases h) <;> simp_all [apply_ite]

theorem execCellarFullRecord_keeps (s : State) :
    ∀ nx, execCellarFullRecord s = .next nx → (nx).pending = s.pending ∧ (nx).ident = s.ident := by
  intro nx h
  unfold execCellarFullRecord at h
  try dsimp only at h
  (repeat' split at h) <;> (try cases h) <;> simp_all [apply_ite]

theorem execDecantComplete_keeps (unit line : Nat) (found : Ecc) (s : State) :
    ∀ nx, execDecantComplete unit line found s = .next nx → (nx).pending = s.pending ∧ (nx).ident = s.ident := by
  intro nx h
  unfold execDecantComplete at h
  try dsimp only at h
  (repeat' split at h) <;> (try cases h) <;> simp_all [apply_ite]

@[simp] theorem State_waitTick_keeps (s : State) :
    (State.waitTick s).pending = s.pending ∧ (State.waitTick s).ident = s.ident ∧ (State.waitTick s).mem = s.mem := ⟨rfl, rfl, rfl⟩

theorem execAgeTick_keeps (s : State) :
    ∀ nx, execAgeTick s = .next nx → (nx).pending = s.pending ∧ (nx).ident = s.ident ∧ (nx).mem = s.mem := by
  intro nx h
  unfold execAgeTick at h
  try dsimp only at h
  (repeat' split at h) <;> (try cases h) <;> simp_all [apply_ite]

theorem execMapSweep_keeps (unit : Nat) (s : State) :
    ∀ nx, execMapSweep unit s = .next nx → (nx).pending = s.pending ∧ (nx).ident = s.ident := by
  intro nx h
  unfold execMapSweep at h
  try dsimp only at h
  (repeat' split at h) <;> (try cases h) <;> simp_all [apply_ite]

@[simp] theorem State_scrubLine_keeps (s : State) (tier frame line : Nat) (found : Ecc) :
    ((State.scrubLine s tier frame line found).1).pending = s.pending ∧ ((State.scrubLine s tier frame line found).1).ident = s.ident := by
  unfold State.scrubLine
  try dsimp only
  (repeat' split) <;> simp_all [apply_ite]

theorem execPatrolScrub_keeps (tier frame line : Nat) (found : Ecc) (s : State) :
    ∀ nx, execPatrolScrub tier frame line found s = .next nx → (nx).pending = s.pending ∧ (nx).ident = s.ident := by
  intro nx h
  unfold execPatrolScrub at h
  extract_lets busy m s1 r at h
  have h2 : s1.pending = s.pending ∧ s1.ident = s.ident := by simp [s1]
  have h1 : r.1.pending = s.pending ∧ r.1.ident = s.ident := by simp [r, h2]
  clear_value busy r s1
  (repeat' split at h) <;> cases h <;> simp [h1, h2]


@[simp] theorem State_mapUnit_keeps (s : State) (tier : Nat) (noPromo : Bool) (u : Nat) :
    (State.mapUnit s tier noPromo u).pending = s.pending ∧ (State.mapUnit s tier noPromo u).ident = s.ident := by
  unfold State.mapUnit
  try dsimp only
  (repeat' split) <;> simp_all [apply_ite]

@[simp] theorem doMemMap_keeps (c : Cmd) (s : State) :
    (doMemMap c s).pending = s.pending ∧ (doMemMap c s).ident = s.ident := by
  unfold doMemMap
  try dsimp only
  (repeat' split) <;> simp_all [apply_ite]

theorem execMemMap_keeps (c : Cmd) (s : State) :
    ∀ nx, execMemMap c s = .next nx → (nx).pending = s.pending ∧ (nx).ident = s.ident := by
  intro nx h
  cases h
  simp

@[simp] theorem State_unmapUnit_keeps (s : State) (u : Nat) :
    (State.unmapUnit s u).pending = s.pending ∧ (State.unmapUnit s u).ident = s.ident := by
  unfold State.unmapUnit
  try dsimp only
  (repeat' split) <;> simp_all [apply_ite]

@[simp] theorem doMemUnmap_keeps (c : Cmd) (s : State) :
    (doMemUnmap c s).pending = s.pending ∧ (doMemUnmap c s).ident = s.ident := by
  unfold doMemUnmap
  try dsimp only
  (repeat' split) <;> simp_all [apply_ite]

theorem execMemUnmap_keeps (c : Cmd) (s : State) :
    ∀ nx, execMemUnmap c s = .next nx → (nx).pending = s.pending ∧ (nx).ident = s.ident := by
  intro nx h
  cases h
  simp

@[simp] theorem doMemQuery_keeps (c : Cmd) (s : State) :
    (doMemQuery c s).pending = s.pending ∧ (doMemQuery c s).ident = s.ident ∧ (doMemQuery c s).mem = s.mem := by
  unfold doMemQuery
  try dsimp only
  (repeat' split) <;> simp_all [apply_ite]

theorem execMemQuery_keeps (c : Cmd) (s : State) :
    ∀ nx, execMemQuery c s = .next nx → (nx).pending = s.pending ∧ (nx).ident = s.ident ∧ (nx).mem = s.mem := by
  intro nx h
  cases h
  simp

theorem State_makeRoom_keeps (s : State) (tier : Nat) (z0 : Nat) :
    ∀ nx, State.makeRoom s tier z0 = some nx → (nx).pending = s.pending ∧ (nx).ident = s.ident := by
  induction z0 generalizing s tier with
  | zero => intro nx h; simp [State.makeRoom] at h
  | succ n ih =>
    intro nx h
    unfold State.makeRoom at h
    split at h
    · cases h; simp
    · split at h
      · cases h
      · split at h
        · rw [Option.bind_eq_some_iff] at h
          obtain ⟨a, ha, h⟩ := h
          have h1 := ih _ _ _ ha
          have h2 := ih _ _ _ h
          simp_all
        · cases h

theorem State_toNear_keeps (s : State) (u : Nat) (z0 : Nat) :
    ∀ nx, State.toNear s u z0 = some nx → (nx).pending = s.pending ∧ (nx).ident = s.ident := by
  induction z0 generalizing s with
  | zero => intro nx h; simp [State.toNear] at h
  | succ n ih =>
    intro nx h
    unfold State.toNear at h
    split at h
    · split at h
      · cases h; simp
      · split at h
        · cases h
        · rw [Option.bind_eq_some_iff] at h
          obtain ⟨a, ha, h⟩ := h
          have h1 := State_makeRoom_keeps _ _ _ _ ha
          have h2 := ih _ _ h
          simp_all
    · cases h

theorem State_allNear_keeps (s : State) (z0 : List Nat) :
    ∀ nx, State.allNear s z0 = some nx → (nx).pending = s.pending ∧ (nx).ident = s.ident := by
  induction z0 generalizing s with
  | nil => intro nx h; simp [State.allNear] at h; simp [h]
  | cons u us ih =>
    intro nx h
    simp only [State.allNear, Option.bind_eq_some_iff] at h
    obtain ⟨a, ha, h⟩ := h
    have h1 := State_toNear_keeps _ _ _ _ ha
    have h2 := ih _ _ h
    simp_all


@[simp] theorem State_pinUnits_keeps (s : State) (us : List Nat) :
    (State.pinUnits s us).pending = s.pending ∧ (State.pinUnits s us).ident = s.ident := by
  unfold State.pinUnits
  try dsimp only
  (repeat' split) <;> simp_all [apply_ite]

@[simp] theorem doMemPin_keeps (c : Cmd) (s : State) :
    (doMemPin c s).pending = s.pending ∧ (doMemPin c s).ident = s.ident := by
  have hn := State_allNear_keeps (s.pinUnits c.units) c.units
  unfold doMemPin
  dsimp only
  split
  · simp
  · split
    · simp
    · split
      · simp
      · split
        · simp
        · split
          · rename_i hq
            simp [hn _ hq]
          · simp


theorem execMemPin_keeps (c : Cmd) (s : State) :
    ∀ nx, execMemPin c s = .next nx → (nx).pending = s.pending ∧ (nx).ident = s.ident := by
  intro nx h
  cases h
  simp

@[simp] theorem doMemUnpin_keeps (c : Cmd) (s : State) :
    (doMemUnpin c s).pending = s.pending ∧ (doMemUnpin c s).ident = s.ident := by
  unfold doMemUnpin
  try dsimp only
  (repeat' split) <;> simp_all [apply_ite]

theorem execMemUnpin_keeps (c : Cmd) (s : State) :
    ∀ nx, execMemUnpin c s = .next nx → (nx).pending = s.pending ∧ (nx).ident = s.ident := by
  intro nx h
  cases h
  simp

@[simp] theorem doHostTierAdd_keeps (c : Cmd) (s : State) :
    (doHostTierAdd c s).pending = s.pending ∧ (doHostTierAdd c s).ident = s.ident := by
  unfold doHostTierAdd
  try dsimp only
  (repeat' split) <;> simp_all [apply_ite]

theorem execHostTierAdd_keeps (c : Cmd) (s : State) :
    ∀ nx, execHostTierAdd c s = .next nx → (nx).pending = s.pending ∧ (nx).ident = s.ident := by
  intro nx h
  cases h
  simp

@[simp] theorem State_evacuate_keeps (s : State) (u : Nat) :
    (State.evacuate s u).pending = s.pending ∧ (State.evacuate s u).ident = s.ident := by
  unfold State.evacuate
  try dsimp only
  (repeat' split) <;> simp_all [apply_ite]

@[simp] theorem doHostTierRemove_keeps (c : Cmd) (s : State) :
    (doHostTierRemove c s).pending = s.pending ∧ (doHostTierRemove c s).ident = s.ident := by
  unfold doHostTierRemove
  try dsimp only
  (repeat' split) <;> simp_all [apply_ite]

theorem execHostTierRemove_keeps (c : Cmd) (s : State) :
    ∀ nx, execHostTierRemove c s = .next nx → (nx).pending = s.pending ∧ (nx).ident = s.ident := by
  intro nx h
  cases h
  simp

@[simp] theorem State_scramble_keeps (s : State) (a n : Nat) :
    (State.scramble s a n).pending = s.pending ∧ (State.scramble s a n).ident = s.ident := by
  unfold State.scramble
  try dsimp only
  (repeat' split) <;> simp_all [apply_ite]

@[simp] theorem dmaIn_keeps (c : Cmd) (dev n : Nat) (s : State) :
    (dmaIn c dev n s).pending = s.pending ∧ (dmaIn c dev n s).ident = s.ident := by
  unfold dmaIn
  try dsimp only
  (repeat' split) <;> simp_all [apply_ite]

@[simp] theorem dmaOut_keeps (c : Cmd) (host dev n : Nat) (s : State) :
    (dmaOut c host dev n s).pending = s.pending ∧ (dmaOut c host dev n s).ident = s.ident := by
  unfold dmaOut
  try dsimp only
  (repeat' split) <;> simp_all [apply_ite]

@[simp] theorem doDmaCopy_keeps (c : Cmd) (s : State) :
    (doDmaCopy c s).pending = s.pending ∧ (doDmaCopy c s).ident = s.ident := by
  unfold doDmaCopy
  try dsimp only
  (repeat' split) <;> simp_all [apply_ite]

theorem execDmaCopy_keeps (c : Cmd) (s : State) :
    ∀ nx, execDmaCopy c s = .next nx → (nx).pending = s.pending ∧ (nx).ident = s.ident := by
  intro nx h
  cases h
  simp

/-! ## The canonical form of the tiers stays -/

theorem execRimAccess_memOk (a : Access) (found mapA mapB : Ecc) (held : Bool) (s : State) (h : MemOk s.mem) :
    ∀ nx, execRimAccess a found mapA mapB held s = .next nx → MemOk nx.mem := by
  intro nx hx
  unfold execRimAccess at hx
  try dsimp only at hx
  (repeat' split at hx) <;> (try cases hx) <;> simp (disch := (intros; (repeat' split) <;> simp_all [MemOk])) [MemOk, *]

theorem execDemotionSelect_memOk (die tier : Nat) (s : State) (h : MemOk s.mem) :
    ∀ nx, execDemotionSelect die tier s = .next nx → MemOk nx.mem := by
  intro nx hx
  unfold execDemotionSelect at hx
  try dsimp only at hx
  (repeat' split at hx) <;> (try cases hx) <;> simp (disch := (intros; (repeat' split) <;> simp_all [MemOk])) [MemOk, *]

theorem execCellarFullRecord_memOk (s : State) (h : MemOk s.mem) :
    ∀ nx, execCellarFullRecord s = .next nx → MemOk nx.mem := by
  intro nx hx
  unfold execCellarFullRecord at hx
  try dsimp only at hx
  (repeat' split at hx) <;> (try cases hx) <;> simp_all [MemOk]

theorem execDecantComplete_memOk (unit line : Nat) (found : Ecc) (s : State) (h : MemOk s.mem) :
    ∀ nx, execDecantComplete unit line found s = .next nx → MemOk nx.mem := by
  intro nx hx
  unfold execDecantComplete at hx
  try dsimp only at hx
  (repeat' split at hx) <;> (try cases hx) <;> simp_all [MemOk]

theorem execMapSweep_memOk (unit : Nat) (s : State) (h : MemOk s.mem) :
    ∀ nx, execMapSweep unit s = .next nx → MemOk nx.mem := by
  intro nx hx
  unfold execMapSweep at hx
  try dsimp only at hx
  (repeat' split at hx) <;> (try cases hx) <;> simp_all [MemOk]

@[simp] theorem State_scrubLine_memOk (s : State) (tier frame line : Nat) (found : Ecc) (h : MemOk s.mem) :
    MemOk (State.scrubLine s tier frame line found).1.mem := by
  unfold State.scrubLine
  try dsimp only
  (repeat' split) <;> simp_all [MemOk]

theorem execPatrolScrub_memOk (tier frame line : Nat) (found : Ecc) (s : State) (h : MemOk s.mem) :
    ∀ nx, execPatrolScrub tier frame line found s = .next nx → MemOk nx.mem := by
  intro nx hx
  unfold execPatrolScrub at hx
  extract_lets busy m s1 r at hx
  have h2 : MemOk s1.mem := h
  have h1 : MemOk r.1.mem := State_scrubLine_memOk s1 tier frame line found h2
  clear_value busy r s1
  (repeat' split at hx) <;> cases hx <;> first | exact h1 | exact h2 | exact h | simp_all [MemOk]


@[simp] theorem State_mapUnit_memOk (s : State) (tier : Nat) (noPromo : Bool) (u : Nat) (h : MemOk s.mem) :
    MemOk (State.mapUnit s tier noPromo u).mem := by
  unfold State.mapUnit
  try dsimp only
  (repeat' split) <;> simp_all [MemOk]

@[simp] theorem doMemMap_memOk (c : Cmd) (s : State) (h : MemOk s.mem) :
    MemOk (doMemMap c s).mem := by
  unfold doMemMap
  try dsimp only
  (repeat' split) <;> simp_all [MemOk]

theorem execMemMap_memOk (c : Cmd) (s : State) (h : MemOk s.mem) :
    ∀ nx, execMemMap c s = .next nx → MemOk nx.mem := by
  intro nx hx
  unfold execMemMap at hx
  try dsimp only at hx
  (repeat' split at hx) <;> (try cases hx) <;> simp (disch := (intros; (repeat' split) <;> simp_all [MemOk])) [MemOk, *]

@[simp] theorem State_unmapUnit_memOk (s : State) (u : Nat) (h : MemOk s.mem) :
    MemOk (State.unmapUnit s u).mem := by
  unfold State.unmapUnit
  try dsimp only
  (repeat' split) <;> simp (disch := (intros; (repeat' split) <;> simp_all [MemOk])) [MemOk, *]

@[simp] theorem doMemUnmap_memOk (c : Cmd) (s : State) (h : MemOk s.mem) :
    MemOk (doMemUnmap c s).mem := by
  unfold doMemUnmap
  try dsimp only
  (repeat' split) <;> simp (disch := (intros; (repeat' split) <;> simp_all [MemOk])) [MemOk, *]

theorem execMemUnmap_memOk (c : Cmd) (s : State) (h : MemOk s.mem) :
    ∀ nx, execMemUnmap c s = .next nx → MemOk nx.mem := by
  intro nx hx
  unfold execMemUnmap at hx
  try dsimp only at hx
  (repeat' split at hx) <;> (try cases hx) <;> simp (disch := (intros; (repeat' split) <;> simp_all [MemOk])) [MemOk, *]

theorem State_makeRoom_memOk (s : State) (tier : Nat) (z0 : Nat) (h : MemOk s.mem) :
    ∀ nx, State.makeRoom s tier z0 = some nx → MemOk nx.mem := by
  induction z0 generalizing s tier with
  | zero => intro nx hx; simp [State.makeRoom] at hx
  | succ n ih =>
    intro nx hx
    unfold State.makeRoom at hx
    split at hx
    · cases hx; exact h
    · split at hx
      · cases hx
      · split at hx
        · rw [Option.bind_eq_some_iff] at hx
          obtain ⟨a, ha, hx⟩ := hx
          exact ih _ _ (State_relocate_memOk _ _ _ (State_selected_memOk _ _ _ (ih _ _ h _ ha))) _ hx
        · cases hx

theorem State_toNear_memOk (s : State) (u : Nat) (z0 : Nat) (h : MemOk s.mem) :
    ∀ nx, State.toNear s u z0 = some nx → MemOk nx.mem := by
  induction z0 generalizing s with
  | zero => intro nx hx; simp [State.toNear] at hx
  | succ n ih =>
    intro nx hx
    unfold State.toNear at hx
    split at hx
    · split at hx
      · cases hx; exact h
      · split at hx
        · cases hx
        · rw [Option.bind_eq_some_iff] at hx
          obtain ⟨a, ha, hx⟩ := hx
          exact ih _ (State_relocate_memOk _ _ _ (State_makeRoom_memOk _ _ _ h _ ha)) _ hx
    · cases hx

theorem State_allNear_memOk (s : State) (z0 : List Nat) (h : MemOk s.mem) :
    ∀ nx, State.allNear s z0 = some nx → MemOk nx.mem := by
  induction z0 generalizing s with
  | nil => intro nx hx; simp [State.allNear] at hx; exact hx ▸ h
  | cons u us ih =>
    intro nx hx
    simp only [State.allNear, Option.bind_eq_some_iff] at hx
    obtain ⟨a, ha, hx⟩ := hx
    exact ih _ (State_toNear_memOk _ _ _ (State_settle_memOk _ _ h) _ ha) _ hx


@[simp] theorem State_pinUnits_memOk (s : State) (us : List Nat) (h : MemOk s.mem) :
    MemOk (State.pinUnits s us).mem := by
  unfold State.pinUnits
  try dsimp only
  (repeat' split) <;> simp_all [MemOk]

@[simp] theorem doMemPin_memOk (c : Cmd) (s : State) (h : MemOk s.mem) :
    MemOk (doMemPin c s).mem := by
  have h1 := State_pinUnits_memOk s c.units h
  unfold doMemPin
  dsimp only
  (repeat' split) <;> first | (simp_all [MemOk]; done) | skip
  rename_i hq
  have h2 := State_allNear_memOk _ _ h1 _ hq
  have h3 := State_settlePeers_memOk _ h2
  simpa using h3


theorem execMemPin_memOk (c : Cmd) (s : State) (h : MemOk s.mem) :
    ∀ nx, execMemPin c s = .next nx → MemOk nx.mem := by
  intro nx hx
  unfold execMemPin at hx
  try dsimp only at hx
  (repeat' split at hx) <;> (try cases hx) <;> simp (disch := (intros; (repeat' split) <;> simp_all [MemOk])) [MemOk, *]

@[simp] theorem doMemUnpin_memOk (c : Cmd) (s : State) (h : MemOk s.mem) :
    MemOk (doMemUnpin c s).mem := by
  unfold doMemUnpin
  try dsimp only
  (repeat' split) <;> simp_all [MemOk]

theorem execMemUnpin_memOk (c : Cmd) (s : State) (h : MemOk s.mem) :
    ∀ nx, execMemUnpin c s = .next nx → MemOk nx.mem := by
  intro nx hx
  unfold execMemUnpin at hx
  try dsimp only at hx
  (repeat' split at hx) <;> (try cases hx) <;> simp (disch := (intros; (repeat' split) <;> simp_all [MemOk])) [MemOk, *]

@[simp] theorem doHostTierAdd_memOk (c : Cmd) (s : State) (h : MemOk s.mem) :
    MemOk (doHostTierAdd c s).mem := by
  unfold doHostTierAdd
  try dsimp only
  (repeat' split) <;> simp_all [MemOk]

theorem execHostTierAdd_memOk (c : Cmd) (s : State) (h : MemOk s.mem) :
    ∀ nx, execHostTierAdd c s = .next nx → MemOk nx.mem := by
  intro nx hx
  unfold execHostTierAdd at hx
  try dsimp only at hx
  (repeat' split at hx) <;> (try cases hx) <;> simp (disch := (intros; (repeat' split) <;> simp_all [MemOk])) [MemOk, *]

@[simp] theorem State_evacuate_memOk (s : State) (u : Nat) (h : MemOk s.mem) :
    MemOk (State.evacuate s u).mem := by
  unfold State.evacuate
  try dsimp only
  (repeat' split) <;> simp_all [MemOk]

@[simp] theorem Memory_dropExtent_memOk (m : Memory) (base f n : Nat) (h : MemOk m) :
    MemOk ((Memory.dropExtent m base f n)) := by
  unfold Memory.dropExtent
  try dsimp only
  (repeat' split) <;> simp_all [MemOk]

@[simp] theorem doHostTierRemove_memOk (c : Cmd) (s : State) (h : MemOk s.mem) :
    MemOk (doHostTierRemove c s).mem := by
  unfold doHostTierRemove
  dsimp only
  split
  · simpa using h
  · rename_i f n _
    split
    · simpa using h
    · split
      · simpa using h
      · have h1 := foldl_memOk State.evacuate (fun s u hs => State_evacuate_memOk s u hs) (s.unitsIn f n) s h
        have h2 := fun l => foldl_memOk (fun (t : State) (d : Decant) => (t.settle d.unit).evacuate d.unit)
          (fun t d ht => State_evacuate_memOk _ _ (State_settle_memOk _ _ ht)) l _ h1
        have h3 := fun l => Memory_dropExtent_memOk _ (fld c.desc 16 0 64) f n (h2 l)
        rw [(done_keeps _ _ _).2.2]
        exact State_settlePeers_memOk _ (h3 _)


theorem execHostTierRemove_memOk (c : Cmd) (s : State) (h : MemOk s.mem) :
    ∀ nx, execHostTierRemove c s = .next nx → MemOk nx.mem := by
  intro nx hx
  unfold execHostTierRemove at hx
  try dsimp only at hx
  (repeat' split at hx) <;> (try cases hx) <;> simp (disch := (intros; (repeat' split) <;> simp_all [MemOk])) [MemOk, *]

@[simp] theorem State_scramble_memOk (s : State) (a n : Nat) (h : MemOk s.mem) :
    MemOk (State.scramble s a n).mem := by
  unfold State.scramble
  try dsimp only
  (repeat' split) <;> simp_all [MemOk]

@[simp] theorem dmaIn_memOk (c : Cmd) (dev n : Nat) (s : State) (h : MemOk s.mem) :
    MemOk (dmaIn c dev n s).mem := by
  unfold dmaIn
  try dsimp only
  (repeat' split) <;> simp_all [MemOk]

@[simp] theorem dmaOut_memOk (c : Cmd) (host dev n : Nat) (s : State) (h : MemOk s.mem) :
    MemOk (dmaOut c host dev n s).mem := by
  unfold dmaOut
  try dsimp only
  (repeat' split) <;> simp_all [MemOk]

@[simp] theorem doDmaCopy_memOk (c : Cmd) (s : State) (h : MemOk s.mem) :
    MemOk (doDmaCopy c s).mem := by
  unfold doDmaCopy
  try dsimp only
  (repeat' split) <;> simp_all [MemOk]

theorem execDmaCopy_memOk (c : Cmd) (s : State) (h : MemOk s.mem) :
    ∀ nx, execDmaCopy c s = .next nx → MemOk nx.mem := by
  intro nx hx
  unfold execDmaCopy at hx
  try dsimp only at hx
  (repeat' split at hx) <;> (try cases hx) <;> simp (disch := (intros; (repeat' split) <;> simp_all [MemOk])) [MemOk, *]

end Sys2Proof.Machine
end

