-- ==== Sys2Proof/Laws/KeepServing.lean ====
section
/-! SUPPORT. What no operation or command of Machine/Serving.lean touches: the queue, who owns the device, and (`_keeps`, where it writes no tier) the memory; where it may write one, `_memOk` says the canonical form stays. -/

namespace Sys2Proof.Machine

@[simp] theorem takeDescriptor_keeps (ring : Nat) (r : SRing) (d : Bytes) (s : State) :
    (takeDescriptor ring r d s).pending = s.pending ∧ (takeDescriptor ring r d s).ident = s.ident ∧ (takeDescriptor ring r d s).mem = s.mem := ⟨rfl, rfl, rfl⟩

theorem execSubmissionFetch_keeps (ring : Nat) (r : HostRead) (s : State) :
    ∀ nx, execSubmissionFetch ring r s = .next nx → (nx).pending = s.pending ∧ (nx).ident = s.ident ∧ (nx).mem = s.mem := by
  intro nx h
  unfold execSubmissionFetch at h
  try dsimp only at h
  (repeat' split at h) <;> (try cases h) <;> simp_all [apply_ite]

@[simp] theorem State_popTaken_keeps (s : State) (ring : Nat) (d : Bytes) :
    (State.popTaken s ring d).pending = s.pending ∧ (State.popTaken s ring d).ident = s.ident ∧ (State.popTaken s ring d).mem = s.mem := ⟨rfl, rfl, rfl⟩

@[simp] theorem State_refused_keeps (s : State) (d : Bytes) (ridx st : Nat) :
    (State.refused s d ridx st).pending = s.pending ∧ (State.refused s d ridx st).ident = s.ident ∧ (State.refused s d ridx st).mem = s.mem := by
  unfold State.refused
  try dsimp only
  (repeat' split) <;> simp_all [apply_ite]

@[simp] theorem admitReq_keeps (d : Bytes) (prompt : HostRead) (pn : Nat) (p : Partition) (s : State) :
    (admitReq d prompt pn p s).pending = s.pending ∧ (admitReq d prompt pn p s).ident = s.ident := by
  unfold admitReq
  try dsimp only
  (repeat' split) <;> simp_all [apply_ite]

theorem execSubmit_keeps (ring : Nat) (desc : Bytes) (prompt : HostRead) (s : State) :
    ∀ nx, execSubmit ring desc prompt s = .next nx → (nx).pending = s.pending ∧ (nx).ident = s.ident := by
  intro nx h
  unfold execSubmit at h
  try dsimp only at h
  (repeat' split at h) <;> (try cases h) <;> simp_all [apply_ite]

theorem execCancel_keeps (ring : Nat) (desc : Bytes) (s : State) :
    ∀ nx, execCancel ring desc s = .next nx → (nx).pending = s.pending ∧ (nx).ident = s.ident ∧ (nx).mem = s.mem := by
  intro nx h
  unfold execCancel at h
  try dsimp only at h
  (repeat' split at h) <;> (try cases h) <;> simp_all [apply_ite]

theorem execPause_keeps (ring : Nat) (desc : Bytes) (s : State) :
    ∀ nx, execPause ring desc s = .next nx → (nx).pending = s.pending ∧ (nx).ident = s.ident ∧ (nx).mem = s.mem := by
  intro nx h
  unfold execPause at h
  try dsimp only at h
  (repeat' split at h) <;> (try cases h) <;> simp_all [apply_ite]

theorem execResume_keeps (ring : Nat) (desc : Bytes) (s : State) :
    ∀ nx, execResume ring desc s = .next nx → (nx).pending = s.pending ∧ (nx).ident = s.ident ∧ (nx).mem = s.mem := by
  intro nx h
  unfold execResume at h
  try dsimp only at h
  (repeat' split at h) <;> (try cases h) <;> simp_all [apply_ite]

theorem execServingHostAccessFail_keeps (what : ServFail) (s : State) :
    ∀ nx, execServingHostAccessFail what s = .next nx → (nx).pending = s.pending ∧ (nx).ident = s.ident ∧ (nx).mem = s.mem := by
  intro nx h
  unfold execServingHostAccessFail at h
  try dsimp only at h
  (repeat' split at h) <;> (try cases h) <;> simp_all [apply_ite]

@[simp] theorem State_takeSe_keeps (s : State) (ptype node tag : Nat) :
    (State.takeSe s ptype node tag).pending = s.pending ∧ (State.takeSe s ptype node tag).ident = s.ident ∧ (State.takeSe s ptype node tag).mem = s.mem := by
  unfold State.takeSe
  try dsimp only
  (repeat' split) <;> simp_all [apply_ite]

@[simp] theorem State_seReply_keeps (s : State) (node tag gen cls : Nat) (m : SeMsg) :
    (State.seReply s node tag gen cls m).pending = s.pending ∧ (State.seReply s node tag gen cls m).ident = s.ident ∧ (State.seReply s node tag gen cls m).mem = s.mem := by
  unfold State.seReply
  try dsimp only
  (repeat' split) <;> simp_all [apply_ite]

@[simp] theorem acceptOpen_keeps (m : HoOpen) (pn : Nat) (p : Partition) (s : State) :
    (acceptOpen m pn p s).pending = s.pending ∧ (acceptOpen m pn p s).ident = s.ident ∧ (acceptOpen m pn p s).mem = s.mem := by
  unfold acceptOpen
  try dsimp only
  (repeat' split) <;> simp_all [apply_ite]

theorem execHoOpen_keeps (m : HoOpen) (s : State) :
    ∀ nx, execHoOpen m s = .next nx → (nx).pending = s.pending ∧ (nx).ident = s.ident ∧ (nx).mem = s.mem := by
  intro nx h
  unfold execHoOpen at h
  try dsimp only at h
  (repeat' split at h) <;> (try cases h) <;> simp_all [apply_ite]

@[simp] theorem State_closeRecv_keeps (s : State) (ridx : Nat) :
    (State.closeRecv s ridx).pending = s.pending ∧ (State.closeRecv s ridx).ident = s.ident ∧ (State.closeRecv s ridx).mem = s.mem := ⟨rfl, rfl, rfl⟩

@[simp] theorem takeCommit_keeps (node ridx tag gen budget : Nat) (r : Req) (p : Partition) (s : State) :
    (takeCommit node ridx tag gen budget r p s).pending = s.pending ∧ (takeCommit node ridx tag gen budget r p s).ident = s.ident := by
  unfold takeCommit
  try dsimp only
  (repeat' split) <;> simp_all [apply_ite]

theorem execHoCommit_keeps (node ridx tag gen budget : Nat) (s : State) :
    ∀ nx, execHoCommit node ridx tag gen budget s = .next nx → (nx).pending = s.pending ∧ (nx).ident = s.ident := by
  intro nx h
  unfold execHoCommit at h
  try dsimp only at h
  (repeat' split at h) <;> (try cases h) <;> simp_all [apply_ite]

theorem execHoAbort_keeps (node ridx tag gen : Nat) (s : State) :
    ∀ nx, execHoAbort node ridx tag gen s = .next nx → (nx).pending = s.pending ∧ (nx).ident = s.ident := by
  intro nx h
  unfold execHoAbort at h
  try dsimp only at h
  (repeat' split at h) <;> (try cases h) <;> simp_all [apply_ite]

theorem execHoReceiverSilence_keeps (ridx : Nat) (s : State) :
    ∀ nx, execHoReceiverSilence ridx s = .next nx → (nx).pending = s.pending ∧ (nx).ident = s.ident := by
  intro nx h
  unfold execHoReceiverSilence at h
  try dsimp only at h
  (repeat' split at h) <;> (try cases h) <;> simp_all [apply_ite]

theorem execKvship_keeps (p : Packet) (s : State) :
    ∀ nx, execKvship p s = .next nx → (nx).pending = s.pending ∧ (nx).ident = s.ident := by
  intro nx h
  unfold execKvship at h
  try dsimp only at h
  (repeat' split at h) <;> (try cases h) <;> simp_all [apply_ite]

@[simp] theorem State_answered_keeps (s : State) (ridx node : Nat) :
    (State.answered s ridx node).pending = s.pending ∧ (State.answered s ridx node).ident = s.ident := by
  unfold State.answered
  try dsimp only
  (repeat' split) <;> simp_all [apply_ite]

theorem execHoAccept_keeps (ridx peerRidx : Nat) (pages : List Nat) (s : State) :
    ∀ nx, execHoAccept ridx peerRidx pages s = .next nx → (nx).pending = s.pending ∧ (nx).ident = s.ident := by
  intro nx h
  unfold execHoAccept at h
  try dsimp only at h
  (repeat' split at h) <;> (try cases h) <;> simp_all [apply_ite]

theorem execHoRefusal_keeps (ridx status : Nat) (busy : Bool) (s : State) :
    ∀ nx, execHoRefusal ridx status busy s = .next nx → (nx).pending = s.pending ∧ (nx).ident = s.ident := by
  intro nx h
  unfold execHoRefusal at h
  try dsimp only at h
  (repeat' split at h) <;> (try cases h) <;> simp_all [apply_ite]

theorem execHoBusyRetryTimer_keeps (ridx : Nat) (s : State) :
    ∀ nx, execHoBusyRetryTimer ridx s = .next nx → (nx).pending = s.pending ∧ (nx).ident = s.ident := by
  intro nx h
  unfold execHoBusyRetryTimer at h
  try dsimp only at h
  (repeat' split at h) <;> (try cases h) <;> simp_all [apply_ite]

theorem execKvack_keeps (port : Nat) (p : Packet) (s : State) :
    ∀ nx, execKvack port p s = .next nx → (nx).pending = s.pending ∧ (nx).ident = s.ident := by
  intro nx h
  unfold execKvack at h
  try dsimp only at h
  (repeat' split at h) <;> (try cases h) <;> simp_all [apply_ite]

@[simp] theorem handOver_keeps (ridx : Nat) (r : Req) (h : Handoff) (s : State) :
    (handOver ridx r h s).pending = s.pending ∧ (handOver ridx r h s).ident = s.ident := by
  unfold handOver
  try dsimp only
  (repeat' split) <;> simp_all [apply_ite]

theorem execHoCommitComplete_keeps (ridx : Nat) (ok : Bool) (s : State) :
    ∀ nx, execHoCommitComplete ridx ok s = .next nx → (nx).pending = s.pending ∧ (nx).ident = s.ident := by
  intro nx h
  unfold execHoCommitComplete at h
  try dsimp only at h
  (repeat' split at h) <;> (try cases h) <;> simp_all [apply_ite]

@[simp] theorem doSringCreate_keeps (c : Cmd) (s : State) :
    (doSringCreate c s).pending = s.pending ∧ (doSringCreate c s).ident = s.ident ∧ (doSringCreate c s).mem = s.mem := by
  unfold doSringCreate
  try dsimp only
  (repeat' split) <;> simp_all [apply_ite]

theorem execSringCreate_keeps (c : Cmd) (s : State) :
    ∀ nx, execSringCreate c s = .next nx → (nx).pending = s.pending ∧ (nx).ident = s.ident ∧ (nx).mem = s.mem := by
  intro nx h
  cases h
  simp

@[simp] theorem doSringDestroy_keeps (c : Cmd) (s : State) :
    (doSringDestroy c s).pending = s.pending ∧ (doSringDestroy c s).ident = s.ident ∧ (doSringDestroy c s).mem = s.mem := by
  unfold doSringDestroy
  try dsimp only
  (repeat' split) <;> simp_all [apply_ite]

theorem execSringDestroy_keeps (c : Cmd) (s : State) :
    ∀ nx, execSringDestroy c s = .next nx → (nx).pending = s.pending ∧ (nx).ident = s.ident ∧ (nx).mem = s.mem := by
  intro nx h
  cases h
  simp

@[simp] theorem doReqQuery_keeps (c : Cmd) (s : State) :
    (doReqQuery c s).pending = s.pending ∧ (doReqQuery c s).ident = s.ident ∧ (doReqQuery c s).mem = s.mem := by
  unfold doReqQuery
  try dsimp only
  (repeat' split) <;> simp_all [apply_ite]

theorem execReqQuery_keeps (c : Cmd) (s : State) :
    ∀ nx, execReqQuery c s = .next nx → (nx).pending = s.pending ∧ (nx).ident = s.ident ∧ (nx).mem = s.mem := by
  intro nx h
  cases h
  simp

@[simp] theorem State_setKey_keeps (s : State) (k : Nat) (key : Option (BitVec 256)) :
    (State.setKey s k key).pending = s.pending ∧ (State.setKey s k key).ident = s.ident ∧ (State.setKey s k key).mem = s.mem := by
  unfold State.setKey
  try dsimp only
  (repeat' split) <;> simp_all [apply_ite]

@[simp] theorem doTenantKeySet_keeps (c : Cmd) (s : State) :
    (doTenantKeySet c s).pending = s.pending ∧ (doTenantKeySet c s).ident = s.ident ∧ (doTenantKeySet c s).mem = s.mem := by
  unfold doTenantKeySet
  try dsimp only
  (repeat' split) <;> simp_all [apply_ite]

theorem execTenantKeySet_keeps (c : Cmd) (s : State) :
    ∀ nx, execTenantKeySet c s = .next nx → (nx).pending = s.pending ∧ (nx).ident = s.ident ∧ (nx).mem = s.mem := by
  intro nx h
  cases h
  simp

@[simp] theorem ringDoorbell_keeps (output : Bool) (ring : Nat) (value : BitVec 32) (r : SRing) (s : State) :
    (ringDoorbell output ring value r s).pending = s.pending ∧ (ringDoorbell output ring value r s).ident = s.ident ∧ (ringDoorbell output ring value r s).mem = s.mem := by
  unfold ringDoorbell
  try dsimp only
  (repeat' split) <;> simp_all [apply_ite]

@[simp] theorem State_sringDoorbell_keeps (s : State) (port1 output : Bool) (ring : Nat) (value : BitVec 32) :
    (State.sringDoorbell s port1 output ring value).pending = s.pending ∧ (State.sringDoorbell s port1 output ring value).ident = s.ident ∧ (State.sringDoorbell s port1 output ring value).mem = s.mem := by
  unfold State.sringDoorbell
  try dsimp only
  (repeat' split) <;> simp_all [apply_ite]

theorem execSringDb_keeps (port1 output : Bool) (ring : Nat) (value : BitVec 32) (s : State) :
    ∀ nx, execSringDb port1 output ring value s = .next nx → (nx).pending = s.pending ∧ (nx).ident = s.ident ∧ (nx).mem = s.mem := by
  intro nx h
  cases h
  simp

/-! ## The canonical form of the tiers stays -/

@[simp] theorem admitReq_memOk (d : Bytes) (prompt : HostRead) (pn : Nat) (p : Partition) (s : State) (h : MemOk s.mem) :
    MemOk (admitReq d prompt pn p s).mem := by
  induction pn generalizing d prompt p s <;>
  (unfold admitReq; try dsimp only) <;> (repeat' split) <;> simp_all [MemOk]

theorem execSubmit_memOk (ring : Nat) (desc : Bytes) (prompt : HostRead) (s : State) (h : MemOk s.mem) :
    ∀ nx, execSubmit ring desc prompt s = .next nx → MemOk nx.mem := by
  intro nx hx
  unfold execSubmit at hx
  try dsimp only at hx
  (repeat' split at hx) <;> (try cases hx) <;> simp_all [MemOk]

@[simp] theorem takeCommit_memOk (node ridx tag gen budget : Nat) (r : Req) (p : Partition) (s : State) (h : MemOk s.mem) :
    MemOk (takeCommit node ridx tag gen budget r p s).mem := by
  unfold takeCommit
  repeat' (first | assumption | (intro _; done) | split | dsimp only | simp only [State_writeRecord_keeps, State_modReq_keeps, State_refused_keeps, State_seReply_keeps, State_closeRecv_keeps] | with_reducible apply State_writeList_memOk | with_reducible apply foldl_memOk | with_reducible apply foldl_memOkM | intro _)

theorem execHoCommit_memOk (node ridx tag gen budget : Nat) (s : State) (h : MemOk s.mem) :
    ∀ nx, execHoCommit node ridx tag gen budget s = .next nx → MemOk nx.mem := by
  intro nx hx
  unfold execHoCommit at hx
  try dsimp only at hx
  (repeat' split at hx) <;> (try cases hx) <;> simp_all [MemOk]

theorem execHoAbort_memOk (node ridx tag gen : Nat) (s : State) (h : MemOk s.mem) :
    ∀ nx, execHoAbort node ridx tag gen s = .next nx → MemOk nx.mem := by
  intro nx hx
  unfold execHoAbort at hx
  try dsimp only at hx
  (repeat' split at hx) <;> (try cases hx) <;> simp (disch := (intros; (repeat' split) <;> simp_all [MemOk])) [MemOk, *]

theorem execHoReceiverSilence_memOk (ridx : Nat) (s : State) (h : MemOk s.mem) :
    ∀ nx, execHoReceiverSilence ridx s = .next nx → MemOk nx.mem := by
  intro nx hx
  unfold execHoReceiverSilence at hx
  try dsimp only at hx
  (repeat' split at hx) <;> (try cases hx) <;> simp (disch := (intros; (repeat' split) <;> simp_all [MemOk])) [MemOk, *]

theorem execKvship_memOk (p : Packet) (s : State) (h : MemOk s.mem) :
    ∀ nx, execKvship p s = .next nx → MemOk nx.mem := by
  intro nx hx
  unfold execKvship at hx
  try dsimp only at hx
  (repeat' split at hx) <;> (try cases hx) <;> simp_all [MemOk]

@[simp] theorem State_answered_memOk (s : State) (ridx node : Nat) (h : MemOk s.mem) :
    MemOk (State.answered s ridx node).mem := by
  unfold State.answered
  try dsimp only
  (repeat' split) <;> simp_all [MemOk]

theorem execHoAccept_memOk (ridx peerRidx : Nat) (pages : List Nat) (s : State) (h : MemOk s.mem) :
    ∀ nx, execHoAccept ridx peerRidx pages s = .next nx → MemOk nx.mem := by
  intro nx hx
  unfold execHoAccept at hx
  try dsimp only at hx
  (repeat' split at hx) <;> (try cases hx) <;> simp (disch := (intros; (repeat' split) <;> simp_all [MemOk])) [MemOk, *]

theorem execHoRefusal_memOk (ridx status : Nat) (busy : Bool) (s : State) (h : MemOk s.mem) :
    ∀ nx, execHoRefusal ridx status busy s = .next nx → MemOk nx.mem := by
  intro nx hx
  unfold execHoRefusal at hx
  try dsimp only at hx
  (repeat' split at hx) <;> (try cases hx) <;> simp (disch := (intros; (repeat' split) <;> simp_all [MemOk])) [MemOk, *]

theorem execHoBusyRetryTimer_memOk (ridx : Nat) (s : State) (h : MemOk s.mem) :
    ∀ nx, execHoBusyRetryTimer ridx s = .next nx → MemOk nx.mem := by
  intro nx hx
  unfold execHoBusyRetryTimer at hx
  try dsimp only at hx
  (repeat' split at hx) <;> (try cases hx) <;> simp (disch := (intros; (repeat' split) <;> simp_all [MemOk])) [MemOk, *]

theorem execKvack_memOk (port : Nat) (p : Packet) (s : State) (h : MemOk s.mem) :
    ∀ nx, execKvack port p s = .next nx → MemOk nx.mem := by
  intro nx hx
  unfold execKvack at hx
  try dsimp only at hx
  (repeat' split at hx) <;> first | (cases hx; done) | (injection hx with hx; subst hx; repeat' (first | assumption | (intro _; done) | split | dsimp only | simp only [State_modHandoff_keeps, done_keeps, State_countDiscard_keeps, State_endTx_keeps, State_leaveIngress_keeps] | with_reducible apply State_shipMore_memOk | with_reducible apply State_settleFrom_memOk | with_reducible apply State_afterTx_memOk | with_reducible apply foldl_memOk | with_reducible apply foldl_memOkM | intro _))

@[simp] theorem handOver_memOk (ridx : Nat) (r : Req) (h : Handoff) (s : State) (hm : MemOk s.mem) :
    MemOk (handOver ridx r h s).mem := by
  induction ridx generalizing r h s <;>
  (unfold handOver; try dsimp only) <;> (repeat' split) <;> simp_all [MemOk]

theorem execHoCommitComplete_memOk (ridx : Nat) (ok : Bool) (s : State) (h : MemOk s.mem) :
    ∀ nx, execHoCommitComplete ridx ok s = .next nx → MemOk nx.mem := by
  intro nx hx
  unfold execHoCommitComplete at hx
  try dsimp only at hx
  (repeat' split at hx) <;> (try cases hx) <;> simp (disch := (intros; (repeat' split) <;> simp_all [MemOk])) [MemOk, *]

end Sys2Proof.Machine
end

