-- ==== Sys2Proof/Laws/KeepRegisters.lean ====
section
/-! SUPPORT. What no operation or command of Machine/Registers.lean touches: the queue, who owns the device, and (`_keeps`, where it writes no tier) the memory; where it may write one, `_memOk` says the canonical form stays. -/

namespace Sys2Proof.Machine

@[simp] theorem State_writeIntStatus_keeps (s : State) (value hwSet : BitVec 32) :
    (State.writeIntStatus s value hwSet).pending = s.pending ∧ (State.writeIntStatus s value hwSet).ident = s.ident ∧ (State.writeIntStatus s value hwSet).mem = s.mem := by
  unfold State.writeIntStatus
  try dsimp only
  (repeat' split) <;> simp_all [apply_ite]

theorem execCtlIntStatusWrite_keeps (value hwSet : BitVec 32) (s : State) :
    ∀ nx, execCtlIntStatusWrite value hwSet s = .next nx → (nx).pending = s.pending ∧ (nx).ident = s.ident ∧ (nx).mem = s.mem := by
  intro nx h
  cases h
  simp

@[simp] theorem State_writeIntEnable_keeps (s : State) (value : BitVec 32) :
    (State.writeIntEnable s value).pending = s.pending ∧ (State.writeIntEnable s value).ident = s.ident ∧ (State.writeIntEnable s value).mem = s.mem := by
  unfold State.writeIntEnable
  try dsimp only
  (repeat' split) <;> simp_all [apply_ite]

theorem execCtlIntEnableWrite_keeps (value : BitVec 32) (s : State) :
    ∀ nx, execCtlIntEnableWrite value s = .next nx → (nx).pending = s.pending ∧ (nx).ident = s.ident ∧ (nx).mem = s.mem := by
  intro nx h
  cases h
  simp

@[simp] theorem State_armPair0_keeps (s : State) (value : BitVec 32) :
    (State.armPair0 s value).pending = s.pending ∧ (State.armPair0 s value).ident = s.ident ∧ (State.armPair0 s value).mem = s.mem := by
  unfold State.armPair0
  try dsimp only
  (repeat' split) <;> simp_all [apply_ite]

@[simp] theorem State_disarmPair0_keeps (s : State) (value : BitVec 32) :
    (State.disarmPair0 s value).pending = s.pending ∧ (State.disarmPair0 s value).ident = s.ident ∧ (State.disarmPair0 s value).mem = s.mem := by
  unfold State.disarmPair0
  try dsimp only
  (repeat' split) <;> simp_all [apply_ite]

@[simp] theorem State_writeP0Ctl_keeps (s : State) (value : BitVec 32) :
    (State.writeP0Ctl s value).pending = s.pending ∧ (State.writeP0Ctl s value).ident = s.ident ∧ (State.writeP0Ctl s value).mem = s.mem := by
  unfold State.writeP0Ctl
  try dsimp only
  (repeat' split) <;> simp_all [apply_ite]

theorem execP0Arm_keeps (value : BitVec 32) (s : State) :
    ∀ nx, execP0Arm value s = .next nx → (nx).pending = s.pending ∧ (nx).ident = s.ident ∧ (nx).mem = s.mem := by
  intro nx h
  unfold execP0Arm at h
  try dsimp only at h
  (repeat' split at h) <;> (try cases h) <;> simp_all [apply_ite]

theorem execP0Disarm_keeps (value : BitVec 32) (s : State) :
    ∀ nx, execP0Disarm value s = .next nx → (nx).pending = s.pending ∧ (nx).ident = s.ident ∧ (nx).mem = s.mem := by
  intro nx h
  unfold execP0Disarm at h
  try dsimp only at h
  (repeat' split at h) <;> (try cases h) <;> simp_all [apply_ite]

@[simp] theorem State_windowFetch_keeps (s : State) (n : Nat) :
    (State.windowFetch s n).pending = s.pending ∧ (State.windowFetch s n).ident = s.ident ∧ (State.windowFetch s n).mem = s.mem := ⟨rfl, rfl, rfl⟩

@[simp] theorem State_writeWinSeq_keeps (s : State) (value : BitVec 32) :
    (State.writeWinSeq s value).pending = s.pending ∧ (State.writeWinSeq s value).ident = s.ident ∧ (State.writeWinSeq s value).mem = s.mem := ⟨rfl, rfl, rfl⟩

theorem execEvrWinSeqWrite_keeps (value : BitVec 32) (s : State) :
    ∀ nx, execEvrWinSeqWrite value s = .next nx → (nx).pending = s.pending ∧ (nx).ident = s.ident ∧ (nx).mem = s.mem := by
  intro nx h
  cases h
  simp

@[simp] theorem State_writeWinCtl_keeps (s : State) (value : BitVec 32) :
    (State.writeWinCtl s value).pending = s.pending ∧ (State.writeWinCtl s value).ident = s.ident ∧ (State.writeWinCtl s value).mem = s.mem := by
  unfold State.writeWinCtl
  try dsimp only
  (repeat' split) <;> simp_all [apply_ite]

theorem execEvrWinNext_keeps (value : BitVec 32) (s : State) :
    ∀ nx, execEvrWinNext value s = .next nx → (nx).pending = s.pending ∧ (nx).ident = s.ident ∧ (nx).mem = s.mem := by
  intro nx h
  cases h
  simp

theorem execEvrWinFetchDone_keeps (s : State) :
    ∀ nx, execEvrWinFetchDone s = .next nx → (nx).pending = s.pending ∧ (nx).ident = s.ident ∧ (nx).mem = s.mem := by
  intro nx h
  unfold execEvrWinFetchDone at h
  try dsimp only at h
  (repeat' split at h) <;> (try cases h) <;> simp_all [apply_ite]

theorem execCtlTickLowRead_keeps (s : State) :
    ∀ nx, execCtlTickLowRead s = .next nx → (nx).pending = s.pending ∧ (nx).ident = s.ident ∧ (nx).mem = s.mem := by
  intro nx h
  cases h
  simp

theorem execManagerHeartbeat_keeps (s : State) :
    ∀ nx, execManagerHeartbeat s = .next nx → (nx).pending = s.pending ∧ (nx).ident = s.ident ∧ (nx).mem = s.mem := by
  intro nx h
  unfold execManagerHeartbeat at h
  try dsimp only at h
  (repeat' split at h) <;> (try cases h) <;> simp_all [apply_ite]

theorem execFirmwareHeartbeat_keeps (s : State) :
    ∀ nx, execFirmwareHeartbeat s = .next nx → (nx).pending = s.pending ∧ (nx).ident = s.ident ∧ (nx).mem = s.mem := by
  intro nx h
  unfold execFirmwareHeartbeat at h
  try dsimp only at h
  (repeat' split at h) <;> (try cases h) <;> simp_all [apply_ite]

@[simp] theorem State_writeBase_keeps (s : State) (off : Nat) (value : BitVec 64) :
    (State.writeBase s off value).pending = s.pending ∧ (State.writeBase s off value).ident = s.ident ∧ (State.writeBase s off value).mem = s.mem := by
  unfold State.writeBase
  try dsimp only
  (repeat' split) <;> simp_all [apply_ite]

@[simp] theorem State_writeHalf_keeps (s : State) (off : Nat) (value : BitVec 32) :
    (State.writeHalf s off value).pending = s.pending ∧ (State.writeHalf s off value).ident = s.ident ∧ (State.writeHalf s off value).mem = s.mem := by
  unfold State.writeHalf
  try dsimp only
  (repeat' split) <;> simp_all [apply_ite]

@[simp] theorem State_writeMsix_keeps (s : State) (vec word : Nat) (value : BitVec 32) :
    (State.writeMsix s vec word value).pending = s.pending ∧ (State.writeMsix s vec word value).ident = s.ident ∧ (State.writeMsix s vec word value).mem = s.mem := by
  unfold State.writeMsix
  try dsimp only
  (repeat' split) <;> simp_all [apply_ite]

@[simp] theorem State_writeReg_keeps (s : State) (off : Nat) (value : BitVec 32) :
    (State.writeReg s off value).pending = s.pending ∧ (State.writeReg s off value).ident = s.ident ∧ (State.writeReg s off value).mem = s.mem := by
  unfold State.writeReg
  refine ⟨?_, ?_, ?_⟩ <;> simp only [apply_ite State.pending, apply_ite State.ident, apply_ite State.mem, State_writeIntStatus_keeps, State_writeIntEnable_keeps, State_writeHalf_keeps, State_writeP0Ctl_keeps, State_commandDoorbell_keeps, State_completionDoorbell_keeps, State_sringDoorbell_keeps, State_writeWinSeq_keeps, State_writeWinCtl_keeps, State_writeMsix_keeps, ite_self]


@[simp] theorem State_writeReg8_keeps (s : State) (off : Nat) (value : BitVec 64) :
    (State.writeReg8 s off value).pending = s.pending ∧ (State.writeReg8 s off value).ident = s.ident ∧ (State.writeReg8 s off value).mem = s.mem := by
  unfold State.writeReg8
  try dsimp only
  (repeat' split) <;> simp_all [apply_ite]

theorem execRegisterWrite_keeps (offset width : Nat) (value : BitVec 64) (s : State) :
    ∀ nx, execRegisterWrite offset width value s = .next nx → (nx).pending = s.pending ∧ (nx).ident = s.ident ∧ (nx).mem = s.mem := by
  intro nx h
  unfold execRegisterWrite at h
  try dsimp only at h
  (repeat' split at h) <;> (try cases h) <;> simp_all [apply_ite]

end Sys2Proof.Machine
end

