-- ==== Sys2Proof/Laws/KeepResetOps.lean ====
section
/-! SUPPORT. What no operation or command of Machine/ResetOps.lean touches: the queue, who owns the device, and (`_keeps`, where it writes no tier) the memory; where it may write one, `_memOk` says the canonical form stays. -/

namespace Sys2Proof.Machine

@[simp] theorem State_commitRecords_keeps (s : State) :
    (State.commitRecords s).pending = s.pending ∧ (State.commitRecords s).ident = s.ident ∧ (State.commitRecords s).mem = s.mem := by
  unfold State.commitRecords
  try dsimp only
  (repeat' split) <;> simp_all [apply_ite]

@[simp] theorem State_endTrial_keeps (s : State) :
    (State.endTrial s).pending = s.pending ∧ (State.endTrial s).ident = s.ident ∧ (State.endTrial s).mem = s.mem := by
  unfold State.endTrial
  try dsimp only
  (repeat' split) <;> simp_all [apply_ite]

@[simp] theorem State_sayVerdict_keeps (s : State) (body : Bytes) (bits : BitVec 32) :
    (State.sayVerdict s body bits).pending = s.pending ∧ (State.sayVerdict s body bits).ident = s.ident ∧ (State.sayVerdict s body bits).mem = s.mem := by
  unfold State.sayVerdict
  try dsimp only
  (repeat' split) <;> simp_all [apply_ite]

@[simp] theorem State_tellInterrupted_keeps (s : State) :
    (State.tellInterrupted s).pending = s.pending ∧ (State.tellInterrupted s).ident = s.ident ∧ (State.tellInterrupted s).mem = s.mem := by
  unfold State.tellInterrupted
  try dsimp only
  (repeat' split) <;> simp_all [apply_ite]

@[simp] theorem State_raiseSvn_keeps (s : State) :
    (State.raiseSvn s).pending = s.pending ∧ (State.raiseSvn s).ident = s.ident ∧ (State.raiseSvn s).mem = s.mem := by
  unfold State.raiseSvn
  try dsimp only
  (repeat' split) <;> simp_all [apply_ite]

@[simp] theorem State_openDevice_keeps (s : State) :
    (State.openDevice s).pending = s.pending ∧ (State.openDevice s).ident = s.ident ∧ (State.openDevice s).mem = s.mem := by
  unfold State.openDevice
  try dsimp only
  (repeat' split) <;> simp_all [apply_ite]

@[simp] theorem State_cork_keeps (s : State) :
    (State.cork s).pending = s.pending ∧ (State.cork s).ident = s.ident ∧ (State.cork s).mem = s.mem := ⟨rfl, rfl, rfl⟩

@[simp] theorem State_failTasting_keeps (s : State) (cause unit ukind detail : Nat) :
    (State.failTasting s cause unit ukind detail).pending = s.pending ∧ (State.failTasting s cause unit ukind detail).ident = s.ident ∧ (State.failTasting s cause unit ukind detail).mem = s.mem := by
  unfold State.failTasting
  try dsimp only
  (repeat' split) <;> simp_all [apply_ite]

@[simp] theorem State_endHolds_keeps (s : State) :
    (State.endHolds s).pending = s.pending ∧ (State.endHolds s).ident.title = s.ident.title ∧ (State.endHolds s).mem = s.mem := by
  simp [State.endHolds, Ident.title]


@[simp] theorem State_wipe_keeps (s : State) (rtype : Nat) :
    (State.wipe s rtype).pending = s.pending ∧ (State.wipe s rtype).ident.title = s.ident.title := by
  simp [State.wipe, State.endHolds, Ident.title]


@[simp] theorem State_warmReset_keeps (s : State) (rtype : Nat) :
    (State.warmReset s rtype).pending = s.pending ∧ (State.warmReset s rtype).ident.title = s.ident.title := by
  unfold State.warmReset
  try dsimp only
  (repeat' split) <;> simp_all [apply_ite]

@[simp] theorem State_beginTasting_keeps (s : State) :
    (State.beginTasting s).pending = s.pending ∧ (State.beginTasting s).ident = s.ident ∧ (State.beginTasting s).mem = s.mem := by
  unfold State.beginTasting
  try dsimp only
  (repeat' split) <;> simp_all [apply_ite]

@[simp] theorem State_sampleStraps_keeps (s : State) (x : Straps) :
    (State.sampleStraps s x).pending = s.pending ∧ (State.sampleStraps s x).ident = s.ident ∧ (State.sampleStraps s x).mem = s.mem := ⟨rfl, rfl, rfl⟩

@[simp] theorem State_recorderOff_keeps (s : State) (held : Bool) :
    (State.recorderOff s held).pending = s.pending ∧ (State.recorderOff s held).ident = s.ident ∧ (State.recorderOff s held).mem = s.mem := by
  unfold State.recorderOff
  try dsimp only
  (repeat' split) <;> simp_all [apply_ite]

@[simp] theorem State_powerOff_keeps (s : State) (held : Bool) :
    (State.powerOff s held).pending = s.pending ∧ (State.powerOff s held).ident.title = s.ident.title := by
  unfold State.powerOff
  try dsimp only
  (repeat' split) <;> simp_all [apply_ite]

@[simp] theorem State_releaseHostLines_keeps (s : State) :
    (State.releaseHostLines s).pending = s.pending ∧ (State.releaseHostLines s).ident = s.ident := by
  unfold State.releaseHostLines
  try dsimp only
  (repeat' split) <;> simp_all [apply_ite]

@[simp] theorem State_callBackAll_keeps (s : State) :
    (State.callBackAll s).pending = s.pending ∧ (State.callBackAll s).ident = s.ident ∧ (State.callBackAll s).mem = s.mem := ⟨rfl, rfl, rfl⟩

@[simp] theorem State_endSideband_keeps (s : State) :
    (State.endSideband s).pending = s.pending ∧ (State.endSideband s).ident = s.ident ∧ (State.endSideband s).mem = s.mem := by
  unfold State.endSideband
  try dsimp only
  (repeat' split) <;> simp_all [apply_ite]

@[simp] theorem State_flrOpen_keeps (s : State) (discard : Bool) :
    (State.flrOpen s discard).pending = s.pending ∧ (State.flrOpen s discard).ident.title = s.ident.title := by
  unfold State.flrOpen
  try dsimp only
  (repeat' split) <;> simp_all [apply_ite]

@[simp] theorem State_flrClosed_keeps (s : State) :
    (State.flrClosed s).pending = s.pending ∧ (State.flrClosed s).ident.title = s.ident.title ∧ (State.flrClosed s).mem = s.mem := by
  unfold State.flrClosed
  try dsimp only
  (repeat' split) <;> simp_all [apply_ite]

@[simp] theorem State_flr_keeps (s : State) (discard : Bool) :
    (State.flr s discard).pending = s.pending ∧ (State.flr s discard).ident.title = s.ident.title := by
  unfold State.flr
  try dsimp only
  (repeat' split) <;> simp_all [apply_ite]

/-! ## The canonical form of the tiers stays -/

@[simp] theorem State_wipe_memOk (s : State) (rtype : Nat) (h : MemOk s.mem) :
    MemOk (State.wipe s rtype).mem := by
  exact ⟨rfl, rfl, rfl⟩


@[simp] theorem State_warmReset_memOk (s : State) (rtype : Nat) (h : MemOk s.mem) :
    MemOk (State.warmReset s rtype).mem := by
  unfold State.warmReset
  try dsimp only
  (repeat' split) <;> simp_all [MemOk]

@[simp] theorem State_powerOff_memOk (s : State) (held : Bool) (h : MemOk s.mem) :
    MemOk (State.powerOff s held).mem := by
  unfold State.powerOff
  try dsimp only
  (repeat' split) <;> simp_all [MemOk]

@[simp] theorem State_releaseHostLines_memOk (s : State) (h : MemOk s.mem) :
    MemOk (State.releaseHostLines s).mem := by
  unfold State.releaseHostLines
  try dsimp only
  (repeat' split) <;> simp (disch := (intros; (repeat' split) <;> simp_all [MemOk])) [MemOk, *]

@[simp] theorem Memory_flr_memOk (m : Memory) (h : MemOk m) :
    MemOk ((Memory.flr m)) := by
  unfold Memory.flr
  try dsimp only
  (repeat' split) <;> simp_all [MemOk]

@[simp] theorem State_flrOpen_memOk (s : State) (discard : Bool) (h : MemOk s.mem) :
    MemOk (State.flrOpen s discard).mem := by
  unfold State.flrOpen
  repeat' (first | assumption | (intro _; done) | split | dsimp only | simp only [State_respondErr_keeps, State_tellInterrupted_keeps, State_endHolds_keeps, State_callBackAll_keeps, State_endSideband_keeps] | with_reducible apply State_releaseHostLines_memOk | with_reducible apply Memory_flr_memOk | with_reducible apply State_flr_memOk | with_reducible apply foldl_memOk | with_reducible apply foldl_memOkM | intro _)

@[simp] theorem State_flr_memOk (s : State) (discard : Bool) (h : MemOk s.mem) :
    MemOk (State.flr s discard).mem := by
  unfold State.flr
  try dsimp only
  (repeat' split) <;> simp_all [MemOk]

end Sys2Proof.Machine
end

