-- ==== Sys2Proof/Laws/KeepStartup.lean ====
section
/-! SUPPORT. What no operation or command of Machine/Startup.lean touches: the queue, who owns the device, and (`_keeps`, where it writes no tier) the memory; where it may write one, `_memOk` says the canonical form stays. -/

namespace Sys2Proof.Machine

theorem execVinAuxPowerUp_keeps (s : State) :
    ∀ nx, execVinAuxPowerUp s = .next nx → (nx).pending = s.pending ∧ (nx).ident = s.ident ∧ (nx).mem = s.mem := by
  intro nx h
  unfold execVinAuxPowerUp at h
  try dsimp only at h
  (repeat' split at h) <;> (try cases h) <;> simp_all [apply_ite]

theorem execPwrokRise_keeps (straps : Straps) (s : State) :
    ∀ nx, execPwrokRise straps s = .next nx → (nx).pending = s.pending ∧ (nx).ident.title = s.ident.title := by
  intro nx h
  unfold execPwrokRise at h
  try dsimp only at h
  (repeat' split at h) <;> (try cases h) <;> simp_all [apply_ite]

theorem execPerstNRise_keeps (straps : Straps) (s : State) :
    ∀ nx, execPerstNRise straps s = .next nx → (nx).pending = s.pending ∧ (nx).ident.title = s.ident.title := by
  intro nx h
  unfold execPerstNRise at h
  try dsimp only at h
  (repeat' split at h) <;> (try cases h) <;> simp_all [apply_ite]

theorem execPerstNFall_keeps (s : State) :
    ∀ nx, execPerstNFall s = .next nx → (nx).pending = s.pending ∧ (nx).ident.title = s.ident.title := by
  intro nx h
  unfold execPerstNFall at h
  try dsimp only at h
  (repeat' split at h) <;> (try cases h) <;> simp_all [apply_ite]

theorem execVinAuxLoss_keeps (held50ms : Bool) (s : State) :
    ∀ nx, execVinAuxLoss held50ms s = .next nx → (nx).pending = s.pending ∧ (nx).ident.title = s.ident.title := by
  intro nx h
  unfold execVinAuxLoss at h
  try dsimp only at h
  (repeat' split at h) <;> (try cases h) <;> simp_all [apply_ite]

@[simp] theorem State_supplyReset_keeps (s : State) (rail : Nat) :
    (State.supplyReset s rail).pending = s.pending ∧ (State.supplyReset s rail).ident.title = s.ident.title := by
  unfold State.supplyReset
  try dsimp only
  (repeat' split) <;> simp_all [apply_ite]

theorem execRailResetLevel_keeps (rail : Nat) (s : State) :
    ∀ nx, execRailResetLevel rail s = .next nx → (nx).pending = s.pending ∧ (nx).ident.title = s.ident.title := by
  intro nx h
  unfold execRailResetLevel at h
  try dsimp only at h
  (repeat' split at h) <;> (try cases h) <;> simp_all [apply_ite]

theorem execSupplyResetRecovery_keeps (straps : Straps) (s : State) :
    ∀ nx, execSupplyResetRecovery straps s = .next nx → (nx).pending = s.pending ∧ (nx).ident.title = s.ident.title := by
  intro nx h
  unfold execSupplyResetRecovery at h
  try dsimp only at h
  (repeat' split at h) <;> (try cases h) <;> simp_all [apply_ite]

@[simp] theorem State_toNextStage_keeps (s : State) :
    (State.toNextStage s).pending = s.pending ∧ (State.toNextStage s).ident = s.ident ∧ (State.toNextStage s).mem = s.mem := ⟨rfl, rfl, rfl⟩

@[simp] theorem State_deriveKeys_keeps (s : State) :
    (State.deriveKeys s).pending = s.pending ∧ (State.deriveKeys s).ident.title = s.ident.title ∧ (State.deriveKeys s).mem = s.mem := ⟨rfl, rfl, rfl⟩

@[simp] theorem State_passStage_keeps (s : State) :
    (State.passStage s).pending = s.pending ∧ (State.passStage s).ident.title = s.ident.title := by
  unfold State.passStage
  dsimp only
  (repeat' split) <;> first | (simp; done) | (simp; simp [Ident.title])


theorem execTastingStageComplete_keeps (r : StageResult) (s : State) :
    ∀ nx, execTastingStageComplete r s = .next nx → (nx).pending = s.pending ∧ (nx).ident.title = s.ident.title := by
  intro nx h
  unfold execTastingStageComplete at h
  try dsimp only at h
  (repeat' split at h) <;> (try cases h) <;> simp_all [apply_ite]

theorem execTastingStageTimeout_keeps (s : State) :
    ∀ nx, execTastingStageTimeout s = .next nx → (nx).pending = s.pending ∧ (nx).ident = s.ident ∧ (nx).mem = s.mem := by
  intro nx h
  unfold execTastingStageTimeout at h
  try dsimp only at h
  (repeat' split at h) <;> (try cases h) <;> simp_all [apply_ite]

theorem execWatchdogExpiry_keeps (s : State) :
    ∀ nx, execWatchdogExpiry s = .next nx → (nx).pending = s.pending ∧ (nx).ident.title = s.ident.title := by
  intro nx h
  unfold execWatchdogExpiry at h
  try dsimp only at h
  (repeat' split at h) <;> (try cases h) <;> simp_all [apply_ite]

theorem execCorkFinalTimer_keeps (s : State) :
    ∀ nx, execCorkFinalTimer s = .next nx → (nx).pending = s.pending ∧ (nx).ident = s.ident ∧ (nx).mem = s.mem := by
  intro nx h
  unfold execCorkFinalTimer at h
  try dsimp only at h
  (repeat' split at h) <;> (try cases h) <;> simp_all [apply_ite]

theorem execFunctionLevelReset_keeps (s : State) :
    ∀ nx, execFunctionLevelReset s = .next nx → (nx).pending = s.pending ∧ (nx).ident.title = s.ident.title := by
  intro nx h
  unfold execFunctionLevelReset at h
  try dsimp only at h
  (repeat' split at h) <;> (try cases h) <;> simp_all [apply_ite]

theorem execCxlLinkDown_keeps (s : State) :
    ∀ nx, execCxlLinkDown s = .next nx → (nx).pending = s.pending ∧ (nx).ident.title = s.ident.title := by
  intro nx h
  unfold execCxlLinkDown at h
  try dsimp only at h
  (repeat' split at h) <;> (try cases h) <;> simp_all [apply_ite]

@[simp] theorem State_dropPort1Rings_keeps (s : State) :
    (State.dropPort1Rings s).pending = s.pending ∧ (State.dropPort1Rings s).ident = s.ident ∧ (State.dropPort1Rings s).mem = s.mem := by
  unfold State.dropPort1Rings
  try dsimp only
  (repeat' split) <;> simp_all [apply_ite]

theorem execPort1Flr_keeps (s : State) :
    ∀ nx, execPort1Flr s = .next nx → (nx).pending = s.pending ∧ (nx).ident = s.ident ∧ (nx).mem = s.mem := by
  intro nx h
  unfold execPort1Flr at h
  try dsimp only at h
  (repeat' split at h) <;> (try cases h) <;> simp_all [apply_ite]

theorem execPort1LinkDown_keeps (s : State) :
    ∀ nx, execPort1LinkDown s = .next nx → (nx).pending = s.pending ∧ (nx).ident = s.ident ∧ (nx).mem = s.mem := by
  intro nx h
  cases h
  simp

@[simp] theorem State_slowLink_keeps (s : State) (port width rate : Nat) :
    (State.slowLink s port width rate).pending = s.pending ∧ (State.slowLink s port width rate).ident = s.ident ∧ (State.slowLink s port width rate).mem = s.mem := by
  unfold State.slowLink
  try dsimp only
  (repeat' split) <;> simp_all [apply_ite]

@[simp] theorem State_port0Trained_keeps (s : State) (width rate : Nat) (cxl flit256 : Bool) :
    (State.port0Trained s width rate cxl flit256).pending = s.pending ∧ (State.port0Trained s width rate cxl flit256).ident = s.ident ∧ (State.port0Trained s width rate cxl flit256).mem = s.mem := by
  unfold State.port0Trained
  try dsimp only
  (repeat' split) <;> simp_all [apply_ite]

theorem execCxlLinkTrained_keeps (port width rate : Nat) (cxl flit256 : Bool) (s : State) :
    ∀ nx, execCxlLinkTrained port width rate cxl flit256 s = .next nx → (nx).pending = s.pending ∧ (nx).ident.title = s.ident.title := by
  intro nx h
  unfold execCxlLinkTrained at h
  try dsimp only at h
  (repeat' split at h) <;> (try cases h) <;> simp_all [apply_ite]

/-! ## The canonical form of the tiers stays -/

theorem execPwrokRise_memOk (straps : Straps) (s : State) (h : MemOk s.mem) :
    ∀ nx, execPwrokRise straps s = .next nx → MemOk nx.mem := by
  intro nx hx
  unfold execPwrokRise at hx
  try dsimp only at hx
  (repeat' split at hx) <;> (try cases hx) <;> simp_all [MemOk]

theorem execPerstNRise_memOk (straps : Straps) (s : State) (h : MemOk s.mem) :
    ∀ nx, execPerstNRise straps s = .next nx → MemOk nx.mem := by
  intro nx hx
  unfold execPerstNRise at hx
  try dsimp only at hx
  (repeat' split at hx) <;> (try cases hx) <;> simp_all [MemOk]

theorem execPerstNFall_memOk (s : State) (h : MemOk s.mem) :
    ∀ nx, execPerstNFall s = .next nx → MemOk nx.mem := by
  intro nx hx
  unfold execPerstNFall at hx
  try dsimp only at hx
  (repeat' split at hx) <;> (try cases hx) <;> simp_all [MemOk]

theorem execVinAuxLoss_memOk (held50ms : Bool) (s : State) (h : MemOk s.mem) :
    ∀ nx, execVinAuxLoss held50ms s = .next nx → MemOk nx.mem := by
  intro nx hx
  unfold execVinAuxLoss at hx
  try dsimp only at hx
  (repeat' split at hx) <;> (try cases hx) <;> simp_all [MemOk]

@[simp] theorem State_supplyReset_memOk (s : State) (rail : Nat) (h : MemOk s.mem) :
    MemOk (State.supplyReset s rail).mem := by
  unfold State.supplyReset
  try dsimp only
  (repeat' split) <;> simp_all [MemOk]

theorem execRailResetLevel_memOk (rail : Nat) (s : State) (h : MemOk s.mem) :
    ∀ nx, execRailResetLevel rail s = .next nx → MemOk nx.mem := by
  intro nx hx
  unfold execRailResetLevel at hx
  try dsimp only at hx
  (repeat' split at hx) <;> (try cases hx) <;> simp_all [MemOk]

theorem execSupplyResetRecovery_memOk (straps : Straps) (s : State) (h : MemOk s.mem) :
    ∀ nx, execSupplyResetRecovery straps s = .next nx → MemOk nx.mem := by
  intro nx hx
  unfold execSupplyResetRecovery at hx
  try dsimp only at hx
  (repeat' split at hx) <;> (try cases hx) <;> simp_all [MemOk]

@[simp] theorem State_passStage_memOk (s : State) (h : MemOk s.mem) :
    MemOk (State.passStage s).mem := by
  unfold State.passStage
  try dsimp only
  (repeat' split) <;> simp_all [MemOk]

theorem execTastingStageComplete_memOk (r : StageResult) (s : State) (h : MemOk s.mem) :
    ∀ nx, execTastingStageComplete r s = .next nx → MemOk nx.mem := by
  intro nx hx
  unfold execTastingStageComplete at hx
  try dsimp only at hx
  (repeat' split at hx) <;> (try cases hx) <;> simp_all [MemOk]

theorem execWatchdogExpiry_memOk (s : State) (h : MemOk s.mem) :
    ∀ nx, execWatchdogExpiry s = .next nx → MemOk nx.mem := by
  intro nx hx
  unfold execWatchdogExpiry at hx
  try dsimp only at hx
  (repeat' split at hx) <;> (try cases hx) <;> simp_all [MemOk]

theorem execFunctionLevelReset_memOk (s : State) (h : MemOk s.mem) :
    ∀ nx, execFunctionLevelReset s = .next nx → MemOk nx.mem := by
  intro nx hx
  unfold execFunctionLevelReset at hx
  try dsimp only at hx
  (repeat' split at hx) <;> (try cases hx) <;> simp_all [MemOk]

theorem execCxlLinkDown_memOk (s : State) (h : MemOk s.mem) :
    ∀ nx, execCxlLinkDown s = .next nx → MemOk nx.mem := by
  intro nx hx
  unfold execCxlLinkDown at hx
  try dsimp only at hx
  (repeat' split at hx) <;> (try cases hx) <;> simp_all [MemOk]

theorem execCxlLinkTrained_memOk (port width rate : Nat) (cxl flit256 : Bool) (s : State) (h : MemOk s.mem) :
    ∀ nx, execCxlLinkTrained port width rate cxl flit256 s = .next nx → MemOk nx.mem := by
  intro nx hx
  unfold execCxlLinkTrained at hx
  try dsimp only at hx
  (repeat' split at hx) <;> (try cases hx) <;> simp_all [MemOk]

end Sys2Proof.Machine
end

