-- ==== Sys2Proof/Laws/KeepAttach.lean ====
section
/-! SUPPORT. What no operation or command of Machine/Attach.lean touches: the queue, who owns the device, and (`_keeps`, where it writes no tier) the memory; where it may write one, `_memOk` says the canonical form stays. -/

namespace Sys2Proof.Machine

theorem execCxlCacheResponse_keeps (addr : Nat) (r : HostRead) (s : State) :
    ∀ nx, execCxlCacheResponse addr r s = .next nx → (nx).pending = s.pending ∧ (nx).ident = s.ident := by
  intro nx h
  unfold execCxlCacheResponse at h
  try dsimp only at h
  (repeat' split at h) <;> (try cases h) <;> simp_all [apply_ite]

@[simp] theorem State_answerHost_keeps (s : State) (line : Nat) (b : Bytes) (poison : Bool) :
    (State.answerHost s line b poison).pending = s.pending ∧ (State.answerHost s line b poison).ident = s.ident ∧ (State.answerHost s line b poison).mem = s.mem := ⟨rfl, rfl, rfl⟩

@[simp] theorem State_snoopLine_keeps (s : State) (hpa a kind : Nat) (l : RimLine) :
    (State.snoopLine s hpa a kind l).pending = s.pending ∧ (State.snoopLine s hpa a kind l).ident = s.ident := by
  unfold State.snoopLine
  try dsimp only
  (repeat' split) <;> simp_all [apply_ite]

theorem execHostSnoop_keeps (addr kind : Nat) (s : State) :
    ∀ nx, execHostSnoop addr kind s = .next nx → (nx).pending = s.pending ∧ (nx).ident = s.ident := by
  intro nx h
  unfold execHostSnoop at h
  try dsimp only at h
  (repeat' split at h) <;> (try cases h) <;> simp_all [apply_ite]

@[simp] theorem State_flushHostLines_keeps (s : State) :
    (State.flushHostLines s).pending = s.pending ∧ (State.flushHostLines s).ident = s.ident := ⟨rfl, rfl⟩

theorem execGpfPhase1_keeps (s : State) :
    ∀ nx, execGpfPhase1 s = .next nx → (nx).pending = s.pending ∧ (nx).ident = s.ident := by
  intro nx h
  unfold execGpfPhase1 at h
  try dsimp only at h
  (repeat' split at h) <;> (try cases h) <;> simp_all [apply_ite]

theorem execHdmDecoderCommit_keeps (base size skip : Nat) (ways : Nat) (biEnable : Bool) (s : State) :
    ∀ nx, execHdmDecoderCommit base size skip ways biEnable s = .next nx → (nx).pending = s.pending ∧ (nx).ident = s.ident ∧ (nx).mem = s.mem := by
  intro nx h
  unfold execHdmDecoderCommit at h
  try dsimp only at h
  (repeat' split at h) <;> (try cases h) <;> simp_all [apply_ite]

@[simp] theorem State_hostRequest_keeps (s : State) (x : Access) (found : Ecc) :
    (State.hostRequest s x found).pending = s.pending ∧ (State.hostRequest s x found).ident = s.ident := by
  unfold State.hostRequest
  try dsimp only
  (repeat' split) <;> simp_all [apply_ite]

theorem execCxlMemRequest_keeps (hpa : Nat) (write : Option Bytes) (metaShared : Bool) (found : Ecc) (s : State) :
    ∀ nx, execCxlMemRequest hpa write metaShared found s = .next nx → (nx).pending = s.pending ∧ (nx).ident = s.ident := by
  intro nx h
  unfold execCxlMemRequest at h
  split at h
  · split at h
    · split at h <;> (injection h with h; subst h; simp)
    · injection h with h; subst h; simp
  · injection h with h; subst h; simp

theorem execBirsp_keeps (addr : Nat) (s : State) :
    ∀ nx, execBirsp addr s = .next nx → (nx).pending = s.pending ∧ (nx).ident = s.ident := by
  intro nx h
  unfold execBirsp at h
  try dsimp only at h
  (repeat' split at h) <;> (try cases h) <;> simp_all [apply_ite]

theorem execIdeIntegrityFailure_keeps (stream : Nat) (s : State) :
    ∀ nx, execIdeIntegrityFailure stream s = .next nx → (nx).pending = s.pending ∧ (nx).ident = s.ident ∧ (nx).mem = s.mem := by
  intro nx h
  unfold execIdeIntegrityFailure at h
  try dsimp only at h
  (repeat' split at h) <;> (try cases h) <;> simp_all [apply_ite]

/-! ## The canonical form of the tiers stays -/

theorem execCxlCacheResponse_memOk (addr : Nat) (r : HostRead) (s : State) (h : MemOk s.mem) :
    ∀ nx, execCxlCacheResponse addr r s = .next nx → MemOk nx.mem := by
  intro nx hx
  unfold execCxlCacheResponse at hx
  try dsimp only at hx
  (repeat' split at hx) <;> (try cases hx) <;> simp_all [MemOk]

@[simp] theorem Memory_setLine_memOk (m : Memory) (a : Nat) (l : Option RimLine) (h : MemOk m) :
    MemOk ((Memory.setLine m a l)) := by
  unfold Memory.setLine
  try dsimp only
  (repeat' split) <;> simp_all [MemOk]

@[simp] theorem State_snoopLine_memOk (s : State) (hpa a kind : Nat) (l : RimLine) (h : MemOk s.mem) :
    MemOk (State.snoopLine s hpa a kind l).mem := by
  unfold State.snoopLine
  try dsimp only
  (repeat' split) <;> simp_all [MemOk]

theorem execHostSnoop_memOk (addr kind : Nat) (s : State) (h : MemOk s.mem) :
    ∀ nx, execHostSnoop addr kind s = .next nx → MemOk nx.mem := by
  intro nx hx
  unfold execHostSnoop at hx
  try dsimp only at hx
  (repeat' split at hx) <;> (try cases hx) <;> simp_all [MemOk]

@[simp] theorem State_flushHostLines_memOk (s : State) (h : MemOk s.mem) :
    MemOk (State.flushHostLines s).mem := by
  unfold State.flushHostLines
  try dsimp only
  (repeat' split) <;> simp (disch := (intros; (repeat' split) <;> simp_all [MemOk])) [MemOk, *]

theorem execGpfPhase1_memOk (s : State) (h : MemOk s.mem) :
    ∀ nx, execGpfPhase1 s = .next nx → MemOk nx.mem := by
  intro nx hx
  unfold execGpfPhase1 at hx
  try dsimp only at hx
  (repeat' split at hx) <;> (try cases hx) <;> simp_all [MemOk]

@[simp] theorem State_hostRequest_memOk (s : State) (x : Access) (found : Ecc) (h : MemOk s.mem) :
    MemOk (State.hostRequest s x found).mem := by
  unfold State.hostRequest
  try dsimp only
  (repeat' split) <;> simp_all [MemOk]

theorem execCxlMemRequest_memOk (hpa : Nat) (write : Option Bytes) (metaShared : Bool) (found : Ecc) (s : State) (h : MemOk s.mem) :
    ∀ nx, execCxlMemRequest hpa write metaShared found s = .next nx → MemOk nx.mem := by
  intro nx hx
  unfold execCxlMemRequest at hx
  split at hx
  · split at hx
    · split at hx
      · injection hx with hx
        subst hx
        exact State_hostRequest_memOk _ _ _ h
      · injection hx with hx
        subst hx
        simpa using h
    · injection hx with hx; subst hx; exact h
  · injection hx with hx; subst hx; exact h

theorem execBirsp_memOk (addr : Nat) (s : State) (h : MemOk s.mem) :
    ∀ nx, execBirsp addr s = .next nx → MemOk nx.mem := by
  intro nx hx
  unfold execBirsp at hx
  try dsimp only at hx
  (repeat' split at hx) <;> (try cases hx) <;> simp_all [MemOk]

end Sys2Proof.Machine
end

