-- ==== Sys2Proof/Laws/KeepTileOps.lean ====
section
/-! SUPPORT. What no operation or command of Machine/TileOps.lean touches: the queue, who owns the device, and (`_keeps`, where it writes no tier) the memory; where it may write one, `_memOk` says the canonical form stays. -/

namespace Sys2Proof.Machine

@[simp] theorem State_modCask_keeps (s : State) (t c : Nat) (f : CaskCtx → CaskCtx) :
    (State.modCask s t c f).pending = s.pending ∧ (State.modCask s t c f).ident = s.ident ∧ (State.modCask s t c f).mem = s.mem := by
  unfold State.modCask
  try dsimp only
  (repeat' split) <;> simp_all [apply_ite]

@[simp] theorem State_readStores_keeps (s : State) (t cask : Nat) (scrub : Bool) (rs : List Range) (es : List WordErr) :
    ((State.readStores s t cask scrub rs es).2).pending = s.pending ∧ ((State.readStores s t cask scrub rs es).2).ident = s.ident ∧ ((State.readStores s t cask scrub rs es).2).mem = s.mem := by
  unfold State.readStores
  try dsimp only
  (repeat' split) <;> simp_all [apply_ite]

end Sys2Proof.Machine
end

