-- ==== Sys2Proof/Laws/KeepTokens.lean ====
section
/-! SUPPORT. What no operation or command of Machine/Tokens.lean touches: the queue, who owns the device, and (`_keeps`, where it writes no tier) the memory; where it may write one, `_memOk` says the canonical form stays. -/

namespace Sys2Proof.Machine

@[simp] theorem State_setQueue_keeps (s : State) (t c q : Nat) (x : Queue) :
    (State.setQueue s t c q x).pending = s.pending ∧ (State.setQueue s t c q x).ident = s.ident ∧ (State.setQueue s t c q x).mem = s.mem := by
  unfold State.setQueue
  try dsimp only
  (repeat' split) <;> simp_all [apply_ite]

@[simp] theorem State_moved_keeps (s : State) (t c : Nat) :
    (State.moved s t c).pending = s.pending ∧ (State.moved s t c).ident = s.ident ∧ (State.moved s t c).mem = s.mem := by
  unfold State.moved
  try dsimp only
  (repeat' split) <;> simp_all [apply_ite]

@[simp] theorem State_sendCredits_keeps (s : State) (t c q : Nat) :
    (State.sendCredits s t c q).pending = s.pending ∧ (State.sendCredits s t c q).ident = s.ident ∧ (State.sendCredits s t c q).mem = s.mem := by
  unfold State.sendCredits
  try dsimp only
  (repeat' split) <;> simp_all [apply_ite]

@[simp] theorem State_popQueue_keeps (s : State) (t c q : Nat) :
    (State.popQueue s t c q).pending = s.pending ∧ (State.popQueue s t c q).ident = s.ident ∧ (State.popQueue s t c q).mem = s.mem := by
  unfold State.popQueue
  try dsimp only
  (repeat' split) <;> simp_all [apply_ite]

theorem execUopIssue_keeps (tile : Nat) (pops sends : List Nat) (errs : List WordErr) (s : State) :
    ∀ nx, execUopIssue tile pops sends errs s = .next nx → (nx).pending = s.pending ∧ (nx).ident = s.ident ∧ (nx).mem = s.mem := by
  intro nx h
  unfold execUopIssue at h
  try dsimp only at h
  (repeat' split at h) <;> (try cases h) <;> simp_all [apply_ite]

theorem execEndList_keeps (tile cask : Nat) (s : State) :
    ∀ nx, execEndList tile cask s = .next nx → (nx).pending = s.pending ∧ (nx).ident = s.ident ∧ (nx).mem = s.mem := by
  intro nx h
  unfold execEndList at h
  try dsimp only at h
  (repeat' split at h) <;> (try cases h) <;> simp_all [apply_ite]

theorem execStepEnd_keeps (tile cask : Nat) (s : State) :
    ∀ nx, execStepEnd tile cask s = .next nx → (nx).pending = s.pending ∧ (nx).ident = s.ident ∧ (nx).mem = s.mem := by
  intro nx h
  unfold execStepEnd at h
  try dsimp only at h
  (repeat' split at h) <;> (try cases h) <;> simp_all [apply_ite]

theorem execQueuePop_keeps (tile cask queue : Nat) (errs : List WordErr) (s : State) :
    ∀ nx, execQueuePop tile cask queue errs s = .next nx → (nx).pending = s.pending ∧ (nx).ident = s.ident ∧ (nx).mem = s.mem := by
  intro nx h
  unfold execQueuePop at h
  try dsimp only at h
  (repeat' split at h) <;> (try cases h) <;> simp_all [apply_ite]

@[simp] theorem State_sendToken_keeps (s : State) (t c e : Nat) (data : Bytes) :
    (State.sendToken s t c e data).pending = s.pending ∧ (State.sendToken s t c e data).ident = s.ident ∧ (State.sendToken s t c e data).mem = s.mem := by
  unfold State.sendToken
  try dsimp only
  (repeat' split) <;> simp_all [apply_ite]

theorem execTokenSend_keeps (tile cask edge : Nat) (data : Bytes) (s : State) :
    ∀ nx, execTokenSend tile cask edge data s = .next nx → (nx).pending = s.pending ∧ (nx).ident = s.ident ∧ (nx).mem = s.mem := by
  intro nx h
  unfold execTokenSend at h
  try dsimp only at h
  (repeat' split at h) <;> (try cases h) <;> simp_all [apply_ite]

@[simp] theorem State_sendBlock_keeps (s : State) (t c edge : Nat) (b : Bytes) (step : Nat) (z0 : Nat) :
    (State.sendBlock s t c edge b step z0).pending = s.pending ∧ (State.sendBlock s t c edge b step z0).ident = s.ident ∧ (State.sendBlock s t c edge b step z0).mem = s.mem := by
  induction z0 generalizing s t c edge b step <;>
  (unfold State.sendBlock; try dsimp only) <;> (repeat' split) <;> simp_all [apply_ite]

@[simp] theorem State_takeBlock_keeps (s : State) (t c q : Nat) (z0 : Nat) :
    ((State.takeBlock s t c q z0).2).pending = s.pending ∧ ((State.takeBlock s t c q z0).2).ident = s.ident ∧ ((State.takeBlock s t c q z0).2).mem = s.mem := by
  induction z0 generalizing s t c q <;>
  (unfold State.takeBlock; try dsimp only) <;> (repeat' split) <;> simp_all [apply_ite]

@[simp] theorem State_swapRing_keeps (s : State) (t n : Nat) :
    (State.swapRing s t n).pending = s.pending ∧ (State.swapRing s t n).ident = s.ident ∧ (State.swapRing s t n).mem = s.mem := by
  unfold State.swapRing
  try dsimp only
  (repeat' split) <;> simp_all [apply_ite]

@[simp] theorem State_swapRings_keeps (s : State) (t : Nat) :
    (State.swapRings s t).pending = s.pending ∧ (State.swapRings s t).ident = s.ident ∧ (State.swapRings s t).mem = s.mem := by
  unfold State.swapRings
  try dsimp only
  (repeat' split) <;> simp_all [apply_ite]

theorem execRotate_keeps (tile cask plan queue edge : Nat) (errs : List WordErr) (s : State) :
    ∀ nx, execRotate tile cask plan queue edge errs s = .next nx → (nx).pending = s.pending ∧ (nx).ident = s.ident ∧ (nx).mem = s.mem := by
  intro nx h
  unfold execRotate at h
  dsimp only at h
  (repeat' split at h) <;> cases h <;> first | (simp; done) | exact State_slotBad_keeps _ _ _ _ _ _ (by assumption)


@[simp] theorem State_takeEject_keeps (s : State) (t : Nat) (f : Flit) :
    (State.takeEject s t f).pending = s.pending ∧ (State.takeEject s t f).ident = s.ident ∧ (State.takeEject s t f).mem = s.mem := ⟨rfl, rfl, rfl⟩

@[simp] theorem State_landToken_keeps (s : State) (t : Nat) (f : Flit) :
    (State.landToken s t f).pending = s.pending ∧ (State.landToken s t f).ident = s.ident ∧ (State.landToken s t f).mem = s.mem := by
  unfold State.landToken
  try dsimp only
  (repeat' split) <;> simp_all [apply_ite]

theorem execTokenArrival_keeps (tile : Nat) (flit : Flit) (s : State) :
    ∀ nx, execTokenArrival tile flit s = .next nx → (nx).pending = s.pending ∧ (nx).ident = s.ident ∧ (nx).mem = s.mem := by
  intro nx h
  unfold execTokenArrival at h
  try dsimp only at h
  (repeat' split at h) <;> (try cases h) <;> simp_all [apply_ite]

theorem execE2eCreditReturn_keeps (tile : Nat) (flit : Flit) (s : State) :
    ∀ nx, execE2eCreditReturn tile flit s = .next nx → (nx).pending = s.pending ∧ (nx).ident = s.ident ∧ (nx).mem = s.mem := by
  intro nx h
  unfold execE2eCreditReturn at h
  try dsimp only at h
  (repeat' split at h) <;> (try cases h) <;> simp_all [apply_ite]

theorem execCreditReturnTimer_keeps (tile cask queue : Nat) (s : State) :
    ∀ nx, execCreditReturnTimer tile cask queue s = .next nx → (nx).pending = s.pending ∧ (nx).ident = s.ident ∧ (nx).mem = s.mem := by
  intro nx h
  cases h
  simp

@[simp] theorem State_pairUp_keeps (s : State) (t c n : Nat) (pe : Bytes) (cx : Queue) (ce : Bytes) (dx : Queue) (de : Bytes) :
    (State.pairUp s t c n pe cx ce dx de).pending = s.pending ∧ (State.pairUp s t c n pe cx ce dx de).ident = s.ident ∧ (State.pairUp s t c n pe cx ce dx de).mem = s.mem := by
  unfold State.pairUp
  try dsimp only
  (repeat' split) <;> simp_all [apply_ite]

theorem execSteeringPairing_keeps (tile cask : Nat) (errs : List WordErr) (s : State) :
    ∀ nx, execSteeringPairing tile cask errs s = .next nx → (nx).pending = s.pending ∧ (nx).ident = s.ident ∧ (nx).mem = s.mem := by
  intro nx h
  unfold execSteeringPairing at h
  dsimp only at h
  (repeat' split at h) <;> cases h <;> first | (simp; done) | exact State_slotBad_keeps _ _ _ _ _ _ (by assumption)


theorem execSteeredTokenSend_keeps (tile cask pair : Nat) (s : State) :
    ∀ nx, execSteeredTokenSend tile cask pair s = .next nx → (nx).pending = s.pending ∧ (nx).ident = s.ident ∧ (nx).mem = s.mem := by
  intro nx h
  unfold execSteeredTokenSend at h
  try dsimp only at h
  (repeat' split at h) <;> (try cases h) <;> simp_all [apply_ite]

end Sys2Proof.Machine
end

