-- ==== Sys2Proof/Laws/KeepLoadOps.lean ====
section
/-! SUPPORT. What no operation or command of Machine/LoadOps.lean touches: the queue, who owns the device, and (`_keeps`, where it writes no tier) the memory; where it may write one, `_memOk` says the canonical form stays. -/

namespace Sys2Proof.Machine

@[simp] theorem State_readSects_keeps (s : State) (image : Nat) (z0 : List Sect) :
    ((State.readSects s image z0).2).pending = s.pending ∧ ((State.readSects s image z0).2).ident = s.ident := by
  induction z0 generalizing s image <;>
  (unfold State.readSects; try dsimp only) <;> (repeat' split) <;> simp_all [apply_ite]

@[simp] theorem State_readBodies_keeps (s : State) (image : Nat) (h : Bytes) (l : List Sect) :
    ((State.readBodies s image h l).2).pending = s.pending ∧ ((State.readBodies s image h l).2).ident = s.ident := by
  unfold State.readBodies
  try dsimp only
  (repeat' split) <;> simp_all [apply_ite]

@[simp] theorem State_readCuvee_keeps (s : State) (image : Nat) :
    ((State.readCuvee s image).2).pending = s.pending ∧ ((State.readCuvee s image).2).ident = s.ident := by
  unfold State.readCuvee
  try dsimp only
  (repeat' split) <;> simp_all [apply_ite]

/-! ## The canonical form of the tiers stays -/

@[simp] theorem State_readSects_memOk (s : State) (image : Nat) (z0 : List Sect) (h : MemOk s.mem) :
    MemOk (State.readSects s image z0).2.mem := by
  induction z0 generalizing s image <;>
  (unfold State.readSects; try dsimp only) <;> (repeat' split) <;> simp_all [MemOk]

@[simp] theorem State_readBodies_memOk (s : State) (image : Nat) (h : Bytes) (l : List Sect) (hm : MemOk s.mem) :
    MemOk (State.readBodies s image h l).2.mem := by
  induction l generalizing s image h <;>
  (unfold State.readBodies; try dsimp only) <;> (repeat' split) <;> simp_all [MemOk]

@[simp] theorem State_readCuvee_memOk (s : State) (image : Nat) (h : MemOk s.mem) :
    MemOk (State.readCuvee s image).2.mem := by
  have h1 := State_readBytes_memOk s .firmware image 64 h
  have h2 := fun a n => State_readBytes_memOk _ .firmware a n h1
  unfold State.readCuvee
  dsimp only
  (repeat' split) <;> first | exact h1 | exact h2 _ _ | exact State_readBodies_memOk _ _ _ _ (h2 _ _)

end Sys2Proof.Machine
end

