-- ==== Sys2Proof/Laws/KeepCommitOps.lean ====
section
/-! SUPPORT. What no operation or command of Machine/CommitOps.lean touches: the queue, who owns the device, and (`_keeps`, where it writes no tier) the memory; where it may write one, `_memOk` says the canonical form stays. -/

namespace Sys2Proof.Machine

theorem State_takeFrames_keeps (s : State) (pn : Nat) (z0 : Nat) :
    ∀ nx, State.takeFrames s pn z0 = some nx → (nx).pending = s.pending ∧ (nx).ident = s.ident := by
  induction z0 generalizing s with
  | zero => intro nx h; simp [State.takeFrames] at h; simp [h]
  | succ n ih =>
    intro nx h
    simp only [State.takeFrames, Option.bind_eq_some_iff] at h
    obtain ⟨a, ha, h⟩ := h
    have h1 := State_makeRoom_keeps _ _ _ _ ha
    have h2 := ih _ _ h
    simp_all


theorem State_setQuota_keeps (s : State) (pn n : Nat) :
    ∀ nx, State.setQuota s pn n = some nx → (nx).pending = s.pending ∧ (nx).ident = s.ident := by
  intro nx h
  unfold State.setQuota at h
  split at h
  · split at h
    · cases h; simp
    · simp only [Option.map_eq_some_iff] at h
      obtain ⟨a, ha, rfl⟩ := h
      have h1 := State_takeFrames_keeps _ _ _ _ ha
      simp_all
  · cases h


@[simp] theorem State_endPartCommit_keeps (s : State) (pn st : Nat) (keep : Bool) :
    (State.endPartCommit s pn st keep).pending = s.pending ∧ (State.endPartCommit s pn st keep).ident = s.ident ∧ (State.endPartCommit s pn st keep).mem = s.mem := by
  unfold State.endPartCommit
  try dsimp only
  (repeat' split) <;> simp_all [apply_ite]

@[simp] theorem State_endDeviceCommit_keeps (s : State) (st seq : Nat) (keep : Bool) :
    (State.endDeviceCommit s st seq keep).pending = s.pending ∧ (State.endDeviceCommit s st seq keep).ident = s.ident ∧ (State.endDeviceCommit s st seq keep).mem = s.mem := by
  unfold State.endDeviceCommit
  try dsimp only
  (repeat' split) <;> simp_all [apply_ite]

@[simp] theorem State_noteApplied_keeps (s : State) (target txid : Nat) :
    (State.noteApplied s target txid).pending = s.pending ∧ (State.noteApplied s target txid).ident = s.ident ∧ (State.noteApplied s target txid).mem = s.mem := ⟨rfl, rfl, rfl⟩

@[simp] theorem State_applyPartTxn_keeps (s : State) (pn : Nat) (t : Txn) :
    ((State.applyPartTxn s pn t).2).pending = s.pending ∧ ((State.applyPartTxn s pn t).2).ident = s.ident := by
  unfold State.applyPartTxn
  dsimp only
  split
  · rename_i hq
    split at hq
    · have h1 := State_setQuota_keeps _ _ _ _ hq
      simp [h1]
    · cases hq; simp
  · simp


@[simp] theorem State_applyPartCommit_keeps (s : State) (pn : Nat) :
    (State.applyPartCommit s pn).pending = s.pending ∧ (State.applyPartCommit s pn).ident = s.ident := by
  unfold State.applyPartCommit
  try dsimp only
  (repeat' split) <;> simp_all [apply_ite]

@[simp] theorem State_applyDeviceTxn_keeps (s : State) (t : Txn) :
    (State.applyDeviceTxn s t).pending = s.pending ∧ (State.applyDeviceTxn s t).ident = s.ident := by
  unfold State.applyDeviceTxn
  try dsimp only
  (repeat' split) <;> simp_all [apply_ite]

@[simp] theorem State_releaseHolds_keeps (s : State) (form : Bool) :
    (State.releaseHolds s form).pending = s.pending ∧ (State.releaseHolds s form).ident = s.ident := by
  unfold State.releaseHolds
  try dsimp only
  (repeat' split) <;> simp (disch := (intros; (repeat' split) <;> simp_all)) [apply_ite, *]

@[simp] theorem State_settleDevice_keeps (s : State) (now : Option Nat) :
    (State.settleDevice s now).pending = s.pending ∧ (State.settleDevice s now).ident = s.ident := by
  unfold State.settleDevice
  try dsimp only
  (repeat' split) <;> simp_all [apply_ite]

@[simp] theorem State_failDeviceCommit_keeps (s : State) (st : Nat) (keep : Bool) :
    (State.failDeviceCommit s st keep).pending = s.pending ∧ (State.failDeviceCommit s st keep).ident = s.ident := by
  unfold State.failDeviceCommit
  try dsimp only
  (repeat' split) <;> simp_all [apply_ite]

/-! ## The canonical form of the tiers stays -/

theorem State_takeFrames_memOk (s : State) (pn : Nat) (z0 : Nat) (h : MemOk s.mem) :
    ∀ nx, State.takeFrames s pn z0 = some nx → MemOk nx.mem := by
  induction z0 generalizing s with
  | zero => intro nx hx; simp [State.takeFrames] at hx; exact hx ▸ h
  | succ n ih =>
    intro nx hx
    simp only [State.takeFrames, Option.bind_eq_some_iff] at hx
    obtain ⟨a, ha, hx⟩ := hx
    have h1 := State_makeRoom_memOk _ _ _ h _ ha
    refine ih _ (State_marks_memOk _ ?_) _ hx
    exact h1

theorem State_setQuota_memOk (s : State) (pn n : Nat) (h : MemOk s.mem) :
    ∀ nx, State.setQuota s pn n = some nx → MemOk nx.mem := by
  intro nx hx
  unfold State.setQuota at hx
  split at hx
  · split at hx
    · cases hx; exact h
    · simp only [Option.map_eq_some_iff] at hx
      obtain ⟨a, ha, rfl⟩ := hx
      have h1 := State_takeFrames_memOk _ _ _ (State_dropCacheUnits_memOk _ _ h) _ ha
      simpa using h1
  · cases hx


@[simp] theorem State_applyPartTxn_memOk (s : State) (pn : Nat) (t : Txn) (h : MemOk s.mem) :
    MemOk (State.applyPartTxn s pn t).2.mem := by
  unfold State.applyPartTxn
  dsimp only
  split
  · rename_i hq
    split at hq
    · have h1 := State_setQuota_memOk _ _ _ h _ hq
      simpa using h1
    · cases hq
      simpa using h
  · exact h

@[simp] theorem State_applyPartCommit_memOk (s : State) (pn : Nat) (h : MemOk s.mem) :
    MemOk (State.applyPartCommit s pn).mem := by
  unfold State.applyPartCommit
  try dsimp only
  (repeat' split) <;> simp_all [MemOk]

@[simp] theorem State_applyDeviceTxn_memOk (s : State) (t : Txn) (h : MemOk s.mem) :
    MemOk (State.applyDeviceTxn s t).mem := by
  unfold State.applyDeviceTxn
  try dsimp only
  (repeat' split) <;> simp_all [MemOk]

@[simp] theorem State_releaseHolds_memOk (s : State) (form : Bool) (h : MemOk s.mem) :
    MemOk (State.releaseHolds s form).mem := by
  unfold State.releaseHolds
  try dsimp only
  (repeat' split) <;> simp (disch := (intros; (repeat' split) <;> simp_all [MemOk])) [MemOk, *]

@[simp] theorem State_settleDevice_memOk (s : State) (now : Option Nat) (h : MemOk s.mem) :
    MemOk (State.settleDevice s now).mem := by
  unfold State.settleDevice
  try dsimp only
  (repeat' split) <;> simp_all [MemOk]

@[simp] theorem State_failDeviceCommit_memOk (s : State) (st : Nat) (keep : Bool) (h : MemOk s.mem) :
    MemOk (State.failDeviceCommit s st keep).mem := by
  unfold State.failDeviceCommit
  try dsimp only
  (repeat' split) <;> simp_all [MemOk]

end Sys2Proof.Machine
end

