-- ==== Sys2Proof/Laws/KeepPress.lean ====
section
/-! SUPPORT. What no operation or command of Machine/Press.lean touches: the queue, who owns the device, and (`_keeps`, where it writes no tier) the memory; where it may write one, `_memOk` says the canonical form stays. -/

namespace Sys2Proof.Machine

@[simp] theorem State_pressRead_keeps (s : State) (t cask uop mt orow ocol ac : Nat) (a b : OpRef) (k0 n : Nat) (u : Option Upset) (es : List WordErr) :
    (State.pressRead s t cask uop mt orow ocol ac a b k0 n u es).pending = s.pending ∧ (State.pressRead s t cask uop mt orow ocol ac a b k0 n u es).ident = s.ident ∧ (State.pressRead s t cask uop mt orow ocol ac a b k0 n u es).mem = s.mem := by
  unfold State.pressRead
  try dsimp only
  (repeat' split) <;> simp_all [apply_ite]

theorem execPressOperation_keeps (tile cask uop microTile orow ocol ac : Nat) (a b : OpRef) (k0 n : Nat) (upset : Option Upset) (errs : List WordErr) (s : State) :
    ∀ nx, execPressOperation tile cask uop microTile orow ocol ac a b k0 n upset errs s = .next nx → (nx).pending = s.pending ∧ (nx).ident = s.ident ∧ (nx).mem = s.mem := by
  intro nx h
  unfold execPressOperation at h
  try dsimp only at h
  (repeat' split at h) <;> (try cases h) <;> simp_all [apply_ite]

@[simp] theorem State_pressFails_keeps (s : State) (t : Nat) (o : PressOp) (rest : List PressOp) (unit : Nat) :
    (State.pressFails s t o rest unit).pending = s.pending ∧ (State.pressFails s t o rest unit).ident = s.ident ∧ (State.pressFails s t o rest unit).mem = s.mem := by
  unfold State.pressFails
  try dsimp only
  (repeat' split) <;> simp_all [apply_ite]

@[simp] theorem State_pressWrite_keeps (s : State) (t ac : Nat) (es : List WordErr) :
    (State.pressWrite s t ac es).pending = s.pending ∧ (State.pressWrite s t ac es).ident = s.ident ∧ (State.pressWrite s t ac es).mem = s.mem := by
  unfold State.pressWrite
  dsimp only
  split
  · split
    · simp
    · split
      · simp
      · split
        · rename_i hv
          simpa using State_vatBad_keeps _ _ _ _ _ hv
        · simp
  · simp


theorem execPressVatWrite_keeps (tile ac : Nat) (errs : List WordErr) (s : State) :
    ∀ nx, execPressVatWrite tile ac errs s = .next nx → (nx).pending = s.pending ∧ (nx).ident = s.ident ∧ (nx).mem = s.mem := by
  intro nx h
  cases h
  simp

theorem execVatClear_keeps (tile cask : Nat) (microTiles : List Nat) (x : Int) (s : State) :
    ∀ nx, execVatClear tile cask microTiles x s = .next nx → (nx).pending = s.pending ∧ (nx).ident = s.ident ∧ (nx).mem = s.mem := by
  intro nx h
  unfold execVatClear at h
  try dsimp only at h
  (repeat' split at h) <;> (try cases h) <;> simp_all [apply_ite]

end Sys2Proof.Machine
end

