-- ==== Sys2Proof/Laws/KeepShaper.lean ====
section
/-! SUPPORT. What no operation or command of Machine/Shaper.lean touches: the queue, who owns the device, and (`_keeps`, where it writes no tier) the memory; where it may write one, `_memOk` says the canonical form stays. -/

namespace Sys2Proof.Machine

@[simp] theorem State_convert_keeps (s : State) (t c uop orow ocol ac f : Nat) (src : DrainSrc) (u : Option Upset) :
    (State.convert s t c uop orow ocol ac f src u).pending = s.pending ∧ (State.convert s t c uop orow ocol ac f src u).ident = s.ident ∧ (State.convert s t c uop orow ocol ac f src u).mem = s.mem := by
  unfold State.convert
  try dsimp only
  (repeat' split) <;> simp_all [apply_ite]

theorem execConversionDrain_keeps (tile cask uop orow ocol : Nat) (src : DrainSrc) (f ac : Nat) (upset : Option Upset) (errs : List WordErr) (s : State) :
    ∀ nx, execConversionDrain tile cask uop orow ocol src f ac upset errs s = .next nx → (nx).pending = s.pending ∧ (nx).ident = s.ident ∧ (nx).mem = s.mem := by
  intro nx h
  unfold execConversionDrain at h
  try dsimp only at h
  (repeat' split at h) <;> (try cases h) <;> simp_all [apply_ite]

@[simp] theorem State_placeResults_keeps (s : State) (t c uop orow ocol ac g : Nat) (dst : ShaperDst) (rs : List (Option Int × Option (Nat × Nat))) :
    (State.placeResults s t c uop orow ocol ac g dst rs).pending = s.pending ∧ (State.placeResults s t c uop orow ocol ac g dst rs).ident = s.ident ∧ (State.placeResults s t c uop orow ocol ac g dst rs).mem = s.mem := by
  unfold State.placeResults
  try dsimp only
  (repeat' split) <;> simp_all [apply_ite]

@[simp] theorem State_shape_keeps (s : State) (t c uop orow ocol ac g : Nat) (dst : ShaperDst) (u : Option Upset) (rs : List (Option Int × Option (Nat × Nat))) (rest : List (Nat × Option Int)) :
    (State.shape s t c uop orow ocol ac g dst u rs rest).pending = s.pending ∧ (State.shape s t c uop orow ocol ac g dst u rs rest).ident = s.ident ∧ (State.shape s t c uop orow ocol ac g dst u rs rest).mem = s.mem := by
  unfold State.shape
  try dsimp only
  (repeat' split) <;> simp_all [apply_ite]

theorem execShaperFunction_keeps (tile cask uop orow ocol : Nat) (fn : ShaperFn) (f g : Nat) (dst : ShaperDst) (ac : Nat) (upset : Option Upset) (s : State) :
    ∀ nx, execShaperFunction tile cask uop orow ocol fn f g dst ac upset s = .next nx → (nx).pending = s.pending ∧ (nx).ident = s.ident ∧ (nx).mem = s.mem := by
  intro nx h
  unfold execShaperFunction at h
  try dsimp only at h
  (repeat' split at h) <;> (try cases h) <;> simp_all [apply_ite]

theorem execSmx_keeps (tile cask uop orow ocol : Nat) (n f g : Nat) (dst : ShaperDst) (ac : Nat) (upset : Option Upset) (s : State) :
    ∀ nx, execSmx tile cask uop orow ocol n f g dst ac upset s = .next nx → (nx).pending = s.pending ∧ (nx).ident = s.ident ∧ (nx).mem = s.mem := by
  intro nx h
  unfold execSmx at h
  try dsimp only at h
  (repeat' split at h) <;> (try cases h) <;> simp_all [apply_ite]

@[simp] theorem State_sfStore_keeps (s : State) (t c uop orow ocol ac fmt : Nat) (src : DrainSrc) (codeAddr scaleAddr : Nat) (vs : List (Nat × Option Int)) (r : SfResult) :
    (State.sfStore s t c uop orow ocol ac fmt src codeAddr scaleAddr vs r).pending = s.pending ∧ (State.sfStore s t c uop orow ocol ac fmt src codeAddr scaleAddr vs r).ident = s.ident ∧ (State.sfStore s t c uop orow ocol ac fmt src codeAddr scaleAddr vs r).mem = s.mem := by
  unfold State.sfStore
  try dsimp only
  (repeat' split) <;> simp_all [apply_ite]

@[simp] theorem State_sfDrain_keeps (s : State) (t c uop orow ocol ac fmt : Nat) (src : DrainSrc) (stoch : Bool) (codeAddr scaleAddr : Nat) (u : Option Upset) :
    (State.sfDrain s t c uop orow ocol ac fmt src stoch codeAddr scaleAddr u).pending = s.pending ∧ (State.sfDrain s t c uop orow ocol ac fmt src stoch codeAddr scaleAddr u).ident = s.ident ∧ (State.sfDrain s t c uop orow ocol ac fmt src stoch codeAddr scaleAddr u).mem = s.mem := by
  unfold State.sfDrain
  try dsimp only
  (repeat' split) <;> simp_all [apply_ite]

theorem execScaleFinderDrain_keeps (tile cask uop orow ocol : Nat) (src : DrainSrc) (fmt : Nat) (stochastic : Bool) (codeAddr scaleAddr ac : Nat) (upset : Option Upset) (errs : List WordErr) (s : State) :
    ∀ nx, execScaleFinderDrain tile cask uop orow ocol src fmt stochastic codeAddr scaleAddr ac upset errs s = .next nx → (nx).pending = s.pending ∧ (nx).ident = s.ident ∧ (nx).mem = s.mem := by
  intro nx h
  unfold execScaleFinderDrain at h
  dsimp only at h
  (repeat' split at h) <;> cases h <;> first | (simp; done) | exact State_vatBad_keeps _ _ _ _ _ (by assumption)

end Sys2Proof.Machine
end

