-- ==== Sys2Proof/Laws/KeepStreams.lean ====
section
/-! SUPPORT. What no operation or command of Machine/Streams.lean touches: the queue, who owns the device, and (`_keeps`, where it writes no tier) the memory; where it may write one, `_memOk` says the canonical form stays. -/

namespace Sys2Proof.Machine

@[simp] theorem State_setStream_keeps (s : State) (t c e : Nat) (g : Stream) :
    (State.setStream s t c e g).pending = s.pending ∧ (State.setStream s t c e g).ident = s.ident ∧ (State.setStream s t c e g).mem = s.mem := by
  unfold State.setStream
  try dsimp only
  (repeat' split) <;> simp_all [apply_ite]

@[simp] theorem State_issueRead_keeps (s : State) (t c e : Nat) (g : Stream) :
    (State.issueRead s t c e g).pending = s.pending ∧ (State.issueRead s t c e g).ident = s.ident := by
  unfold State.issueRead
  try dsimp only
  (repeat' split) <;> simp_all [apply_ite]

@[simp] theorem State_issueAhead_keeps (s : State) (t c e : Nat) (g : Stream) :
    (State.issueAhead s t c e g).pending = s.pending ∧ (State.issueAhead s t c e g).ident = s.ident ∧ (State.issueAhead s t c e g).mem = s.mem := by
  unfold State.issueAhead
  try dsimp only
  (repeat' split) <;> simp_all [apply_ite]

@[simp] theorem State_issueWrite_keeps (s : State) (t c e : Nat) (g : Stream) (es : List WordErr) :
    (State.issueWrite s t c e g es).pending = s.pending ∧ (State.issueWrite s t c e g es).ident = s.ident ∧ (State.issueWrite s t c e g es).mem = s.mem := by
  unfold State.issueWrite
  try dsimp only
  (repeat' split) <;> simp_all [apply_ite]

theorem execStreamIssue_keeps (tile cask engine : Nat) (errs : List WordErr) (s : State) :
    ∀ nx, execStreamIssue tile cask engine errs s = .next nx → (nx).pending = s.pending ∧ (nx).ident = s.ident := by
  intro nx h
  unfold execStreamIssue at h
  try dsimp only at h
  (repeat' split at h) <;> (try cases h) <;> simp_all [apply_ite]

theorem execReadDataArrival_keeps (tile cask engine slot line : Nat) (data : Bytes) (s : State) :
    ∀ nx, execReadDataArrival tile cask engine slot line data s = .next nx → (nx).pending = s.pending ∧ (nx).ident = s.ident := by
  intro nx h
  unfold execReadDataArrival at h
  try dsimp only at h
  (repeat' split at h) <;> (try cases h) <;> simp_all [apply_ite]

theorem execStreamRingPop_keeps (tile cask engine : Nat) (errs : List WordErr) (s : State) :
    ∀ nx, execStreamRingPop tile cask engine errs s = .next nx → (nx).pending = s.pending ∧ (nx).ident = s.ident ∧ (nx).mem = s.mem := by
  intro nx h
  unfold execStreamRingPop at h
  try dsimp only at h
  (repeat' split at h) <;> (try cases h) <;> simp_all [apply_ite]

theorem execStreamRingPush_keeps (tile cask engine : Nat) (data : Bytes) (s : State) :
    ∀ nx, execStreamRingPush tile cask engine data s = .next nx → (nx).pending = s.pending ∧ (nx).ident = s.ident := by
  intro nx h
  unfold execStreamRingPush at h
  try dsimp only at h
  (repeat' split at h) <;> (try cases h) <;> simp_all [apply_ite]

theorem execWriteAckArrival_keeps (tile cask engine slot : Nat) (s : State) :
    ∀ nx, execWriteAckArrival tile cask engine slot s = .next nx → (nx).pending = s.pending ∧ (nx).ident = s.ident := by
  intro nx h
  unfold execWriteAckArrival at h
  try dsimp only at h
  (repeat' split at h) <;> (try cases h) <;> simp_all [apply_ite]

theorem execShadowWrite_keeps (tile cask engine : Nat) (desc : Bytes) (sameFc : Bool) (s : State) :
    ∀ nx, execShadowWrite tile cask engine desc sameFc s = .next nx → (nx).pending = s.pending ∧ (nx).ident = s.ident := by
  intro nx h
  unfold execShadowWrite at h
  try dsimp only at h
  (repeat' split at h) <;> (try cases h) <;> simp_all [apply_ite]

/-! ## The canonical form of the tiers stays -/

@[simp] theorem State_issueRead_memOk (s : State) (t c e : Nat) (g : Stream) (h : MemOk s.mem) :
    MemOk (State.issueRead s t c e g).mem := by
  unfold State.issueRead
  try dsimp only
  (repeat' split) <;> simp_all [MemOk]

theorem execStreamIssue_memOk (tile cask engine : Nat) (errs : List WordErr) (s : State) (h : MemOk s.mem) :
    ∀ nx, execStreamIssue tile cask engine errs s = .next nx → MemOk nx.mem := by
  intro nx hx
  unfold execStreamIssue at hx
  try dsimp only at hx
  (repeat' split at hx) <;> (try cases hx) <;> simp_all [MemOk]

theorem execReadDataArrival_memOk (tile cask engine slot line : Nat) (data : Bytes) (s : State) (h : MemOk s.mem) :
    ∀ nx, execReadDataArrival tile cask engine slot line data s = .next nx → MemOk nx.mem := by
  intro nx hx
  unfold execReadDataArrival at hx
  try dsimp only at hx
  (repeat' split at hx) <;> (try cases hx) <;> simp_all [MemOk]

theorem execStreamRingPush_memOk (tile cask engine : Nat) (data : Bytes) (s : State) (h : MemOk s.mem) :
    ∀ nx, execStreamRingPush tile cask engine data s = .next nx → MemOk nx.mem := by
  intro nx hx
  unfold execStreamRingPush at hx
  try dsimp only at hx
  (repeat' split at hx) <;> (try cases hx) <;> simp_all [MemOk]

theorem execWriteAckArrival_memOk (tile cask engine slot : Nat) (s : State) (h : MemOk s.mem) :
    ∀ nx, execWriteAckArrival tile cask engine slot s = .next nx → MemOk nx.mem := by
  intro nx hx
  unfold execWriteAckArrival at hx
  try dsimp only at hx
  (repeat' split at hx) <;> (try cases hx) <;> simp_all [MemOk]

theorem execShadowWrite_memOk (tile cask engine : Nat) (desc : Bytes) (sameFc : Bool) (s : State) (h : MemOk s.mem) :
    ∀ nx, execShadowWrite tile cask engine desc sameFc s = .next nx → MemOk nx.mem := by
  intro nx hx
  unfold execShadowWrite at hx
  try dsimp only at hx
  (repeat' split at hx) <;> (try cases hx) <;> simp_all [MemOk]

end Sys2Proof.Machine
end

