-- ==== Sys2Proof/Laws/KeepTallyUnit.lean ====
section
/-! SUPPORT. What no operation or command of Machine/TallyUnit.lean touches: the queue, who owns the device, and (`_keeps`, where it writes no tier) the memory; where it may write one, `_memOk` says the canonical form stays. -/

namespace Sys2Proof.Machine

theorem execTallyRequestIssue_keeps (tile counter count : Nat) (s : State) :
    ∀ nx, execTallyRequestIssue tile counter count s = .next nx → (nx).pending = s.pending ∧ (nx).ident = s.ident ∧ (nx).mem = s.mem := by
  intro nx h
  unfold execTallyRequestIssue at h
  try dsimp only at h
  (repeat' split at h) <;> (try cases h) <;> simp_all [apply_ite]

theorem execTallyResendTimer_keeps (tile : Nat) (s : State) :
    ∀ nx, execTallyResendTimer tile s = .next nx → (nx).pending = s.pending ∧ (nx).ident = s.ident ∧ (nx).mem = s.mem := by
  intro nx h
  unfold execTallyResendTimer at h
  try dsimp only at h
  (repeat' split at h) <;> (try cases h) <;> simp_all [apply_ite]

theorem execTallyRequest_keeps (tile seq counter epoch count : Nat) (s : State) :
    ∀ nx, execTallyRequest tile seq counter epoch count s = .next nx → (nx).pending = s.pending ∧ (nx).ident = s.ident ∧ (nx).mem = s.mem := by
  intro nx h
  unfold execTallyRequest at h
  try dsimp only at h
  (repeat' split at h) <;> (try cases h) <;> simp_all [apply_ite]

theorem execTallyGrant_keeps (tile seq : Nat) (grant : Grant) (s : State) :
    ∀ nx, execTallyGrant tile seq grant s = .next nx → (nx).pending = s.pending ∧ (nx).ident = s.ident ∧ (nx).mem = s.mem := by
  intro nx h
  unfold execTallyGrant at h
  try dsimp only at h
  (repeat' split at h) <;> (try cases h) <;> simp_all [apply_ite]

end Sys2Proof.Machine
end

