-- ==== Sys2Proof/Laws/KeepLoader.lean ====
section
/-! SUPPORT. What no operation or command of Machine/Loader.lean touches: the queue, who owns the device, and (`_keeps`, where it writes no tier) the memory; where it may write one, `_memOk` says the canonical form stays. -/

namespace Sys2Proof.Machine

@[simp] theorem refuseLoad_keeps (c : Cmd) (f : Flaw) (s : State) :
    (refuseLoad c f s).pending = s.pending ∧ (refuseLoad c f s).ident = s.ident ∧ (refuseLoad c f s).mem = s.mem := by
  unfold refuseLoad
  try dsimp only
  (repeat' split) <;> simp_all [apply_ite]

@[simp] theorem State_chooseList_keeps (s : State) (bound : Nat) (used : List Nat) (z0 : Nat) :
    ((State.chooseList s bound used z0).2).pending = s.pending ∧ ((State.chooseList s bound used z0).2).ident = s.ident ∧ ((State.chooseList s bound used z0).2).mem = s.mem := by
  induction z0 generalizing s bound used <;>
  (unfold State.chooseList; try dsimp only) <;> (repeat' split) <;> simp_all [apply_ite]

@[simp] theorem State_allotCounters_keeps (s : State) (used : List Nat) (z0 : List (At CtrDecl)) (z1 : Nat) :
    ((State.allotCounters s used z0 z1).2).pending = s.pending ∧ ((State.allotCounters s used z0 z1).2).ident = s.ident ∧ ((State.allotCounters s used z0 z1).2).mem = s.mem := by
  induction z0 generalizing s used z1 with
  | nil => simp [State.allotCounters]
  | cons d ds ih => simp [State.allotCounters, ih]


@[simp] theorem State_addJournal_keeps (s : State) (j : Journal) :
    (State.addJournal s j).pending = s.pending ∧ (State.addJournal s j).ident = s.ident ∧ (State.addJournal s j).mem = s.mem := ⟨rfl, rfl, rfl⟩

theorem State_backAll_keeps (s : State) (cellar : List Nat) (z0 : List Nat) :
    ∀ nx, State.backAll s cellar z0 = some nx → (nx).pending = s.pending ∧ (nx).ident = s.ident := by
  induction z0 generalizing s with
  | nil => intro nx h; simp [State.backAll] at h; simp [h]
  | cons u us ih =>
    intro nx h
    rw [State.backAll] at h
    split at h
    · exact ih _ _ h
    · dsimp only at h
      generalize (if cellar.contains u = true then 1 else 0) = q at h
      split at h
      · cases h
      · simpa using ih _ _ h


@[simp] theorem State_reserveUnits_keeps (s : State) (v : Cuvee) (left : List Nat) :
    ((State.reserveUnits s v left).2).pending = s.pending ∧ ((State.reserveUnits s v left).2).ident = s.ident := by
  unfold State.reserveUnits
  split
  · rename_i h
    simpa using State_backAll_keeps _ _ _ _ h
  · simp


@[simp] theorem beginLoad_keeps (c : Cmd) (v : Cuvee) (image slot col0 : Nat) (s : State) :
    (beginLoad c v image slot col0 s).pending = s.pending ∧ (beginLoad c v image slot col0 s).ident = s.ident := by
  unfold beginLoad
  try dsimp only
  (repeat' split) <;> simp_all [apply_ite]

@[simp] theorem doCuveeLoad_keeps (c : Cmd) (s : State) :
    (doCuveeLoad c s).pending = s.pending ∧ (doCuveeLoad c s).ident = s.ident := by
  have hr := State_readCuvee_keeps s (fld c.desc 16 0 48)
  unfold doCuveeLoad
  dsimp only
  split
  · rename_i h; simp only [h] at hr; simp [hr]
  · rename_i h; simp only [h] at hr; simp [hr]
  · rename_i h
    simp only [h] at hr
    split <;> simp [hr]


theorem execCuveeLoad_keeps (c : Cmd) (s : State) :
    ∀ nx, execCuveeLoad c s = .next nx → (nx).pending = s.pending ∧ (nx).ident = s.ident := by
  intro nx h
  cases h
  simp

@[simp] theorem State_beginDrain_keeps (s : State) (c : Cmd) (job : LoadJob) :
    (State.beginDrain s c job).pending = s.pending ∧ (State.beginDrain s c job).ident = s.ident ∧ (State.beginDrain s c job).mem = s.mem := by
  unfold State.beginDrain
  try dsimp only
  (repeat' split) <;> simp_all [apply_ite]

@[simp] theorem beginSwap_keeps (c : Cmd) (v : Cuvee) (p : Partition) (s : State) :
    (beginSwap c v p s).pending = s.pending ∧ (beginSwap c v p s).ident = s.ident := by
  unfold beginSwap
  try dsimp only
  (repeat' split) <;> simp_all [apply_ite]

@[simp] theorem doCuveeSwap_keeps (c : Cmd) (s : State) :
    (doCuveeSwap c s).pending = s.pending ∧ (doCuveeSwap c s).ident = s.ident := by
  have hr := State_readCuvee_keeps s (fld c.desc 16 0 48)
  unfold doCuveeSwap
  split
  · simp
  · split
    · simp
    · split
      · rename_i h; simp only [h] at hr; simp [hr]
      · rename_i h; simp only [h] at hr; simp [hr]
      · rename_i h
        simp only [h] at hr
        split
        · simp [hr]
        · split <;> simp [hr]


theorem execCuveeSwap_keeps (c : Cmd) (s : State) :
    ∀ nx, execCuveeSwap c s = .next nx → (nx).pending = s.pending ∧ (nx).ident = s.ident := by
  intro nx h
  cases h
  simp

@[simp] theorem doCuveeUnload_keeps (c : Cmd) (s : State) :
    (doCuveeUnload c s).pending = s.pending ∧ (doCuveeUnload c s).ident = s.ident ∧ (doCuveeUnload c s).mem = s.mem := by
  unfold doCuveeUnload
  try dsimp only
  (repeat' split) <;> simp_all [apply_ite]

theorem execCuveeUnload_keeps (c : Cmd) (s : State) :
    ∀ nx, execCuveeUnload c s = .next nx → (nx).pending = s.pending ∧ (nx).ident = s.ident ∧ (nx).mem = s.mem := by
  intro nx h
  cases h
  simp

@[simp] theorem State_emptyCasks_keeps (s : State) (pn : Nat) :
    (State.emptyCasks s pn).pending = s.pending ∧ (State.emptyCasks s pn).ident = s.ident := by
  unfold State.emptyCasks
  try dsimp only
  (repeat' split) <;> simp_all [apply_ite]

@[simp] theorem State_placeImage_keeps (s : State) (col0 : Nat) (ctrs : List CounterUse) (x : Img) :
    (State.placeImage s col0 ctrs x).pending = s.pending ∧ (State.placeImage s col0 ctrs x).ident = s.ident ∧ (State.placeImage s col0 ctrs x).mem = s.mem := ⟨rfl, rfl, rfl⟩

@[simp] theorem State_toCellar_keeps (s : State) (u : Nat) :
    (State.toCellar s u).pending = s.pending ∧ (State.toCellar s u).ident = s.ident := by
  unfold State.toCellar
  try dsimp only
  (repeat' split) <;> simp_all [apply_ite]

@[simp] theorem State_copyBytes_keeps (s : State) (src dst n : Nat) :
    ((State.copyBytes s src dst n).2).pending = s.pending ∧ ((State.copyBytes s src dst n).2).ident = s.ident := by
  unfold State.copyBytes
  try dsimp only
  (repeat' split) <;> simp_all [apply_ite]

@[simp] theorem State_copyTensor_keeps (s : State) (image : Nat) (t : Tensor) :
    ((State.copyTensor s image t).2).pending = s.pending ∧ ((State.copyTensor s image t).2).ident = s.ident := by
  unfold State.copyTensor
  try dsimp only
  (repeat' split) <;> simp_all [apply_ite]

@[simp] theorem State_copyTensors_keeps (s : State) (image : Nat) (z0 : List Tensor) :
    ((State.copyTensors s image z0).2).pending = s.pending ∧ ((State.copyTensors s image z0).2).ident = s.ident := by
  induction z0 generalizing s with
  | nil => simp [State.copyTensors]
  | cons t ts ih =>
    unfold State.copyTensors
    dsimp only
    split <;> simp [ih]

@[simp] theorem State_placePreload_keeps (s : State) (col0 : Nat) (x : Preload) :
    (State.placePreload s col0 x).pending = s.pending ∧ (State.placePreload s col0 x).ident = s.ident ∧ (State.placePreload s col0 x).mem = s.mem := by
  unfold State.placePreload
  try dsimp only
  (repeat' split) <;> simp_all [apply_ite]

@[simp] theorem State_armCounter_keeps (s : State) (p : Partition) (c : CounterUse) :
    (State.armCounter s p c).pending = s.pending ∧ (State.armCounter s p c).ident = s.ident ∧ (State.armCounter s p c).mem = s.mem := by
  unfold State.armCounter
  try dsimp only
  (repeat' split) <;> simp_all [apply_ite]

@[simp] theorem State_loadFailed_keeps (s : State) (pn : Nat) (j : LoadJob) :
    (State.loadFailed s pn j).pending = s.pending ∧ (State.loadFailed s pn j).ident = s.ident := by
  unfold State.loadFailed
  try dsimp only
  (repeat' split) <;> simp_all [apply_ite]

@[simp] theorem State_adopt_keeps (s : State) (pn : Nat) (p : Partition) (v : Cuvee) (j : LoadJob) :
    (State.adopt s pn p v j).pending = s.pending ∧ (State.adopt s pn p v j).ident = s.ident ∧ (State.adopt s pn p v j).mem = s.mem := by
  unfold State.adopt
  try dsimp only
  (repeat' split) <;> simp_all [apply_ite]

@[simp] theorem State_afterSwap_keeps (s : State) (pn : Nat) (p : Partition) (keep : Bool) :
    (State.afterSwap s pn p keep).pending = s.pending ∧ (State.afterSwap s pn p keep).ident = s.ident := by
  unfold State.afterSwap
  try dsimp only
  (repeat' split) <;> simp_all [apply_ite]

@[simp] theorem State_fillRing_keeps (s : State) (col0 n : Nat) (p : Plan) (i tidx : Nat) :
    ((State.fillRing s col0 n p i tidx).2).pending = s.pending ∧ ((State.fillRing s col0 n p i tidx).2).ident = s.ident := by
  unfold State.fillRing
  try dsimp only
  (repeat' split) <;> simp_all [apply_ite]

@[simp] theorem State_fillRings_keeps (s : State) (pn : Nat) (reload : Bool) :
    ((State.fillRings s pn reload).2).pending = s.pending ∧ ((State.fillRings s pn reload).2).ident = s.ident := by
  unfold State.fillRings
  split
  · rename_i q _
    have inner : ∀ (x : Plan × Nat) (l : List (Nat × Nat)) (r : Bool × State), r.2.pending = s.pending ∧ r.2.ident = s.ident →
        (l.foldl (fun (r : Bool × State) t => if r.1 then r.2.fillRing q.col0 x.2 x.1 t.2 t.1 else r) r).2.pending = s.pending ∧
        (l.foldl (fun (r : Bool × State) t => if r.1 then r.2.fillRing q.col0 x.2 x.1 t.2 t.1 else r) r).2.ident = s.ident := by
      intro x l
      induction l with
      | nil => intro r h; exact h
      | cons t ts ih =>
        intro r h
        apply ih
        dsimp only
        split
        · simp [h]
        · exact h
    suffices ∀ (l : List (Plan × Nat)) (r : Bool × State), r.2.pending = s.pending ∧ r.2.ident = s.ident →
        (l.foldl (fun r p => if p.1.move = 1 ∧ p.1.reload = reload then
          p.1.tiles.zipIdx.foldl (fun (r : Bool × State) t => if r.1 then r.2.fillRing q.col0 p.2 p.1 t.2 t.1 else r) r else r) r).2.pending = s.pending ∧
        (l.foldl (fun r p => if p.1.move = 1 ∧ p.1.reload = reload then
          p.1.tiles.zipIdx.foldl (fun (r : Bool × State) t => if r.1 then r.2.fillRing q.col0 p.2 p.1 t.2 t.1 else r) r else r) r).2.ident = s.ident from
      this _ _ ⟨rfl, rfl⟩
    intro l
    induction l with
    | nil => intro r h; exact h
    | cons x xs ih =>
      intro r h
      apply ih
      dsimp only
      split
      · exact inner _ _ _ h
      · exact h
  · exact ⟨rfl, rfl⟩

@[simp] theorem State_finishLoad_keeps (s : State) (pn : Nat) (p : Partition) (v : Cuvee) (j : LoadJob) :
    (State.finishLoad s pn p v j).pending = s.pending ∧ (State.finishLoad s pn p v j).ident = s.ident := by
  unfold State.finishLoad
  try dsimp only
  (repeat' split) <;> simp_all [apply_ite]

@[simp] theorem State_writeLoad_keeps (s : State) (pn : Nat) (v : Cuvee) (j : LoadJob) :
    (State.writeLoad s pn v j).pending = s.pending ∧ (State.writeLoad s pn v j).ident = s.ident := by
  unfold State.writeLoad
  split
  · simp
  · extract_lets s1
    have h1 : s1.pending = s.pending ∧ s1.ident = s.ident := by simp [s1]
    clear_value s1
    split
    · exact h1
    · extract_lets s2 cellar
      have h2 : s2.pending = s.pending ∧ s2.ident = s.ident := by simp [s2, h1]
      clear_value s2
      split
      · simp [h2]
      · rename_i hb
        have h3 := State_backAll_keeps _ _ _ _ hb
        extract_lets t1 t2 w
        have h4 : w.2.pending = s.pending ∧ w.2.ident = s.ident := by simp [w, t2, t1, h3, h2]
        clear_value w
        split
        · split
          · rename_i hn
            have h5 := State_allNear_keeps _ _ _ hn
            extract_lets r
            have h6 : r.2.pending = s.pending ∧ r.2.ident = s.ident := by simp [r, h5, h4]
            split <;> simp [h6]
          · simp [h4]
        · simp [h4]

@[simp] theorem beginCaskLoad_keeps (c : Cmd) (p : Partition) (slot : Nat) (l : List Img) (s : State) :
    (beginCaskLoad c p slot l s).pending = s.pending ∧ (beginCaskLoad c p slot l s).ident = s.ident ∧ (beginCaskLoad c p slot l s).mem = s.mem := by
  unfold beginCaskLoad
  try dsimp only
  (repeat' split) <;> simp_all [apply_ite]

@[simp] theorem doCaskLoad_keeps (c : Cmd) (s : State) :
    (doCaskLoad c s).pending = s.pending ∧ (doCaskLoad c s).ident = s.ident := by
  unfold doCaskLoad
  try dsimp only
  (repeat' split) <;> simp_all [apply_ite]

theorem execCaskLoad_keeps (c : Cmd) (s : State) :
    ∀ nx, execCaskLoad c s = .next nx → (nx).pending = s.pending ∧ (nx).ident = s.ident := by
  intro nx h
  cases h
  simp

@[simp] theorem State_writeLine_keeps (s : State) (pn : Nat) (p : Partition) (j : CaskJob) (tidx line : Nat) (data : Bytes) :
    (State.writeLine s pn p j tidx line data).pending = s.pending ∧ (State.writeLine s pn p j tidx line data).ident = s.ident ∧ (State.writeLine s pn p j tidx line data).mem = s.mem := by
  unfold State.writeLine
  try dsimp only
  (repeat' split) <;> simp_all [apply_ite]

@[simp] theorem State_caskFailed_keeps (s : State) (pn : Nat) (j : CaskJob) :
    (State.caskFailed s pn j).pending = s.pending ∧ (State.caskFailed s pn j).ident = s.ident ∧ (State.caskFailed s pn j).mem = s.mem := by
  unfold State.caskFailed
  try dsimp only
  (repeat' split) <;> simp_all [apply_ite]

theorem execLoadCompletion_keeps (part : Nat) (ok : Bool) (s : State) :
    ∀ nx, execLoadCompletion part ok s = .next nx → (nx).pending = s.pending ∧ (nx).ident = s.ident := by
  intro nx h
  unfold execLoadCompletion at h
  split at h
  · split at h
    · rename_i j _
      split at h
      · split at h
        · have hr := State_readCuvee_keeps s j.image
          split at h
          · rename_i hq
            simp only [hq] at hr
            cases h
            simp [hr]
          · rename_i hq
            simp only [hq] at hr
            cases h
            simp [hr]
        · cases h; simp
      · cases h; simp
    · split at h <;> cases h <;> simp
    · cases h; simp
  · cases h; simp

theorem execCaskImageLineWrite_keeps (part slot tileIndex line : Nat) (data : Bytes) (found : Ecc) (s : State) :
    ∀ nx, execCaskImageLineWrite part slot tileIndex line data found s = .next nx → (nx).pending = s.pending ∧ (nx).ident = s.ident := by
  intro nx h
  unfold execCaskImageLineWrite at h
  try dsimp only at h
  (repeat' split at h) <;> (try cases h) <;> simp (disch := (intros; (repeat' split) <;> simp_all)) [apply_ite, *]

@[simp] theorem doCaskEvict_keeps (c : Cmd) (s : State) :
    (doCaskEvict c s).pending = s.pending ∧ (doCaskEvict c s).ident = s.ident ∧ (doCaskEvict c s).mem = s.mem := by
  unfold doCaskEvict
  try dsimp only
  (repeat' split) <;> simp_all [apply_ite]

theorem execCaskEvict_keeps (c : Cmd) (s : State) :
    ∀ nx, execCaskEvict c s = .next nx → (nx).pending = s.pending ∧ (nx).ident = s.ident ∧ (nx).mem = s.mem := by
  intro nx h
  cases h
  simp

@[simp] theorem doPartReset_keeps (c : Cmd) (s : State) :
    (doPartReset c s).pending = s.pending ∧ (doPartReset c s).ident = s.ident := by
  unfold doPartReset
  try dsimp only
  (repeat' split) <;> simp_all [apply_ite]

theorem execPartReset_keeps (c : Cmd) (s : State) :
    ∀ nx, execPartReset c s = .next nx → (nx).pending = s.pending ∧ (nx).ident = s.ident := by
  intro nx h
  cases h
  simp

@[simp] theorem doPartQuery_keeps (c : Cmd) (s : State) :
    (doPartQuery c s).pending = s.pending ∧ (doPartQuery c s).ident = s.ident ∧ (doPartQuery c s).mem = s.mem := by
  unfold doPartQuery
  try dsimp only
  (repeat' split) <;> simp_all [apply_ite]

theorem execPartQuery_keeps (c : Cmd) (s : State) :
    ∀ nx, execPartQuery c s = .next nx → (nx).pending = s.pending ∧ (nx).ident = s.ident ∧ (nx).mem = s.mem := by
  intro nx h
  cases h
  simp

@[simp] theorem doPartInspect_keeps (c : Cmd) (s : State) :
    (doPartInspect c s).pending = s.pending ∧ (doPartInspect c s).ident = s.ident := by
  unfold doPartInspect
  try dsimp only
  (repeat' split) <;> simp_all [apply_ite]

theorem execPartInspect_keeps (c : Cmd) (s : State) :
    ∀ nx, execPartInspect c s = .next nx → (nx).pending = s.pending ∧ (nx).ident = s.ident := by
  intro nx h
  cases h
  simp

/-! ## The canonical form of the tiers stays -/

theorem State_backAll_memOk (s : State) (cellar : List Nat) (z0 : List Nat) (h : MemOk s.mem) :
    ∀ nx, State.backAll s cellar z0 = some nx → MemOk nx.mem := by
  induction z0 generalizing s with
  | nil => intro nx hx; simp [State.backAll] at hx; exact hx ▸ h
  | cons u us ih =>
    intro nx hx
    rw [State.backAll] at hx
    split at hx
    · exact ih _ h _ hx
    · dsimp only at hx
      generalize (if cellar.contains u = true then 1 else 0) = q at hx
      split at hx
      · cases hx
      · exact ih _ (State_mapUnit_memOk _ _ _ _ h) _ hx


@[simp] theorem State_reserveUnits_memOk (s : State) (v : Cuvee) (left : List Nat) (h : MemOk s.mem) :
    MemOk (State.reserveUnits s v left).2.mem := by
  unfold State.reserveUnits
  split
  · rename_i hx
    exact State_backAll_memOk _ _ _ h _ hx
  · exact h


@[simp] theorem beginLoad_memOk (c : Cmd) (v : Cuvee) (image slot col0 : Nat) (s : State) (h : MemOk s.mem) :
    MemOk (beginLoad c v image slot col0 s).mem := by
  unfold beginLoad
  try dsimp only
  (repeat' split) <;> simp_all [MemOk]

@[simp] theorem doCuveeLoad_memOk (c : Cmd) (s : State) (h : MemOk s.mem) :
    MemOk (doCuveeLoad c s).mem := by
  have hr := State_readCuvee_memOk s (fld c.desc 16 0 48) h
  unfold doCuveeLoad
  dsimp only
  split
  · rename_i hx; simp only [hx] at hr; simpa using hr
  · rename_i hx; simp only [hx] at hr; simpa using hr
  · rename_i hx
    simp only [hx] at hr
    split
    · simpa using hr
    · exact beginLoad_memOk _ _ _ _ _ _ hr


theorem execCuveeLoad_memOk (c : Cmd) (s : State) (h : MemOk s.mem) :
    ∀ nx, execCuveeLoad c s = .next nx → MemOk nx.mem := by
  intro nx hx
  unfold execCuveeLoad at hx
  try dsimp only at hx
  (repeat' split at hx) <;> (try cases hx) <;> simp_all [MemOk]

@[simp] theorem beginSwap_memOk (c : Cmd) (v : Cuvee) (p : Partition) (s : State) (h : MemOk s.mem) :
    MemOk (beginSwap c v p s).mem := by
  unfold beginSwap
  try dsimp only
  (repeat' split) <;> simp_all [MemOk]

@[simp] theorem doCuveeSwap_memOk (c : Cmd) (s : State) (h : MemOk s.mem) :
    MemOk (doCuveeSwap c s).mem := by
  have hr := State_readCuvee_memOk s (fld c.desc 16 0 48) h
  unfold doCuveeSwap
  split
  · simpa using h
  · split
    · simpa using h
    · split
      · rename_i hx; simp only [hx] at hr; simpa using hr
      · rename_i hx; simp only [hx] at hr; simpa using hr
      · rename_i hx
        simp only [hx] at hr
        split
        · simpa using hr
        · split
          · simpa using hr
          · exact beginSwap_memOk _ _ _ _ hr


theorem execCuveeSwap_memOk (c : Cmd) (s : State) (h : MemOk s.mem) :
    ∀ nx, execCuveeSwap c s = .next nx → MemOk nx.mem := by
  intro nx hx
  unfold execCuveeSwap at hx
  try dsimp only at hx
  (repeat' split at hx) <;> (try cases hx) <;> simp_all [MemOk]

@[simp] theorem State_emptyCasks_memOk (s : State) (pn : Nat) (h : MemOk s.mem) :
    MemOk (State.emptyCasks s pn).mem := by
  unfold State.emptyCasks
  try dsimp only
  (repeat' split) <;> simp_all [MemOk]

@[simp] theorem State_toCellar_memOk (s : State) (u : Nat) (h : MemOk s.mem) :
    MemOk (State.toCellar s u).mem := by
  unfold State.toCellar
  try dsimp only
  (repeat' split) <;> simp (disch := (intros; (repeat' split) <;> simp_all [MemOk])) [MemOk, *]

@[simp] theorem State_copyBytes_memOk (s : State) (src dst n : Nat) (h : MemOk s.mem) :
    MemOk (State.copyBytes s src dst n).2.mem := by
  unfold State.copyBytes
  try dsimp only
  (repeat' split) <;> simp_all [MemOk]

@[simp] theorem State_copyTensor_memOk (s : State) (image : Nat) (t : Tensor) (h : MemOk s.mem) :
    MemOk (State.copyTensor s image t).2.mem := by
  unfold State.copyTensor
  try dsimp only
  (repeat' split) <;> simp_all [MemOk]

@[simp] theorem State_copyTensors_memOk (s : State) (image : Nat) (z0 : List Tensor) (h : MemOk s.mem) :
    MemOk (State.copyTensors s image z0).2.mem := by
  induction z0 generalizing s with
  | nil => exact h
  | cons t ts ih =>
    have hc := State_copyTensor_memOk s image t h
    unfold State.copyTensors
    dsimp only
    split
    · exact ih _ hc
    · exact hc

@[simp] theorem State_loadFailed_memOk (s : State) (pn : Nat) (j : LoadJob) (h : MemOk s.mem) :
    MemOk (State.loadFailed s pn j).mem := by
  unfold State.loadFailed
  try dsimp only
  (repeat' split) <;> simp_all [MemOk]

@[simp] theorem State_afterSwap_memOk (s : State) (pn : Nat) (p : Partition) (keep : Bool) (h : MemOk s.mem) :
    MemOk (State.afterSwap s pn p keep).mem := by
  unfold State.afterSwap
  repeat' (first | assumption | (intro _; done) | split | dsimp only | simp only [State_resumeReq_keeps, State_probeAgain_keeps, State_rebuildPool_keeps, State_modReq_keeps, State_endReq_keeps] | with_reducible apply State_skipPrefill_memOk | with_reducible apply foldl_memOk | with_reducible apply foldl_memOkM | intro _)

@[simp] theorem State_fillRing_memOk (s : State) (col0 n : Nat) (p : Plan) (i tidx : Nat) (h : MemOk s.mem) :
    MemOk (State.fillRing s col0 n p i tidx).2.mem := by
  unfold State.fillRing
  try dsimp only
  (repeat' split) <;> simp_all [MemOk]

@[simp] theorem State_fillRings_memOk (s : State) (pn : Nat) (reload : Bool) (h : MemOk s.mem) :
    MemOk (State.fillRings s pn reload).2.mem := by
  unfold State.fillRings
  split
  · rename_i q _
    have inner : ∀ (x : Plan × Nat) (l : List (Nat × Nat)) (r : Bool × State), MemOk r.2.mem →
        MemOk (l.foldl (fun (r : Bool × State) t => if r.1 then r.2.fillRing q.col0 x.2 x.1 t.2 t.1 else r) r).2.mem := by
      intro x l
      induction l with
      | nil => intro r h; exact h
      | cons t ts ih =>
        intro r h
        apply ih
        dsimp only
        split
        · exact State_fillRing_memOk _ _ _ _ _ _ h
        · exact h
    suffices ∀ (l : List (Plan × Nat)) (r : Bool × State), MemOk r.2.mem →
        MemOk (l.foldl (fun r p => if p.1.move = 1 ∧ p.1.reload = reload then
          p.1.tiles.zipIdx.foldl (fun (r : Bool × State) t => if r.1 then r.2.fillRing q.col0 p.2 p.1 t.2 t.1 else r) r else r) r).2.mem from
      this _ _ h
    intro l
    induction l with
    | nil => intro r h; exact h
    | cons x xs ih =>
      intro r h
      apply ih
      dsimp only
      split
      · exact inner _ _ _ h
      · exact h
  · exact h

@[simp] theorem State_finishLoad_memOk (s : State) (pn : Nat) (p : Partition) (v : Cuvee) (j : LoadJob) (h : MemOk s.mem) :
    MemOk (State.finishLoad s pn p v j).mem := by
  unfold State.finishLoad
  try dsimp only
  (repeat' split) <;> simp_all [MemOk]

@[simp] theorem State_writeLoad_memOk (s : State) (pn : Nat) (v : Cuvee) (j : LoadJob) (h : MemOk s.mem) :
    MemOk (State.writeLoad s pn v j).mem := by
  unfold State.writeLoad
  split
  · exact h
  · extract_lets s1
    have h1 : MemOk s1.mem := by simpa [s1] using h
    clear_value s1
    split
    · exact h1
    · extract_lets s2 cellar
      have h2 : MemOk s2.mem := by simpa [s2] using h1
      clear_value s2
      split
      · exact State_loadFailed_memOk _ _ _ h2
      · rename_i hb
        have h3 := State_backAll_memOk _ _ _ h2 _ hb
        extract_lets t1 t2 w
        have h4 : MemOk t2.mem := foldl_memOk State.toCellar (fun s u hs => State_toCellar_memOk s u hs) _ _ (by simpa [t1] using h3)
        have h5 : MemOk w.2.mem := State_copyTensors_memOk _ _ _ h4
        clear_value w
        split
        · split
          · rename_i hn
            have h6 := State_allNear_memOk _ _ (foldl_memOk State.refreshPin (fun s u hs => State_refreshPin_memOk s u hs) _ _ h5) _ hn
            extract_lets r
            have h7 : MemOk r.2.mem := State_fillRings_memOk _ _ _ h6
            split
            · exact State_finishLoad_memOk _ _ _ _ _ h7
            · exact State_loadFailed_memOk _ _ _ h7
          · exact State_loadFailed_memOk _ _ _ h5
        · exact State_loadFailed_memOk _ _ _ h5

@[simp] theorem doCaskLoad_memOk (c : Cmd) (s : State) (h : MemOk s.mem) :
    MemOk (doCaskLoad c s).mem := by
  unfold doCaskLoad
  try dsimp only
  (repeat' split) <;> simp_all [MemOk]

theorem execCaskLoad_memOk (c : Cmd) (s : State) (h : MemOk s.mem) :
    ∀ nx, execCaskLoad c s = .next nx → MemOk nx.mem := by
  intro nx hx
  unfold execCaskLoad at hx
  try dsimp only at hx
  (repeat' split at hx) <;> (try cases hx) <;> simp_all [MemOk]

theorem execLoadCompletion_memOk (part : Nat) (ok : Bool) (s : State) (h : MemOk s.mem) :
    ∀ nx, execLoadCompletion part ok s = .next nx → MemOk nx.mem := by
  intro nx hx
  unfold execLoadCompletion at hx
  split at hx
  · split at hx
    · rename_i j _
      split at hx
      · split at hx
        · have hr := State_readCuvee_memOk s j.image h
          split at hx
          · rename_i hq
            simp only [hq] at hr
            cases hx
            exact State_settlePeers_memOk _ (State_writeLoad_memOk _ _ _ _ hr)
          · rename_i hq
            simp only [hq] at hr
            cases hx
            exact State_loadFailed_memOk _ _ _ hr
        · cases hx; exact State_loadFailed_memOk _ _ _ h
      · cases hx; exact h
    · split at hx
      · cases hx; simpa using h
      · cases hx; exact h
    · cases hx; exact h
  · cases hx; exact h

theorem execCaskImageLineWrite_memOk (part slot tileIndex line : Nat) (data : Bytes) (found : Ecc) (s : State) (h : MemOk s.mem) :
    ∀ nx, execCaskImageLineWrite part slot tileIndex line data found s = .next nx → MemOk nx.mem := by
  intro nx hx
  unfold execCaskImageLineWrite at hx
  try dsimp only at hx
  (repeat' split at hx) <;> (try cases hx) <;> simp (disch := (intros; (repeat' split) <;> simp_all [MemOk])) [MemOk, *]

@[simp] theorem doPartReset_memOk (c : Cmd) (s : State) (h : MemOk s.mem) :
    MemOk (doPartReset c s).mem := by
  unfold doPartReset
  try dsimp only
  (repeat' split) <;> simp_all [MemOk]

theorem execPartReset_memOk (c : Cmd) (s : State) (h : MemOk s.mem) :
    ∀ nx, execPartReset c s = .next nx → MemOk nx.mem := by
  intro nx hx
  unfold execPartReset at hx
  try dsimp only at hx
  (repeat' split at hx) <;> (try cases hx) <;> simp_all [MemOk]

@[simp] theorem doPartInspect_memOk (c : Cmd) (s : State) (h : MemOk s.mem) :
    MemOk (doPartInspect c s).mem := by
  unfold doPartInspect
  try dsimp only
  (repeat' split) <;> simp_all [MemOk]

theorem execPartInspect_memOk (c : Cmd) (s : State) (h : MemOk s.mem) :
    ∀ nx, execPartInspect c s = .next nx → MemOk nx.mem := by
  intro nx hx
  unfold execPartInspect at hx
  try dsimp only at hx
  (repeat' split at hx) <;> (try cases hx) <;> simp_all [MemOk]

end Sys2Proof.Machine
end

