-- ==== Sys2Proof/Laws/KeepCommit.lean ====
section
/-! SUPPORT. What no operation or command of Machine/Commit.lean touches: the queue, who owns the device, and (`_keeps`, where it writes no tier) the memory; where it may write one, `_memOk` says the canonical form stays. -/

namespace Sys2Proof.Machine

@[simp] theorem State_setTxn_keeps (s : State) (target : Nat) (t : Option Txn) :
    (State.setTxn s target t).pending = s.pending ∧ (State.setTxn s target t).ident = s.ident ∧ (State.setTxn s target t).mem = s.mem := by
  unfold State.setTxn
  try dsimp only
  (repeat' split) <;> simp_all [apply_ite]

@[simp] theorem doCfgBegin_keeps (c : Cmd) (s : State) :
    (doCfgBegin c s).pending = s.pending ∧ (doCfgBegin c s).ident = s.ident ∧ (doCfgBegin c s).mem = s.mem := by
  unfold doCfgBegin
  try dsimp only
  (repeat' split) <;> simp_all [apply_ite]

theorem execCfgBegin_keeps (c : Cmd) (s : State) :
    ∀ nx, execCfgBegin c s = .next nx → (nx).pending = s.pending ∧ (nx).ident = s.ident ∧ (nx).mem = s.mem := by
  intro nx h
  cases h
  simp

@[simp] theorem doCfgSet_keeps (c : Cmd) (s : State) :
    (doCfgSet c s).pending = s.pending ∧ (doCfgSet c s).ident = s.ident ∧ (doCfgSet c s).mem = s.mem := by
  unfold doCfgSet
  try dsimp only
  (repeat' split) <;> simp_all [apply_ite]

theorem execCfgSet_keeps (c : Cmd) (s : State) :
    ∀ nx, execCfgSet c s = .next nx → (nx).pending = s.pending ∧ (nx).ident = s.ident ∧ (nx).mem = s.mem := by
  intro nx h
  cases h
  simp

@[simp] theorem State_applyNow_keeps (s : State) (target : Nat) (t : Txn) :
    (State.applyNow s target t).pending = s.pending ∧ (State.applyNow s target t).ident = s.ident := by
  unfold State.applyNow
  try dsimp only
  (repeat' split) <;> simp_all [apply_ite]

@[simp] theorem beginCommit_keeps (c : Cmd) (t : Txn) (s : State) :
    (beginCommit c t s).pending = s.pending ∧ (beginCommit c t s).ident = s.ident := by
  unfold beginCommit
  try dsimp only
  (repeat' split) <;> simp_all [apply_ite]

@[simp] theorem doCfgCommit_keeps (c : Cmd) (s : State) :
    (doCfgCommit c s).pending = s.pending ∧ (doCfgCommit c s).ident = s.ident := by
  unfold doCfgCommit
  try dsimp only
  (repeat' split) <;> simp_all [apply_ite]

theorem execCfgCommit_keeps (c : Cmd) (s : State) :
    ∀ nx, execCfgCommit c s = .next nx → (nx).pending = s.pending ∧ (nx).ident = s.ident := by
  intro nx h
  cases h
  simp

theorem execCfgCommitDeadline_keeps (target : Nat) (s : State) :
    ∀ nx, execCfgCommitDeadline target s = .next nx → (nx).pending = s.pending ∧ (nx).ident = s.ident := by
  intro nx h
  unfold execCfgCommitDeadline at h
  try dsimp only at h
  (repeat' split at h) <;> (try cases h) <;> simp_all [apply_ite]

@[simp] theorem doCfgAbort_keeps (c : Cmd) (s : State) :
    (doCfgAbort c s).pending = s.pending ∧ (doCfgAbort c s).ident = s.ident := by
  unfold doCfgAbort
  try dsimp only
  (repeat' split) <;> simp_all [apply_ite]

theorem execCfgAbort_keeps (c : Cmd) (s : State) :
    ∀ nx, execCfgAbort c s = .next nx → (nx).pending = s.pending ∧ (nx).ident = s.ident := by
  intro nx h
  cases h
  simp

@[simp] theorem doCfgRead_keeps (c : Cmd) (s : State) :
    (doCfgRead c s).pending = s.pending ∧ (doCfgRead c s).ident = s.ident ∧ (doCfgRead c s).mem = s.mem := by
  unfold doCfgRead
  try dsimp only
  (repeat' split) <;> simp_all [apply_ite]

theorem execCfgRead_keeps (c : Cmd) (s : State) :
    ∀ nx, execCfgRead c s = .next nx → (nx).pending = s.pending ∧ (nx).ident = s.ident ∧ (nx).mem = s.mem := by
  intro nx h
  cases h
  simp

theorem execCfgAutoAbort_keeps (target : Nat) (s : State) :
    ∀ nx, execCfgAutoAbort target s = .next nx → (nx).pending = s.pending ∧ (nx).ident = s.ident ∧ (nx).mem = s.mem := by
  intro nx h
  unfold execCfgAutoAbort at h
  try dsimp only at h
  (repeat' split at h) <;> (try cases h) <;> simp_all [apply_ite]

/-! ## The canonical form of the tiers stays -/

@[simp] theorem State_applyNow_memOk (s : State) (target : Nat) (t : Txn) (h : MemOk s.mem) :
    MemOk (State.applyNow s target t).mem := by
  unfold State.applyNow
  try dsimp only
  (repeat' split) <;> simp_all [MemOk]

@[simp] theorem beginCommit_memOk (c : Cmd) (t : Txn) (s : State) (h : MemOk s.mem) :
    MemOk (beginCommit c t s).mem := by
  unfold beginCommit
  try dsimp only
  (repeat' split) <;> simp_all [MemOk]

@[simp] theorem doCfgCommit_memOk (c : Cmd) (s : State) (h : MemOk s.mem) :
    MemOk (doCfgCommit c s).mem := by
  unfold doCfgCommit
  try dsimp only
  (repeat' split) <;> simp_all [MemOk]

theorem execCfgCommit_memOk (c : Cmd) (s : State) (h : MemOk s.mem) :
    ∀ nx, execCfgCommit c s = .next nx → MemOk nx.mem := by
  intro nx hx
  unfold execCfgCommit at hx
  try dsimp only at hx
  (repeat' split at hx) <;> (try cases hx) <;> simp_all [MemOk]

theorem execCfgCommitDeadline_memOk (target : Nat) (s : State) (h : MemOk s.mem) :
    ∀ nx, execCfgCommitDeadline target s = .next nx → MemOk nx.mem := by
  intro nx hx
  unfold execCfgCommitDeadline at hx
  try dsimp only at hx
  (repeat' split at hx) <;> (try cases hx) <;> simp_all [MemOk]

@[simp] theorem doCfgAbort_memOk (c : Cmd) (s : State) (h : MemOk s.mem) :
    MemOk (doCfgAbort c s).mem := by
  unfold doCfgAbort
  try dsimp only
  (repeat' split) <;> simp_all [MemOk]

theorem execCfgAbort_memOk (c : Cmd) (s : State) (h : MemOk s.mem) :
    ∀ nx, execCfgAbort c s = .next nx → MemOk nx.mem := by
  intro nx hx
  unfold execCfgAbort at hx
  try dsimp only at hx
  (repeat' split at hx) <;> (try cases hx) <;> simp_all [MemOk]

end Sys2Proof.Machine
end

