-- ==== Sys2Proof/Laws/KeepFabric.lean ====
section
/-! SUPPORT. What no operation or command of Machine/Fabric.lean touches: the queue, who owns the device, and (`_keeps`, where it writes no tier) the memory; where it may write one, `_memOk` says the canonical form stays. -/

namespace Sys2Proof.Machine

@[simp] theorem State_takeFabric_keeps (s : State) (r : FabReq) :
    (State.takeFabric s r).pending = s.pending ∧ (State.takeFabric s r).ident = s.ident ∧ (State.takeFabric s r).mem = s.mem := by
  unfold State.takeFabric
  try dsimp only
  (repeat' split) <;> simp_all [apply_ite]

theorem execFabricRequest_keeps (r : FabReq) (s : State) :
    ∀ nx, execFabricRequest r s = .next nx → (nx).pending = s.pending ∧ (nx).ident = s.ident := by
  intro nx h
  unfold execFabricRequest at h
  try dsimp only at h
  (repeat' split at h) <;> (try cases h) <;> simp_all [apply_ite]

@[simp] theorem requestRow_keeps (ptype : Nat) (p : Packet) (s : State) :
    (requestRow ptype p s).pending = s.pending ∧ (requestRow ptype p s).ident = s.ident := by
  unfold requestRow
  try dsimp only
  (repeat' split) <;> simp_all [apply_ite]

theorem execRd_keeps (p : Packet) (s : State) :
    ∀ nx, execRd p s = .next nx → (nx).pending = s.pending ∧ (nx).ident = s.ident := by
  intro nx h
  cases h
  simp

theorem execWr_keeps (p : Packet) (s : State) :
    ∀ nx, execWr p s = .next nx → (nx).pending = s.pending ∧ (nx).ident = s.ident := by
  intro nx h
  cases h
  simp

theorem execAdd32_keeps (p : Packet) (s : State) :
    ∀ nx, execAdd32 p s = .next nx → (nx).pending = s.pending ∧ (nx).ident = s.ident := by
  intro nx h
  cases h
  simp

theorem execAdd64_keeps (p : Packet) (s : State) :
    ∀ nx, execAdd64 p s = .next nx → (nx).pending = s.pending ∧ (nx).ident = s.ident := by
  intro nx h
  cases h
  simp

theorem execFadd32_keeps (p : Packet) (s : State) :
    ∀ nx, execFadd32 p s = .next nx → (nx).pending = s.pending ∧ (nx).ident = s.ident := by
  intro nx h
  cases h
  simp

theorem execFadd64_keeps (p : Packet) (s : State) :
    ∀ nx, execFadd64 p s = .next nx → (nx).pending = s.pending ∧ (nx).ident = s.ident := by
  intro nx h
  cases h
  simp

theorem execBarArrive_keeps (p : Packet) (s : State) :
    ∀ nx, execBarArrive p s = .next nx → (nx).pending = s.pending ∧ (nx).ident = s.ident := by
  intro nx h
  cases h
  simp

theorem execBarRelease_keeps (p : Packet) (s : State) :
    ∀ nx, execBarRelease p s = .next nx → (nx).pending = s.pending ∧ (nx).ident = s.ident := by
  intro nx h
  cases h
  simp

@[simp] theorem responseRow_keeps (ptype port : Nat) (p : Packet) (s : State) :
    (responseRow ptype port p s).pending = s.pending ∧ (responseRow ptype port p s).ident = s.ident := by
  unfold responseRow
  try dsimp only
  (repeat' split) <;> simp_all [apply_ite]

theorem execRddata_keeps (port : Nat) (p : Packet) (s : State) :
    ∀ nx, execRddata port p s = .next nx → (nx).pending = s.pending ∧ (nx).ident = s.ident := by
  intro nx h
  cases h
  simp

theorem execAck_keeps (port : Nat) (p : Packet) (s : State) :
    ∀ nx, execAck port p s = .next nx → (nx).pending = s.pending ∧ (nx).ident = s.ident := by
  intro nx h
  cases h
  simp

theorem execAtdata_keeps (port : Nat) (p : Packet) (s : State) :
    ∀ nx, execAtdata port p s = .next nx → (nx).pending = s.pending ∧ (nx).ident = s.ident := by
  intro nx h
  cases h
  simp

theorem execSereply_keeps (port : Nat) (p : Packet) (s : State) :
    ∀ nx, execSereply port p s = .next nx → (nx).pending = s.pending ∧ (nx).ident = s.ident := by
  intro nx h
  cases h
  simp

theorem execErr_keeps (port : Nat) (p : Packet) (s : State) :
    ∀ nx, execErr port p s = .next nx → (nx).pending = s.pending ∧ (nx).ident = s.ident := by
  intro nx h
  cases h
  simp

@[simp] theorem timeOut_keeps (t : FabTx) (s : State) :
    (timeOut t s).pending = s.pending ∧ (timeOut t s).ident = s.ident := by
  unfold timeOut
  try dsimp only
  (repeat' split) <;> simp_all [apply_ite]

theorem execFabricTimeout_keeps (tag : Nat) (s : State) :
    ∀ nx, execFabricTimeout tag s = .next nx → (nx).pending = s.pending ∧ (nx).ident = s.ident := by
  intro nx h
  unfold execFabricTimeout at h
  try dsimp only at h
  (repeat' split at h) <;> (try cases h) <;> simp_all [apply_ite]

theorem execTagWithholdExpiry_keeps (tag : Nat) (s : State) :
    ∀ nx, execTagWithholdExpiry tag s = .next nx → (nx).pending = s.pending ∧ (nx).ident = s.ident := by
  intro nx h
  cases h
  simp

theorem execPortHoldEnd_keeps (hop : Nat) (s : State) :
    ∀ nx, execPortHoldEnd hop s = .next nx → (nx).pending = s.pending ∧ (nx).ident = s.ident := by
  intro nx h
  unfold execPortHoldEnd at h
  try dsimp only at h
  (repeat' split at h) <;> (try cases h) <;> simp_all [apply_ite]

theorem execGenerationHoldExpiry_keeps (hop : Nat) (s : State) :
    ∀ nx, execGenerationHoldExpiry hop s = .next nx → (nx).pending = s.pending ∧ (nx).ident = s.ident := by
  intro nx h
  unfold execGenerationHoldExpiry at h
  try dsimp only at h
  (repeat' split at h) <;> (try cases h) <;> simp_all [apply_ite]

theorem execBarrierKeepalive_keeps (home id : Nat) (answer : Option Nat) (s : State) :
    ∀ nx, execBarrierKeepalive home id answer s = .next nx → (nx).pending = s.pending ∧ (nx).ident = s.ident := by
  intro nx h
  unfold execBarrierKeepalive at h
  try dsimp only at h
  (repeat' split at h) <;> (try cases h) <;> simp_all [apply_ite]

@[simp] theorem State_unsetBarrier_keeps (s : State) (id : Nat) :
    (State.unsetBarrier s id).pending = s.pending ∧ (State.unsetBarrier s id).ident = s.ident ∧ (State.unsetBarrier s id).mem = s.mem := ⟨rfl, rfl, rfl⟩

theorem execBarrierRoundLimit_keeps (id : Nat) (s : State) :
    ∀ nx, execBarrierRoundLimit id s = .next nx → (nx).pending = s.pending ∧ (nx).ident = s.ident ∧ (nx).mem = s.mem := by
  intro nx h
  unfold execBarrierRoundLimit at h
  try dsimp only at h
  (repeat' split at h) <;> (try cases h) <;> simp_all [apply_ite]

@[simp] theorem State_onWire_keeps (s : State) (k : Nat) (p : Option Packet) (t : Trailer) :
    (State.onWire s k p t).pending = s.pending ∧ (State.onWire s k p t).ident = s.ident ∧ (State.onWire s k p t).mem = s.mem := ⟨rfl, rfl, rfl⟩

@[simp] theorem State_acceptPacket_keeps (s : State) (k : Nat) (res : Bool) (p : Packet) :
    (State.acceptPacket s k res p).pending = s.pending ∧ (State.acceptPacket s k res p).ident = s.ident ∧ (State.acceptPacket s k res p).mem = s.mem := by
  unfold State.acceptPacket
  try dsimp only
  (repeat' split) <;> simp_all [apply_ite]

@[simp] theorem replayExhausted_keeps (port : Nat) (s : State) :
    (replayExhausted port s).pending = s.pending ∧ (replayExhausted port s).ident = s.ident := by
  unfold replayExhausted
  try dsimp only
  (repeat' split) <;> simp_all [apply_ite]

@[simp] theorem State_replayFrom_keeps (s : State) (port seq : Nat) :
    (State.replayFrom s port seq).pending = s.pending ∧ (State.replayFrom s port seq).ident = s.ident := by
  unfold State.replayFrom
  try dsimp only
  (repeat' split) <;> simp_all [apply_ite]

theorem execDvqReplayRequest_keeps (port seq : Nat) (s : State) :
    ∀ nx, execDvqReplayRequest port seq s = .next nx → (nx).pending = s.pending ∧ (nx).ident = s.ident := by
  intro nx h
  unfold execDvqReplayRequest at h
  try dsimp only at h
  (repeat' split at h) <;> (try cases h) <;> simp_all [apply_ite]

@[simp] theorem State_replayAsked_keeps (s : State) (port : Nat) (t : Trailer) :
    (State.replayAsked s port t).pending = s.pending ∧ (State.replayAsked s port t).ident = s.ident := by
  unfold State.replayAsked
  try dsimp only
  (repeat' split) <;> simp_all [apply_ite]

theorem execDvqPacketReceive_keeps (port : Nat) (t : Trailer) (p : Packet) (s : State) :
    ∀ nx, execDvqPacketReceive port t p s = .next nx → (nx).pending = s.pending ∧ (nx).ident = s.ident := by
  intro nx h
  unfold execDvqPacketReceive at h
  try dsimp only at h
  (repeat' split at h) <;> (try cases h) <;> simp_all [apply_ite]

theorem execEgressPacketSend_keeps (port : Nat) (s : State) :
    ∀ nx, execEgressPacketSend port s = .next nx → (nx).pending = s.pending ∧ (nx).ident = s.ident ∧ (nx).mem = s.mem := by
  intro nx h
  unfold execEgressPacketSend at h
  try dsimp only at h
  (repeat' split at h) <;> (try cases h) <;> simp_all [apply_ite]

theorem execIdleWordReceive_keeps (port : Nat) (t : Trailer) (s : State) :
    ∀ nx, execIdleWordReceive port t s = .next nx → (nx).pending = s.pending ∧ (nx).ident = s.ident := by
  intro nx h
  unfold execIdleWordReceive at h
  try dsimp only at h
  (repeat' split at h) <;> (try cases h) <;> simp_all [apply_ite]

theorem execLossOfSignal_keeps (port : Nat) (s : State) :
    ∀ nx, execLossOfSignal port s = .next nx → (nx).pending = s.pending ∧ (nx).ident = s.ident := by
  intro nx h
  unfold execLossOfSignal at h
  try dsimp only at h
  (repeat' split at h) <;> (try cases h) <;> simp_all [apply_ite]

theorem execTrainingRetryTimer_keeps (port : Nat) (s : State) :
    ∀ nx, execTrainingRetryTimer port s = .next nx → (nx).pending = s.pending ∧ (nx).ident = s.ident ∧ (nx).mem = s.mem := by
  intro nx h
  unfold execTrainingRetryTimer at h
  try dsimp only at h
  (repeat' split at h) <;> (try cases h) <;> simp_all [apply_ite]

theorem execTrainingNoSignal_keeps (port : Nat) (s : State) :
    ∀ nx, execTrainingNoSignal port s = .next nx → (nx).pending = s.pending ∧ (nx).ident = s.ident ∧ (nx).mem = s.mem := by
  intro nx h
  unfold execTrainingNoSignal at h
  try dsimp only at h
  (repeat' split at h) <;> (try cases h) <;> simp_all [apply_ite]

@[simp] theorem attemptFailed_keeps (port : Nat) (s : State) :
    (attemptFailed port s).pending = s.pending ∧ (attemptFailed port s).ident = s.ident ∧ (attemptFailed port s).mem = s.mem := ⟨rfl, rfl, rfl⟩

theorem execTrainingTimeout_keeps (port : Nat) (s : State) :
    ∀ nx, execTrainingTimeout port s = .next nx → (nx).pending = s.pending ∧ (nx).ident = s.ident ∧ (nx).mem = s.mem := by
  intro nx h
  unfold execTrainingTimeout at h
  try dsimp only at h
  (repeat' split at h) <;> (try cases h) <;> simp_all [apply_ite]

theorem execTrainingComplete_keeps (port lanes : Nat) (equal : Bytes) (adapted : Bool) (s : State) :
    ∀ nx, execTrainingComplete port lanes equal adapted s = .next nx → (nx).pending = s.pending ∧ (nx).ident = s.ident ∧ (nx).mem = s.mem := by
  intro nx h
  unfold execTrainingComplete at h
  try dsimp only at h
  (repeat' split at h) <;> (try cases h) <;> simp_all [apply_ite]

theorem execCharterReceive_keeps (port : Nat) (charter : Bytes) (s : State) :
    ∀ nx, execCharterReceive port charter s = .next nx → (nx).pending = s.pending ∧ (nx).ident = s.ident := by
  intro nx h
  unfold execCharterReceive at h
  try dsimp only at h
  (repeat' split at h) <;> (try cases h) <;> simp_all [apply_ite]

theorem execCharterVerdict_keeps (port : Nat) (accept : Bool) (s : State) :
    ∀ nx, execCharterVerdict port accept s = .next nx → (nx).pending = s.pending ∧ (nx).ident = s.ident := by
  intro nx h
  unfold execCharterVerdict at h
  try dsimp only at h
  (repeat' split at h) <;> (try cases h) <;> simp_all [apply_ite]

@[simp] theorem cableDown_keeps (port : Nat) (hot : Bool) (s : State) :
    (cableDown port hot s).pending = s.pending ∧ (cableDown port hot s).ident = s.ident := by
  unfold cableDown
  try dsimp only
  (repeat' split) <;> simp_all [apply_ite]

theorem execCableTemperaturePoll_keeps (port : Nat) (warning alarm temp : Int) (s : State) :
    ∀ nx, execCableTemperaturePoll port warning alarm temp s = .next nx → (nx).pending = s.pending ∧ (nx).ident = s.ident := by
  intro nx h
  unfold execCableTemperaturePoll at h
  try dsimp only at h
  (repeat' split at h) <;> (try cases h) <;> simp_all [apply_ite]

theorem execCableCooldownExpiry_keeps (port : Nat) (s : State) :
    ∀ nx, execCableCooldownExpiry port s = .next nx → (nx).pending = s.pending ∧ (nx).ident = s.ident ∧ (nx).mem = s.mem := by
  intro nx h
  unfold execCableCooldownExpiry at h
  try dsimp only at h
  (repeat' split at h) <;> (try cases h) <;> simp_all [apply_ite]

theorem execRetimerLockPoll_keeps (port : Nat) (locked : Bool) (s : State) :
    ∀ nx, execRetimerLockPoll port locked s = .next nx → (nx).pending = s.pending ∧ (nx).ident = s.ident := by
  intro nx h
  unfold execRetimerLockPoll at h
  try dsimp only at h
  (repeat' split at h) <;> (try cases h) <;> simp_all [apply_ite]

theorem execCableHotJoinOrLoss_keeps (port : Nat) (inventory : Option Bytes) (s : State) :
    ∀ nx, execCableHotJoinOrLoss port inventory s = .next nx → (nx).pending = s.pending ∧ (nx).ident = s.ident ∧ (nx).mem = s.mem := by
  intro nx h
  unfold execCableHotJoinOrLoss at h
  try dsimp only at h
  (repeat' split at h) <;> (try cases h) <;> simp_all [apply_ite]

theorem execCableBusSilent_keeps (bus : Nat) (s : State) :
    ∀ nx, execCableBusSilent bus s = .next nx → (nx).pending = s.pending ∧ (nx).ident = s.ident ∧ (nx).mem = s.mem := by
  intro nx h
  unfold execCableBusSilent at h
  try dsimp only at h
  (repeat' split at h) <;> (try cases h) <;> simp_all [apply_ite]

@[simp] theorem State_startPorts_keeps (s : State) (y z : Nat) :
    (State.startPorts s y z).pending = s.pending ∧ (State.startPorts s y z).ident = s.ident ∧ (State.startPorts s y z).mem = s.mem := by
  unfold State.startPorts
  try dsimp only
  (repeat' split) <;> simp_all [apply_ite]

@[simp] theorem doFabricSet_keeps (c : Cmd) (s : State) :
    (doFabricSet c s).pending = s.pending ∧ (doFabricSet c s).ident = s.ident ∧ (doFabricSet c s).mem = s.mem := by
  unfold doFabricSet
  try dsimp only
  (repeat' split) <;> simp_all [apply_ite]

theorem execFabricSet_keeps (c : Cmd) (s : State) :
    ∀ nx, execFabricSet c s = .next nx → (nx).pending = s.pending ∧ (nx).ident = s.ident ∧ (nx).mem = s.mem := by
  intro nx h
  cases h
  simp

@[simp] theorem doFabricPartSet_keeps (c : Cmd) (s : State) :
    (doFabricPartSet c s).pending = s.pending ∧ (doFabricPartSet c s).ident = s.ident ∧ (doFabricPartSet c s).mem = s.mem := by
  unfold doFabricPartSet
  try dsimp only
  (repeat' split) <;> simp_all [apply_ite]

theorem execFabricPartSet_keeps (c : Cmd) (s : State) :
    ∀ nx, execFabricPartSet c s = .next nx → (nx).pending = s.pending ∧ (nx).ident = s.ident ∧ (nx).mem = s.mem := by
  intro nx h
  cases h
  simp

@[simp] theorem partSwitch_keeps (cmd : Running) (r : Bytes) (s : State) :
    (partSwitch cmd r s).pending = s.pending ∧ (partSwitch cmd r s).ident = s.ident := by
  unfold partSwitch
  try dsimp only
  (repeat' split) <;> simp_all [apply_ite]

theorem execFabricPartSwitch_keeps (s : State) :
    ∀ nx, execFabricPartSwitch s = .next nx → (nx).pending = s.pending ∧ (nx).ident = s.ident := by
  intro nx h
  unfold execFabricPartSwitch at h
  try dsimp only at h
  (repeat' split at h) <;> (try cases h) <;> simp_all [apply_ite]

@[simp] theorem doBarrierSet_keeps (c : Cmd) (s : State) :
    (doBarrierSet c s).pending = s.pending ∧ (doBarrierSet c s).ident = s.ident ∧ (doBarrierSet c s).mem = s.mem := by
  unfold doBarrierSet
  try dsimp only
  (repeat' split) <;> simp_all [apply_ite]

theorem execBarrierSet_keeps (c : Cmd) (s : State) :
    ∀ nx, execBarrierSet c s = .next nx → (nx).pending = s.pending ∧ (nx).ident = s.ident ∧ (nx).mem = s.mem := by
  intro nx h
  cases h
  simp

@[simp] theorem doDvqPortQuery_keeps (c : Cmd) (s : State) :
    (doDvqPortQuery c s).pending = s.pending ∧ (doDvqPortQuery c s).ident = s.ident ∧ (doDvqPortQuery c s).mem = s.mem := by
  unfold doDvqPortQuery
  try dsimp only
  (repeat' split) <;> simp_all [apply_ite]

theorem execDvqPortQuery_keeps (c : Cmd) (s : State) :
    ∀ nx, execDvqPortQuery c s = .next nx → (nx).pending = s.pending ∧ (nx).ident = s.ident ∧ (nx).mem = s.mem := by
  intro nx h
  cases h
  simp

@[simp] theorem doDvqPortReset_keeps (c : Cmd) (s : State) :
    (doDvqPortReset c s).pending = s.pending ∧ (doDvqPortReset c s).ident = s.ident ∧ (doDvqPortReset c s).mem = s.mem := by
  unfold doDvqPortReset
  try dsimp only
  (repeat' split) <;> simp_all [apply_ite]

theorem execDvqPortReset_keeps (c : Cmd) (s : State) :
    ∀ nx, execDvqPortReset c s = .next nx → (nx).pending = s.pending ∧ (nx).ident = s.ident ∧ (nx).mem = s.mem := by
  intro nx h
  cases h
  simp

/-! ## The canonical form of the tiers stays -/

theorem execFabricRequest_memOk (r : FabReq) (s : State) (h : MemOk s.mem) :
    ∀ nx, execFabricRequest r s = .next nx → MemOk nx.mem := by
  intro nx hx
  unfold execFabricRequest at hx
  try dsimp only at hx
  (repeat' split at hx) <;> (try cases hx) <;> simp (disch := (intros; (repeat' split) <;> simp_all [MemOk])) [MemOk, *]

@[simp] theorem requestRow_memOk (ptype : Nat) (p : Packet) (s : State) (h : MemOk s.mem) :
    MemOk (requestRow ptype p s).mem := by
  unfold requestRow
  try dsimp only
  (repeat' split) <;> simp_all [MemOk]

theorem execRd_memOk (p : Packet) (s : State) (h : MemOk s.mem) :
    ∀ nx, execRd p s = .next nx → MemOk nx.mem := by
  intro nx hx
  unfold execRd at hx
  try dsimp only at hx
  (repeat' split at hx) <;> (try cases hx) <;> simp_all [MemOk]

theorem execWr_memOk (p : Packet) (s : State) (h : MemOk s.mem) :
    ∀ nx, execWr p s = .next nx → MemOk nx.mem := by
  intro nx hx
  unfold execWr at hx
  try dsimp only at hx
  (repeat' split at hx) <;> (try cases hx) <;> simp_all [MemOk]

theorem execAdd32_memOk (p : Packet) (s : State) (h : MemOk s.mem) :
    ∀ nx, execAdd32 p s = .next nx → MemOk nx.mem := by
  intro nx hx
  unfold execAdd32 at hx
  try dsimp only at hx
  (repeat' split at hx) <;> (try cases hx) <;> simp_all [MemOk]

theorem execAdd64_memOk (p : Packet) (s : State) (h : MemOk s.mem) :
    ∀ nx, execAdd64 p s = .next nx → MemOk nx.mem := by
  intro nx hx
  unfold execAdd64 at hx
  try dsimp only at hx
  (repeat' split at hx) <;> (try cases hx) <;> simp_all [MemOk]

theorem execFadd32_memOk (p : Packet) (s : State) (h : MemOk s.mem) :
    ∀ nx, execFadd32 p s = .next nx → MemOk nx.mem := by
  intro nx hx
  unfold execFadd32 at hx
  try dsimp only at hx
  (repeat' split at hx) <;> (try cases hx) <;> simp_all [MemOk]

theorem execFadd64_memOk (p : Packet) (s : State) (h : MemOk s.mem) :
    ∀ nx, execFadd64 p s = .next nx → MemOk nx.mem := by
  intro nx hx
  unfold execFadd64 at hx
  try dsimp only at hx
  (repeat' split at hx) <;> (try cases hx) <;> simp_all [MemOk]

theorem execBarArrive_memOk (p : Packet) (s : State) (h : MemOk s.mem) :
    ∀ nx, execBarArrive p s = .next nx → MemOk nx.mem := by
  intro nx hx
  unfold execBarArrive at hx
  try dsimp only at hx
  (repeat' split at hx) <;> (try cases hx) <;> simp_all [MemOk]

theorem execBarRelease_memOk (p : Packet) (s : State) (h : MemOk s.mem) :
    ∀ nx, execBarRelease p s = .next nx → MemOk nx.mem := by
  intro nx hx
  unfold execBarRelease at hx
  try dsimp only at hx
  (repeat' split at hx) <;> (try cases hx) <;> simp_all [MemOk]

@[simp] theorem responseRow_memOk (ptype port : Nat) (p : Packet) (s : State) (h : MemOk s.mem) :
    MemOk (responseRow ptype port p s).mem := by
  unfold responseRow
  repeat' (first | assumption | (intro _; done) | split | dsimp only | simp only [done_keeps, State_countDiscard_keeps, State_takeResponse_keeps, State_leaveIngress_keeps] | with_reducible apply State_settleFrom_memOk | with_reducible apply State_afterTx_memOk | with_reducible apply foldl_memOk | with_reducible apply foldl_memOkM | intro _)

theorem execRddata_memOk (port : Nat) (p : Packet) (s : State) (h : MemOk s.mem) :
    ∀ nx, execRddata port p s = .next nx → MemOk nx.mem := by
  intro nx hx
  unfold execRddata at hx
  try dsimp only at hx
  (repeat' split at hx) <;> (try cases hx) <;> simp_all [MemOk]

theorem execAck_memOk (port : Nat) (p : Packet) (s : State) (h : MemOk s.mem) :
    ∀ nx, execAck port p s = .next nx → MemOk nx.mem := by
  intro nx hx
  unfold execAck at hx
  try dsimp only at hx
  (repeat' split at hx) <;> (try cases hx) <;> simp_all [MemOk]

theorem execAtdata_memOk (port : Nat) (p : Packet) (s : State) (h : MemOk s.mem) :
    ∀ nx, execAtdata port p s = .next nx → MemOk nx.mem := by
  intro nx hx
  unfold execAtdata at hx
  try dsimp only at hx
  (repeat' split at hx) <;> (try cases hx) <;> simp_all [MemOk]

theorem execSereply_memOk (port : Nat) (p : Packet) (s : State) (h : MemOk s.mem) :
    ∀ nx, execSereply port p s = .next nx → MemOk nx.mem := by
  intro nx hx
  unfold execSereply at hx
  try dsimp only at hx
  (repeat' split at hx) <;> (try cases hx) <;> simp_all [MemOk]

theorem execErr_memOk (port : Nat) (p : Packet) (s : State) (h : MemOk s.mem) :
    ∀ nx, execErr port p s = .next nx → MemOk nx.mem := by
  intro nx hx
  unfold execErr at hx
  try dsimp only at hx
  (repeat' split at hx) <;> (try cases hx) <;> simp_all [MemOk]

@[simp] theorem timeOut_memOk (t : FabTx) (s : State) (h : MemOk s.mem) :
    MemOk (timeOut t s).mem := by
  unfold timeOut
  try dsimp only
  (repeat' split) <;> simp (disch := (intros; (repeat' split) <;> simp_all [MemOk])) [MemOk, *]

theorem execFabricTimeout_memOk (tag : Nat) (s : State) (h : MemOk s.mem) :
    ∀ nx, execFabricTimeout tag s = .next nx → MemOk nx.mem := by
  intro nx hx
  unfold execFabricTimeout at hx
  try dsimp only at hx
  (repeat' split at hx) <;> (try cases hx) <;> simp_all [MemOk]

theorem execTagWithholdExpiry_memOk (tag : Nat) (s : State) (h : MemOk s.mem) :
    ∀ nx, execTagWithholdExpiry tag s = .next nx → MemOk nx.mem := by
  intro nx hx
  unfold execTagWithholdExpiry at hx
  try dsimp only at hx
  (repeat' split at hx) <;> (try cases hx) <;> simp (disch := (intros; (repeat' split) <;> simp_all [MemOk])) [MemOk, *]

theorem execPortHoldEnd_memOk (hop : Nat) (s : State) (h : MemOk s.mem) :
    ∀ nx, execPortHoldEnd hop s = .next nx → MemOk nx.mem := by
  intro nx hx
  unfold execPortHoldEnd at hx
  split at hx
  · split at hx
    · cases hx; exact h
    · cases hx
      exact State_settleFrom_memOk _ _ (State_rimRetry_memOk _ (foldl_memOk State.fabTakeUp (fun s r hs => State_fabTakeUp_memOk s r hs) _ _ h))
  · cases hx; exact h


theorem execGenerationHoldExpiry_memOk (hop : Nat) (s : State) (h : MemOk s.mem) :
    ∀ nx, execGenerationHoldExpiry hop s = .next nx → MemOk nx.mem := by
  intro nx hx
  unfold execGenerationHoldExpiry at hx
  try dsimp only at hx
  (repeat' split at hx) <;> first | (cases hx; done) | (injection hx with hx; subst hx; repeat' (first | assumption | (intro _; done) | split | dsimp only | simp only [done_keeps, State_endLocal_keeps] | with_reducible apply State_answer_memOk | with_reducible apply State_settleFrom_memOk | with_reducible apply State_rimRetry_memOk | with_reducible apply foldl_memOk | with_reducible apply foldl_memOkM | intro _))

theorem execBarrierKeepalive_memOk (home id : Nat) (answer : Option Nat) (s : State) (h : MemOk s.mem) :
    ∀ nx, execBarrierKeepalive home id answer s = .next nx → MemOk nx.mem := by
  intro nx hx
  unfold execBarrierKeepalive at hx
  try dsimp only at hx
  (repeat' split at hx) <;> (try cases hx) <;> simp (disch := (intros; (repeat' split) <;> simp_all [MemOk])) [MemOk, *]

@[simp] theorem replayExhausted_memOk (port : Nat) (s : State) (h : MemOk s.mem) :
    MemOk (replayExhausted port s).mem := by
  induction port generalizing s <;>
  (unfold replayExhausted; try dsimp only) <;> (repeat' split) <;> simp_all [MemOk]

@[simp] theorem State_replayFrom_memOk (s : State) (port seq : Nat) (h : MemOk s.mem) :
    MemOk (State.replayFrom s port seq).mem := by
  unfold State.replayFrom
  try dsimp only
  (repeat' split) <;> simp_all [MemOk]

theorem execDvqReplayRequest_memOk (port seq : Nat) (s : State) (h : MemOk s.mem) :
    ∀ nx, execDvqReplayRequest port seq s = .next nx → MemOk nx.mem := by
  intro nx hx
  unfold execDvqReplayRequest at hx
  try dsimp only at hx
  (repeat' split at hx) <;> (try cases hx) <;> simp_all [MemOk]

@[simp] theorem State_replayAsked_memOk (s : State) (port : Nat) (t : Trailer) (h : MemOk s.mem) :
    MemOk (State.replayAsked s port t).mem := by
  unfold State.replayAsked
  try dsimp only
  (repeat' split) <;> simp_all [MemOk]

theorem execDvqPacketReceive_memOk (port : Nat) (t : Trailer) (p : Packet) (s : State) (h : MemOk s.mem) :
    ∀ nx, execDvqPacketReceive port t p s = .next nx → MemOk nx.mem := by
  intro nx hx
  unfold execDvqPacketReceive at hx
  try dsimp only at hx
  (repeat' split at hx) <;> (try cases hx) <;> simp_all [MemOk]

theorem execIdleWordReceive_memOk (port : Nat) (t : Trailer) (s : State) (h : MemOk s.mem) :
    ∀ nx, execIdleWordReceive port t s = .next nx → MemOk nx.mem := by
  intro nx hx
  unfold execIdleWordReceive at hx
  try dsimp only at hx
  (repeat' split at hx) <;> (try cases hx) <;> simp_all [MemOk]

theorem execLossOfSignal_memOk (port : Nat) (s : State) (h : MemOk s.mem) :
    ∀ nx, execLossOfSignal port s = .next nx → MemOk nx.mem := by
  intro nx hx
  unfold execLossOfSignal at hx
  try dsimp only at hx
  (repeat' split at hx) <;> (try cases hx) <;> simp (disch := (intros; (repeat' split) <;> simp_all [MemOk])) [MemOk, *]

theorem execCharterReceive_memOk (port : Nat) (charter : Bytes) (s : State) (h : MemOk s.mem) :
    ∀ nx, execCharterReceive port charter s = .next nx → MemOk nx.mem := by
  intro nx hx
  unfold execCharterReceive at hx
  try dsimp only at hx
  (repeat' split at hx) <;> (try cases hx) <;> simp (disch := (intros; (repeat' split) <;> simp_all [MemOk])) [MemOk, *]

theorem execCharterVerdict_memOk (port : Nat) (accept : Bool) (s : State) (h : MemOk s.mem) :
    ∀ nx, execCharterVerdict port accept s = .next nx → MemOk nx.mem := by
  intro nx hx
  unfold execCharterVerdict at hx
  try dsimp only at hx
  (repeat' split at hx) <;> (try cases hx) <;> simp (disch := (intros; (repeat' split) <;> simp_all [MemOk])) [MemOk, *]

@[simp] theorem cableDown_memOk (port : Nat) (hot : Bool) (s : State) (h : MemOk s.mem) :
    MemOk (cableDown port hot s).mem := by
  induction port generalizing hot s <;>
  (unfold cableDown; try dsimp only) <;> (repeat' split) <;> simp_all [MemOk]

theorem execCableTemperaturePoll_memOk (port : Nat) (warning alarm temp : Int) (s : State) (h : MemOk s.mem) :
    ∀ nx, execCableTemperaturePoll port warning alarm temp s = .next nx → MemOk nx.mem := by
  intro nx hx
  unfold execCableTemperaturePoll at hx
  try dsimp only at hx
  (repeat' split at hx) <;> (try cases hx) <;> simp_all [MemOk]

theorem execRetimerLockPoll_memOk (port : Nat) (locked : Bool) (s : State) (h : MemOk s.mem) :
    ∀ nx, execRetimerLockPoll port locked s = .next nx → MemOk nx.mem := by
  intro nx hx
  unfold execRetimerLockPoll at hx
  try dsimp only at hx
  (repeat' split at hx) <;> (try cases hx) <;> simp_all [MemOk]

@[simp] theorem partSwitch_memOk (cmd : Running) (r : Bytes) (s : State) (h : MemOk s.mem) :
    MemOk (partSwitch cmd r s).mem := by
  unfold partSwitch
  dsimp only
  have h0 : ∀ f : Fabric, MemOk ({ s with fab := f } : State).mem := fun _ => h
  have h1 := fun l f => foldl_memOk (fun (s : State) (a : Arrival) => s.endArrival a fsStale) (fun s a hs => by simpa using hs) l _ (h0 f)
  have h2 := fun l k f => foldl_memOk (fun (s : State) (b : Nat × Barrier) => s.unsetBarrier b.1) (fun s b hs => by simpa using hs) k _ (h1 l f)
  have h3 := fun l k f => foldl_memOk (fun (s : State) (k : Nat) => if s.hopOf k == some uplinkHop then s else s.recharter k)
    (fun s k hs => by
      split
      · exact hs
      · first | exact State_recharter_memOk _ _ hs | simpa using hs) (List.range 18) _ (h2 l k f)
  rw [(State_finishRun_keeps _ _ _ _).2.2]
  exact State_settleFrom_memOk _ _ (State_afterTx_memOk _ (h3 _ _ _))


theorem execFabricPartSwitch_memOk (s : State) (h : MemOk s.mem) :
    ∀ nx, execFabricPartSwitch s = .next nx → MemOk nx.mem := by
  intro nx hx
  unfold execFabricPartSwitch at hx
  try dsimp only at hx
  (repeat' split at hx) <;> (try cases hx) <;> simp_all [MemOk]

end Sys2Proof.Machine
end

