-- ==== Sys2Proof/Laws/KeepStops.lean ====
section
/-! SUPPORT. What no operation or command of Machine/Stops.lean touches: the queue, who owns the device, and (`_keeps`, where it writes no tier) the memory; where it may write one, `_memOk` says the canonical form stays. -/

namespace Sys2Proof.Machine

@[simp] theorem State_finishStop_keeps (s : State) (pn : Nat) :
    (State.finishStop s pn).pending = s.pending ∧ (State.finishStop s pn).ident = s.ident ∧ (State.finishStop s pn).mem = s.mem := by
  unfold State.finishStop
  try dsimp only
  (repeat' split) <;> simp_all [apply_ite]

@[simp] theorem State_graphFaulted_keeps (s : State) (pn n : Nat) :
    (State.graphFaulted s pn n).pending = s.pending ∧ (State.graphFaulted s pn n).ident = s.ident ∧ (State.graphFaulted s pn n).mem = s.mem := by
  unfold State.graphFaulted
  try dsimp only
  (repeat' split) <;> simp_all [apply_ite]

@[simp] theorem State_takeReports_keeps (s : State) (pn : Nat) (l : List Report) :
    (State.takeReports s pn l).pending = s.pending ∧ (State.takeReports s pn l).ident = s.ident ∧ (State.takeReports s pn l).mem = s.mem := by
  unfold State.takeReports
  try dsimp only
  (repeat' split) <;> simp_all [apply_ite]

@[simp] theorem State_takeReport_keeps (s : State) (r : Report) :
    (State.takeReport s r).pending = s.pending ∧ (State.takeReport s r).ident = s.ident ∧ (State.takeReport s r).mem = s.mem := by
  unfold State.takeReport
  try dsimp only
  (repeat' split) <;> simp_all [apply_ite]

@[simp] theorem State_memoryError_keeps (s : State) (r : Report) :
    (State.memoryError s r).pending = s.pending ∧ (State.memoryError s r).ident = s.ident ∧ (State.memoryError s r).mem = s.mem := by
  unfold State.memoryError
  try dsimp only
  (repeat' split) <;> simp_all [apply_ite]

@[simp] theorem State_arrive_keeps (s : State) (pn : Nat) (reports : List Report) :
    (State.arrive s pn reports).pending = s.pending ∧ (State.arrive s pn reports).ident = s.ident ∧ (State.arrive s pn reports).mem = s.mem := by
  unfold State.arrive
  try dsimp only
  (repeat' split) <;> simp_all [apply_ite]

theorem execTrapMessage_keeps (part : Nat) (reports : List Report) (s : State) :
    ∀ nx, execTrapMessage part reports s = .next nx → (nx).pending = s.pending ∧ (nx).ident = s.ident ∧ (nx).mem = s.mem := by
  intro nx h
  cases h
  simp

theorem execGraphFault_keeps (part : Nat) (reports : List Report) (s : State) :
    ∀ nx, execGraphFault part reports s = .next nx → (nx).pending = s.pending ∧ (nx).ident = s.ident ∧ (nx).mem = s.mem := by
  intro nx h
  cases h
  simp

theorem execMemoryErrorReport_keeps (tile cask store addr syn : Nat) (scrub : Bool) (s : State) :
    ∀ nx, execMemoryErrorReport tile cask store addr syn scrub s = .next nx → (nx).pending = s.pending ∧ (nx).ident = s.ident ∧ (nx).mem = s.mem := by
  intro nx h
  unfold execMemoryErrorReport at h
  try dsimp only at h
  (repeat' split at h) <;> (try cases h) <;> simp_all [apply_ite]

theorem execTileScrub_keeps (tile : Nat) (errs : List WordErr) (s : State) :
    ∀ nx, execTileScrub tile errs s = .next nx → (nx).pending = s.pending ∧ (nx).ident = s.ident ∧ (nx).mem = s.mem := by
  intro nx h
  unfold execTileScrub at h
  try dsimp only at h
  (repeat' split at h) <;> (try cases h) <;> simp_all [apply_ite]

theorem execTileIdleReport_keeps (part tile : Nat) (s : State) :
    ∀ nx, execTileIdleReport part tile s = .next nx → (nx).pending = s.pending ∧ (nx).ident = s.ident := by
  intro nx h
  unfold execTileIdleReport at h
  try dsimp only at h
  (repeat' split at h) <;> (try cases h) <;> simp_all [apply_ite]

theorem execStepEndReport_keeps (part tile : Nat) (s : State) :
    ∀ nx, execStepEndReport part tile s = .next nx → (nx).pending = s.pending ∧ (nx).ident = s.ident ∧ (nx).mem = s.mem := by
  intro nx h
  unfold execStepEndReport at h
  try dsimp only at h
  (repeat' split at h) <;> (try cases h) <;> simp_all [apply_ite]

/-! ## The canonical form of the tiers stays -/

theorem execTileIdleReport_memOk (part tile : Nat) (s : State) (h : MemOk s.mem) :
    ∀ nx, execTileIdleReport part tile s = .next nx → MemOk nx.mem := by
  intro nx hx
  unfold execTileIdleReport at hx
  try dsimp only at hx
  (repeat' split at hx) <;> (try cases hx) <;> simp_all [MemOk]

end Sys2Proof.Machine
end

