-- ==== Sys2Proof/Laws/KeepFold.lean ====
section
/-! SUPPORT. What no operation or command of Machine/Fold.lean touches: the queue, who owns the device, and (`_keeps`, where it writes no tier) the memory; where it may write one, `_memOk` says the canonical form stays. -/

namespace Sys2Proof.Machine

@[simp] theorem State_modActive_keeps (s : State) (p : Partition) (f : CaskCtx → CaskCtx) :
    (State.modActive s p f).pending = s.pending ∧ (State.modActive s p f).ident = s.ident ∧ (State.modActive s p f).mem = s.mem := by
  unfold State.modActive
  try dsimp only
  (repeat' split) <;> simp_all [apply_ite]

theorem execTilerDone_keeps (part : Nat) (s : State) :
    ∀ nx, execTilerDone part s = .next nx → (nx).pending = s.pending ∧ (nx).ident = s.ident ∧ (nx).mem = s.mem := by
  intro nx h
  unfold execTilerDone at h
  try dsimp only at h
  (repeat' split at h) <;> (try cases h) <;> simp_all [apply_ite]

@[simp] theorem State_reportSlot_keeps (s : State) (pn c : Nat) :
    (State.reportSlot s pn c).pending = s.pending ∧ (State.reportSlot s pn c).ident = s.ident ∧ (State.reportSlot s pn c).mem = s.mem := by
  unfold State.reportSlot
  try dsimp only
  (repeat' split) <;> simp_all [apply_ite]

@[simp] theorem State_takeDrained_keeps (s : State) (pn : Nat) :
    (State.takeDrained s pn).pending = s.pending ∧ (State.takeDrained s pn).ident = s.ident ∧ (State.takeDrained s pn).mem = s.mem := by
  unfold State.takeDrained
  try dsimp only
  (repeat' split) <;> simp_all [apply_ite]

@[simp] theorem State_startRings_keeps (s : State) (pn : Nat) :
    (State.startRings s pn).pending = s.pending ∧ (State.startRings s pn).ident = s.ident := by
  unfold State.startRings
  try dsimp only
  (repeat' split) <;> simp_all [apply_ite]

@[simp] theorem State_beginStep_keeps (s : State) (pn : Nat) :
    (State.beginStep s pn).pending = s.pending ∧ (State.beginStep s pn).ident = s.ident := by
  unfold State.beginStep
  try dsimp only
  (repeat' split) <;> simp_all [apply_ite]

@[simp] theorem State_rearmCounters_keeps (s : State) (pn arm : Nat) :
    (State.rearmCounters s pn arm).pending = s.pending ∧ (State.rearmCounters s pn arm).ident = s.ident ∧ (State.rearmCounters s pn arm).mem = s.mem := by
  unfold State.rearmCounters
  try dsimp only
  (repeat' split) <;> simp_all [apply_ite]

@[simp] theorem State_restartStreams_keeps (s : State) (pn : Nat) :
    (State.restartStreams s pn).pending = s.pending ∧ (State.restartStreams s pn).ident = s.ident ∧ (State.restartStreams s pn).mem = s.mem := by
  unfold State.restartStreams
  try dsimp only
  (repeat' split) <;> simp_all [apply_ite]

@[simp] theorem State_applyOpen_keeps (s : State) (pn : Nat) :
    (State.applyOpen s pn).pending = s.pending ∧ (State.applyOpen s pn).ident = s.ident := by
  unfold State.applyOpen
  try dsimp only
  (repeat' split) <;> simp_all [apply_ite]

@[simp] theorem State_closeRemoved_keeps (s : State) (pn : Nat) :
    (State.closeRemoved s pn).pending = s.pending ∧ (State.closeRemoved s pn).ident = s.ident ∧ (State.closeRemoved s pn).mem = s.mem := by
  unfold State.closeRemoved
  try dsimp only
  (repeat' split) <;> simp_all [apply_ite]

@[simp] theorem State_quiescentPoint_keeps (s : State) (pn : Nat) :
    (State.quiescentPoint s pn).pending = s.pending ∧ (State.quiescentPoint s pn).ident = s.ident := by
  unfold State.quiescentPoint
  try dsimp only
  (repeat' split) <;> simp_all [apply_ite]

@[simp] theorem State_paceStep_keeps (s : State) (pn : Nat) (fold step : Bool) :
    (State.paceStep s pn fold step).pending = s.pending ∧ (State.paceStep s pn fold step).ident = s.ident ∧ (State.paceStep s pn fold step).mem = s.mem := by
  unfold State.paceStep
  try dsimp only
  (repeat' split) <;> simp_all [apply_ite]

@[simp] theorem State_foldRound_keeps (s : State) (pn : Nat) :
    (State.foldRound s pn).pending = s.pending ∧ (State.foldRound s pn).ident = s.ident := by
  unfold State.foldRound
  try dsimp only
  (repeat' split) <;> simp_all [apply_ite]

@[simp] theorem State_foldBoundary_keeps (s : State) (pn : Nat) :
    (State.foldBoundary s pn).pending = s.pending ∧ (State.foldBoundary s pn).ident = s.ident := by
  unfold State.foldBoundary
  try dsimp only
  (repeat' split) <;> simp_all [apply_ite]

theorem execFoldStepTimer_keeps (part : Nat) (s : State) :
    ∀ nx, execFoldStepTimer part s = .next nx → (nx).pending = s.pending ∧ (nx).ident = s.ident := by
  intro nx h
  unfold execFoldStepTimer at h
  try dsimp only at h
  (repeat' split at h) <;> (try cases h) <;> simp_all [apply_ite]

theorem execFoldLead_keeps (part : Nat) (s : State) :
    ∀ nx, execFoldLead part s = .next nx → (nx).pending = s.pending ∧ (nx).ident = s.ident ∧ (nx).mem = s.mem := by
  intro nx h
  unfold execFoldLead at h
  try dsimp only at h
  (repeat' split at h) <;> (try cases h) <;> simp_all [apply_ite]

theorem execScheduleClock_keeps (tile : Nat) (s : State) :
    ∀ nx, execScheduleClock tile s = .next nx → (nx).pending = s.pending ∧ (nx).ident = s.ident ∧ (nx).mem = s.mem := by
  intro nx h
  unfold execScheduleClock at h
  try dsimp only at h
  (repeat' split at h) <;> (try cases h) <;> simp_all [apply_ite]

theorem execCaskSwitch_keeps (tile : Nat) (s : State) :
    ∀ nx, execCaskSwitch tile s = .next nx → (nx).pending = s.pending ∧ (nx).ident = s.ident ∧ (nx).mem = s.mem := by
  intro nx h
  unfold execCaskSwitch at h
  try dsimp only at h
  (repeat' split at h) <;> (try cases h) <;> simp_all [apply_ite]

@[simp] theorem State_restartPart_keeps (s : State) (pn : Nat) :
    (State.restartPart s pn).pending = s.pending ∧ (State.restartPart s pn).ident = s.ident := by
  unfold State.restartPart
  try dsimp only
  (repeat' split) <;> simp_all [apply_ite]

theorem execPartitionRestart_keeps (part : Nat) (s : State) :
    ∀ nx, execPartitionRestart part s = .next nx → (nx).pending = s.pending ∧ (nx).ident = s.ident := by
  intro nx h
  unfold execPartitionRestart at h
  try dsimp only at h
  (repeat' split at h) <;> (try cases h) <;> simp_all [apply_ite]

@[simp] theorem doPartResume_keeps (c : Cmd) (s : State) :
    (doPartResume c s).pending = s.pending ∧ (doPartResume c s).ident = s.ident := by
  unfold doPartResume
  try dsimp only
  (repeat' split) <;> simp_all [apply_ite]

theorem execPartResume_keeps (c : Cmd) (s : State) :
    ∀ nx, execPartResume c s = .next nx → (nx).pending = s.pending ∧ (nx).ident = s.ident := by
  intro nx h
  cases h
  simp

/-! ## The canonical form of the tiers stays -/

@[simp] theorem State_startRings_memOk (s : State) (pn : Nat) (h : MemOk s.mem) :
    MemOk (State.startRings s pn).mem := by
  induction pn generalizing s <;>
  (unfold State.startRings; try dsimp only) <;> (repeat' split) <;> simp_all [MemOk]

@[simp] theorem State_beginStep_memOk (s : State) (pn : Nat) (h : MemOk s.mem) :
    MemOk (State.beginStep s pn).mem := by
  unfold State.beginStep
  try dsimp only
  (repeat' split) <;> simp_all [MemOk]

@[simp] theorem State_applyOpen_memOk (s : State) (pn : Nat) (h : MemOk s.mem) :
    MemOk (State.applyOpen s pn).mem := by
  unfold State.applyOpen
  try dsimp only
  (repeat' split) <;> simp_all [MemOk]

@[simp] theorem State_quiescentPoint_memOk (s : State) (pn : Nat) (h : MemOk s.mem) :
    MemOk (State.quiescentPoint s pn).mem := by
  unfold State.quiescentPoint
  extract_lets s1 s2 s3 s4 s5
  have h1 : MemOk s1.mem := State_boundaryResults_memOk _ _ (by
    rw [(State_rearmCounters_keeps _ _ _).2.2]
    simpa using h)
  have h2 : MemOk s2.mem := State_applyOpen_memOk _ pn h1
  have h3 : MemOk s3.mem := by
    unfold s3
    split
    · split
      · exact State_boundaryForm_memOk _ _ _ h2
      · exact h2
    · exact h2
  have h4 : MemOk s4.mem := by simpa [s4] using h3
  have h5 : MemOk s5.mem := by
    unfold s5
    split <;> simpa using h4
  split
  · split
    · exact h3
    · exact State_settleDevice_memOk _ _ h5
  · exact h3


@[simp] theorem State_foldRound_memOk (s : State) (pn : Nat) (h : MemOk s.mem) :
    MemOk (State.foldRound s pn).mem := by
  have key : ∀ t : State, MemOk t.mem → MemOk (match t.part pn with
      | some p => if t.stepBoundary p then t.quiescentPoint pn else t.beginStep pn
      | none => t).mem := by
    intro t ht
    split
    · split
      · exact State_quiescentPoint_memOk _ _ ht
      · exact State_beginStep_memOk _ _ ht
    · exact ht
  have h2 : ∀ t : State, MemOk t.mem → MemOk (match t.part pn with
      | some p => if p.emptiable then (t.emptyCasks pn).settleDevice none
        else
          match (if p.closesDrained then t.applyPartCommit pn else t).part pn with
          | some q => if (if p.closesDrained then t.applyPartCommit pn else t).stepBoundary q
              then (if p.closesDrained then t.applyPartCommit pn else t).quiescentPoint pn
              else (if p.closesDrained then t.applyPartCommit pn else t).beginStep pn
          | none => if p.closesDrained then t.applyPartCommit pn else t
      | none => t).mem := by
    intro t ht
    split
    · split
      · exact State_settleDevice_memOk _ _ (State_emptyCasks_memOk _ _ ht)
      · apply key
        split
        · exact State_applyPartCommit_memOk _ _ ht
        · exact ht
    · exact ht
  apply h2
  rw [(State_rearmCounters_keeps _ _ _).2.2, (State_modPart_keeps _ _ _).2.2]
  simpa using h

@[simp] theorem State_foldBoundary_memOk (s : State) (pn : Nat) (h : MemOk s.mem) :
    MemOk (State.foldBoundary s pn).mem := by
  unfold State.foldBoundary
  try dsimp only
  (repeat' split) <;> simp_all [MemOk]

theorem execFoldStepTimer_memOk (part : Nat) (s : State) (h : MemOk s.mem) :
    ∀ nx, execFoldStepTimer part s = .next nx → MemOk nx.mem := by
  intro nx hx
  unfold execFoldStepTimer at hx
  try dsimp only at hx
  (repeat' split at hx) <;> (try cases hx) <;> simp_all [MemOk]

@[simp] theorem State_restartPart_memOk (s : State) (pn : Nat) (h : MemOk s.mem) :
    MemOk (State.restartPart s pn).mem := by
  unfold State.restartPart
  try dsimp only
  (repeat' split) <;> simp_all [MemOk]

theorem execPartitionRestart_memOk (part : Nat) (s : State) (h : MemOk s.mem) :
    ∀ nx, execPartitionRestart part s = .next nx → MemOk nx.mem := by
  intro nx hx
  unfold execPartitionRestart at hx
  try dsimp only at hx
  (repeat' split at hx) <;> (try cases hx) <;> simp_all [MemOk]

@[simp] theorem doPartResume_memOk (c : Cmd) (s : State) (h : MemOk s.mem) :
    MemOk (doPartResume c s).mem := by
  unfold doPartResume
  try dsimp only
  (repeat' split) <;> simp_all [MemOk]

theorem execPartResume_memOk (c : Cmd) (s : State) (h : MemOk s.mem) :
    ∀ nx, execPartResume c s = .next nx → MemOk nx.mem := by
  intro nx hx
  unfold execPartResume at hx
  try dsimp only at hx
  (repeat' split at hx) <;> (try cases hx) <;> simp_all [MemOk]

end Sys2Proof.Machine
end

