-- ==== Sys2Proof/Laws/KeepIdentity.lean ====
section
/-! SUPPORT. What no operation or command of Machine/Identity.lean touches: the queue, who owns the device, and (`_keeps`, where it writes no tier) the memory; where it may write one, `_memOk` says the canonical form stays. -/

namespace Sys2Proof.Machine

@[simp] theorem doEvrRead_keeps (c : Cmd) (s : State) :
    (doEvrRead c s).pending = s.pending ∧ (doEvrRead c s).ident = s.ident ∧ (doEvrRead c s).mem = s.mem := by
  unfold doEvrRead
  try dsimp only
  (repeat' split) <;> simp_all [apply_ite]

theorem execEvrRead_keeps (c : Cmd) (s : State) :
    ∀ nx, execEvrRead c s = .next nx → (nx).pending = s.pending ∧ (nx).ident = s.ident ∧ (nx).mem = s.mem := by
  intro nx h
  cases h
  simp

@[simp] theorem State_setFreeze_keeps (s : State) (src : CmdSrc) (on : Bool) :
    (State.setFreeze s src on).pending = s.pending ∧ (State.setFreeze s src on).ident = s.ident ∧ (State.setFreeze s src on).mem = s.mem := by
  unfold State.setFreeze
  try dsimp only
  (repeat' split) <;> simp_all [apply_ite]

@[simp] theorem doEvrFreeze_keeps (c : Cmd) (s : State) :
    (doEvrFreeze c s).pending = s.pending ∧ (doEvrFreeze c s).ident = s.ident ∧ (doEvrFreeze c s).mem = s.mem := by
  unfold doEvrFreeze
  try dsimp only
  (repeat' split) <;> simp_all [apply_ite]

theorem execEvrFreeze_keeps (c : Cmd) (s : State) :
    ∀ nx, execEvrFreeze c s = .next nx → (nx).pending = s.pending ∧ (nx).ident = s.ident ∧ (nx).mem = s.mem := by
  intro nx h
  cases h
  simp

theorem execFreezeExpiry_keeps (sideband : Bool) (s : State) :
    ∀ nx, execFreezeExpiry sideband s = .next nx → (nx).pending = s.pending ∧ (nx).ident = s.ident ∧ (nx).mem = s.mem := by
  intro nx h
  cases h
  simp

theorem execRecordCommit_keeps (s : State) :
    ∀ nx, execRecordCommit s = .next nx → (nx).pending = s.pending ∧ (nx).ident = s.ident ∧ (nx).mem = s.mem := by
  intro nx h
  unfold execRecordCommit at h
  try dsimp only at h
  (repeat' split at h) <;> (try cases h) <;> simp_all [apply_ite]

theorem execOperatingTimeSave_keeps (s : State) :
    ∀ nx, execOperatingTimeSave s = .next nx → (nx).pending = s.pending ∧ (nx).ident = s.ident ∧ (nx).mem = s.mem := by
  intro nx h
  unfold execOperatingTimeSave at h
  try dsimp only at h
  (repeat' split at h) <;> (try cases h) <;> simp_all [apply_ite]

@[simp] theorem State_issueNonce_keeps (s : State) :
    (State.issueNonce s).pending = s.pending ∧ (State.issueNonce s).ident.title = s.ident.title ∧ (State.issueNonce s).mem = s.mem := by
  simp [State.issueNonce, Ident.title]


@[simp] theorem doEvrNonce_keeps (c : Cmd) (s : State) :
    (doEvrNonce c s).pending = s.pending ∧ (doEvrNonce c s).ident.title = s.ident.title ∧ (doEvrNonce c s).mem = s.mem := by
  unfold doEvrNonce
  try dsimp only
  (repeat' split) <;> simp_all [apply_ite]

theorem execEvrNonce_keeps (c : Cmd) (s : State) :
    ∀ nx, execEvrNonce c s = .next nx → (nx).pending = s.pending ∧ (nx).ident.title = s.ident.title ∧ (nx).mem = s.mem := by
  intro nx h
  cases h
  simp

theorem execNonceExpiry_keeps (s : State) :
    ∀ nx, execNonceExpiry s = .next nx → (nx).pending = s.pending ∧ (nx).ident.title = s.ident.title ∧ (nx).mem = s.mem := by
  intro nx h
  cases h
  simp [Ident.title]


@[simp] theorem State_spendNonce_keeps (s : State) :
    (State.spendNonce s).pending = s.pending ∧ (State.spendNonce s).ident.title = s.ident.title ∧ (State.spendNonce s).mem = s.mem := by
  simp [State.spendNonce, Ident.title]


@[simp] theorem State_clearRing_keeps (s : State) :
    (State.clearRing s).pending = s.pending ∧ (State.clearRing s).ident = s.ident ∧ (State.clearRing s).mem = s.mem := ⟨rfl, rfl, rfl⟩

@[simp] theorem doEvrClear_keeps (c : Cmd) (s : State) :
    (doEvrClear c s).pending = s.pending ∧ (doEvrClear c s).ident.title = s.ident.title ∧ (doEvrClear c s).mem = s.mem := by
  unfold doEvrClear
  try dsimp only
  (repeat' split) <;> simp_all [apply_ite]

theorem execEvrClear_keeps (c : Cmd) (s : State) :
    ∀ nx, execEvrClear c s = .next nx → (nx).pending = s.pending ∧ (nx).ident.title = s.ident.title ∧ (nx).mem = s.mem := by
  intro nx h
  cases h
  simp

@[simp] theorem State_reply_keeps (s : State) (kind : Nat) (b : Bytes) :
    (State.reply s kind b).pending = s.pending ∧ (State.reply s kind b).ident = s.ident ∧ (State.reply s kind b).mem = s.mem := ⟨rfl, rfl, rfl⟩

@[simp] theorem State_refuseOpen_keeps (s : State) :
    (State.refuseOpen s).pending = s.pending ∧ (State.refuseOpen s).ident = s.ident ∧ (State.refuseOpen s).mem = s.mem := ⟨rfl, rfl, rfl⟩

@[simp] theorem vendor_pending (s : State) (secured : Bool) (f : State → State) (h : ∀ s, (f s).pending = s.pending) :
    (s.vendor secured f).pending = s.pending := by
  unfold State.vendor
  (repeat' split) <;> simp_all
@[simp] theorem vendor_title (s : State) (secured : Bool) (f : State → State) (h : ∀ s, (f s).ident.title = s.ident.title) :
    (s.vendor secured f).ident.title = s.ident.title := by
  unfold State.vendor
  (repeat' split) <;> simp_all
@[simp] theorem vendor_mem (s : State) (secured : Bool) (f : State → State) (h : ∀ s, (f s).mem = s.mem) :
    (s.vendor secured f).mem = s.mem := by
  unfold State.vendor
  (repeat' split) <;> simp_all

theorem execAuthNonce_keeps (secured : Bool) (s : State) :
    ∀ nx, execAuthNonce secured s = .next nx → (nx).pending = s.pending ∧ (nx).ident.title = s.ident.title ∧ (nx).mem = s.mem := by
  intro nx h
  cases h
  simp

@[simp] theorem authorised_pending (s : State) (auth : Bytes) (purpose : Nat) (ok : Bool) (f : State → State) (h : ∀ s, (f s).pending = s.pending) :
    (s.authorised auth purpose ok f).pending = s.pending := by
  unfold State.authorised
  (repeat' split) <;> simp_all
@[simp] theorem authorised_title (s : State) (auth : Bytes) (purpose : Nat) (ok : Bool) (f : State → State) (h : ∀ s, (f s).ident.title = s.ident.title) :
    (s.authorised auth purpose ok f).ident.title = s.ident.title := by
  unfold State.authorised
  (repeat' split) <;> simp_all
@[simp] theorem authorised_mem (s : State) (auth : Bytes) (purpose : Nat) (ok : Bool) (f : State → State) (h : ∀ s, (f s).mem = s.mem) :
    (s.authorised auth purpose ok f).mem = s.mem := by
  unfold State.authorised
  (repeat' split) <;> simp_all

end Sys2Proof.Machine
end

