-- ==== Sys2Proof/Laws/KeepMesh.lean ====
section
/-! SUPPORT. What no operation or command of Machine/Mesh.lean touches: the queue, who owns the device, and (`_keeps`, where it writes no tier) the memory; where it may write one, `_memOk` says the canonical form stays. -/

namespace Sys2Proof.Machine

@[simp] theorem State_leaveInput_keeps (s : State) (t fc : Nat) (c : Contender) :
    (State.leaveInput s t fc c).pending = s.pending ∧ (State.leaveInput s t fc c).ident = s.ident ∧ (State.leaveInput s t fc c).mem = s.mem := by
  unfold State.leaveInput
  try dsimp only
  (repeat' split) <;> simp_all [apply_ite]

@[simp] theorem State_sendOn_keeps (s : State) (t o : Nat) (f : Flit) :
    (State.sendOn s t o f).pending = s.pending ∧ (State.sendOn s t o f).ident = s.ident ∧ (State.sendOn s t o f).mem = s.mem := by
  unfold State.sendOn
  try dsimp only
  (repeat' split) <;> simp_all [apply_ite]

@[simp] theorem State_atFc_keeps (s : State) (fc : Nat) :
    (State.atFc s fc).pending = s.pending ∧ (State.atFc s fc).ident = s.ident ∧ (State.atFc s fc).mem = s.mem := ⟨rfl, rfl, rfl⟩

@[simp] theorem State_sendFrom_keeps (s : State) (t o fc : Nat) :
    (State.sendFrom s t o fc).pending = s.pending ∧ (State.sendFrom s t o fc).ident = s.ident ∧ (State.sendFrom s t o fc).mem = s.mem := by
  unfold State.sendFrom
  try dsimp only
  (repeat' split) <;> simp_all [apply_ite]

@[simp] theorem State_rimForward_keeps (s : State) (t p fc : Nat) :
    (State.rimForward s t p fc).pending = s.pending ∧ (State.rimForward s t p fc).ident = s.ident ∧ (State.rimForward s t p fc).mem = s.mem := by
  unfold State.rimForward
  try dsimp only
  (repeat' split) <;> simp_all [apply_ite]

theorem execFlitForward_keeps (tile port : Nat) (rim : Bool) (fc : Nat) (s : State) :
    ∀ nx, execFlitForward tile port rim fc s = .next nx → (nx).pending = s.pending ∧ (nx).ident = s.ident ∧ (nx).mem = s.mem := by
  intro nx h
  unfold execFlitForward at h
  try dsimp only at h
  (repeat' split at h) <;> (try cases h) <;> simp_all [apply_ite]

@[simp] theorem State_enterBuffer_keeps (s : State) (k t p : Nat) (rim : Bool) (w : Sent) :
    (State.enterBuffer s k t p rim w).pending = s.pending ∧ (State.enterBuffer s k t p rim w).ident = s.ident ∧ (State.enterBuffer s k t p rim w).mem = s.mem := by
  unfold State.enterBuffer
  try dsimp only
  (repeat' split) <;> simp_all [apply_ite]

@[simp] theorem State_countLink_keeps (s : State) (t : Nat) :
    (State.countLink s t).pending = s.pending ∧ (State.countLink s t).ident = s.ident ∧ (State.countLink s t).mem = s.mem := ⟨rfl, rfl, rfl⟩

@[simp] theorem State_receiveWire_keeps (s : State) (k t p : Nat) (rim : Bool) (err : Option FlitErr) :
    (State.receiveWire s k t p rim err).pending = s.pending ∧ (State.receiveWire s k t p rim err).ident = s.ident ∧ (State.receiveWire s k t p rim err).mem = s.mem := by
  unfold State.receiveWire
  try dsimp only
  (repeat' split) <;> simp_all [apply_ite]

theorem execFlitReceive_keeps (tile port : Nat) (rim : Bool) (fc : Nat) (err : Option FlitErr) (s : State) :
    ∀ nx, execFlitReceive tile port rim fc err s = .next nx → (nx).pending = s.pending ∧ (nx).ident = s.ident ∧ (nx).mem = s.mem := by
  intro nx h
  unfold execFlitReceive at h
  try dsimp only at h
  (repeat' split at h) <;> (try cases h) <;> simp_all [apply_ite]

theorem execHopCreditReturn_keeps (tile port vc : Nat) (rim reserved : Bool) (s : State) :
    ∀ nx, execHopCreditReturn tile port vc rim reserved s = .next nx → (nx).pending = s.pending ∧ (nx).ident = s.ident ∧ (nx).mem = s.mem := by
  intro nx h
  unfold execHopCreditReturn at h
  try dsimp only at h
  (repeat' split at h) <;> (try cases h) <;> simp_all [apply_ite]

@[simp] theorem State_linkFails_keeps (s : State) (t p : Nat) :
    (State.linkFails s t p).pending = s.pending ∧ (State.linkFails s t p).ident = s.ident := by
  unfold State.linkFails
  try dsimp only
  (repeat' split) <;> simp_all [apply_ite]

theorem execMeshReplayRequest_keeps (tile port vc : Nat) (rim : Bool) (s : State) :
    ∀ nx, execMeshReplayRequest tile port vc rim s = .next nx → (nx).pending = s.pending ∧ (nx).ident = s.ident := by
  intro nx h
  unfold execMeshReplayRequest at h
  try dsimp only at h
  (repeat' split at h) <;> (try cases h) <;> simp_all [apply_ite]

/-! ## The canonical form of the tiers stays -/

@[simp] theorem State_linkFails_memOk (s : State) (t p : Nat) (h : MemOk s.mem) :
    MemOk (State.linkFails s t p).mem := by
  unfold State.linkFails
  try dsimp only
  (repeat' split) <;> simp_all [MemOk]

theorem execMeshReplayRequest_memOk (tile port vc : Nat) (rim : Bool) (s : State) (h : MemOk s.mem) :
    ∀ nx, execMeshReplayRequest tile port vc rim s = .next nx → MemOk nx.mem := by
  intro nx hx
  unfold execMeshReplayRequest at hx
  try dsimp only at hx
  (repeat' split at hx) <;> (try cases hx) <;> simp_all [MemOk]

end Sys2Proof.Machine
end

