-- ==== Sys2Proof/Laws/KeepPower.lean ====
section
/-! SUPPORT. What no operation or command of Machine/Power.lean touches: the queue, who owns the device, and (`_keeps`, where it writes no tier) the memory; where it may write one, `_memOk` says the canonical form stays. -/

namespace Sys2Proof.Machine

theorem execPowerSample_keeps (m : Sample) (s : State) :
    ∀ nx, execPowerSample m s = .next nx → (nx).pending = s.pending ∧ (nx).ident = s.ident ∧ (nx).mem = s.mem := by
  intro nx h
  unfold execPowerSample at h
  try dsimp only at h
  (repeat' split at h) <;> (try cases h) <;> simp_all [apply_ite]

theorem execStateChangeComplete_keeps (s : State) :
    ∀ nx, execStateChangeComplete s = .next nx → (nx).pending = s.pending ∧ (nx).ident = s.ident ∧ (nx).mem = s.mem := by
  intro nx h
  unfold execStateChangeComplete at h
  try dsimp only at h
  (repeat' split at h) <;> (try cases h) <;> simp_all [apply_ite]

theorem execSupplyWarningCrossing_keeps (rail mv : Nat) (s : State) :
    ∀ nx, execSupplyWarningCrossing rail mv s = .next nx → (nx).pending = s.pending ∧ (nx).ident = s.ident ∧ (nx).mem = s.mem := by
  intro nx h
  unfold execSupplyWarningCrossing at h
  try dsimp only at h
  (repeat' split at h) <;> (try cases h) <;> simp_all [apply_ite]

theorem execSupplyReturnTimer_keeps (s : State) :
    ∀ nx, execSupplyReturnTimer s = .next nx → (nx).pending = s.pending ∧ (nx).ident = s.ident ∧ (nx).mem = s.mem := by
  intro nx h
  unfold execSupplyReturnTimer at h
  try dsimp only at h
  (repeat' split at h) <;> (try cases h) <;> simp_all [apply_ite]

theorem execSupplyDipReportTimer_keeps (s : State) :
    ∀ nx, execSupplyDipReportTimer s = .next nx → (nx).pending = s.pending ∧ (nx).ident = s.ident ∧ (nx).mem = s.mem := by
  intro nx h
  unfold execSupplyDipReportTimer at h
  try dsimp only at h
  (repeat' split at h) <;> (try cases h) <;> simp_all [apply_ite]

theorem execThermalComparator105_keeps (die : Nat) (temp : Int) (s : State) :
    ∀ nx, execThermalComparator105 die temp s = .next nx → (nx).pending = s.pending ∧ (nx).ident = s.ident ∧ (nx).mem = s.mem := by
  intro nx h
  unfold execThermalComparator105 at h
  try dsimp only at h
  (repeat' split at h) <;> (try cases h) <;> simp_all [apply_ite]

theorem execThermalLowerTimer_keeps (s : State) :
    ∀ nx, execThermalLowerTimer s = .next nx → (nx).pending = s.pending ∧ (nx).ident = s.ident ∧ (nx).mem = s.mem := by
  intro nx h
  unfold execThermalLowerTimer at h
  try dsimp only at h
  (repeat' split at h) <;> (try cases h) <;> simp_all [apply_ite]

theorem execThermalRaiseTimer_keeps (s : State) :
    ∀ nx, execThermalRaiseTimer s = .next nx → (nx).pending = s.pending ∧ (nx).ident = s.ident ∧ (nx).mem = s.mem := by
  intro nx h
  unfold execThermalRaiseTimer at h
  try dsimp only at h
  (repeat' split at h) <;> (try cases h) <;> simp_all [apply_ite]

theorem execThermalTrip_keeps (temp : Int) (s : State) :
    ∀ nx, execThermalTrip temp s = .next nx → (nx).pending = s.pending ∧ (nx).ident = s.ident ∧ (nx).mem = s.mem := by
  intro nx h
  unfold execThermalTrip at h
  try dsimp only at h
  (repeat' split at h) <;> (try cases h) <;> simp_all [apply_ite]

theorem execPwrbrkNAssert_keeps (ns : Nat) (s : State) :
    ∀ nx, execPwrbrkNAssert ns s = .next nx → (nx).pending = s.pending ∧ (nx).ident = s.ident ∧ (nx).mem = s.mem := by
  intro nx h
  unfold execPwrbrkNAssert at h
  try dsimp only at h
  (repeat' split at h) <;> (try cases h) <;> simp_all [apply_ite]

theorem execPwrbrkReleaseTimer_keeps (s : State) :
    ∀ nx, execPwrbrkReleaseTimer s = .next nx → (nx).pending = s.pending ∧ (nx).ident = s.ident ∧ (nx).mem = s.mem := by
  intro nx h
  unfold execPwrbrkReleaseTimer at h
  try dsimp only at h
  (repeat' split at h) <;> (try cases h) <;> simp_all [apply_ite]

theorem execEpoN_keeps (ns : Nat) (s : State) :
    ∀ nx, execEpoN ns s = .next nx → (nx).pending = s.pending ∧ (nx).ident = s.ident ∧ (nx).mem = s.mem := by
  intro nx h
  unfold execEpoN at h
  try dsimp only at h
  (repeat' split at h) <;> (try cases h) <;> simp_all [apply_ite]

theorem execMetrizorSample_keeps (drifts : List Int) (s : State) :
    ∀ nx, execMetrizorSample drifts s = .next nx → (nx).pending = s.pending ∧ (nx).ident = s.ident ∧ (nx).mem = s.mem := by
  intro nx h
  unfold execMetrizorSample at h
  try dsimp only at h
  (repeat' split at h) <;> (try cases h) <;> simp_all [apply_ite]

theorem execVintagePlanTimer_keeps (s : State) :
    ∀ nx, execVintagePlanTimer s = .next nx → (nx).pending = s.pending ∧ (nx).ident = s.ident ∧ (nx).mem = s.mem := by
  intro nx h
  unfold execVintagePlanTimer at h
  try dsimp only at h
  (repeat' split at h) <;> (try cases h) <;> simp_all [apply_ite]

theorem execVintageAutoCommit_keeps (s : State) :
    ∀ nx, execVintageAutoCommit s = .next nx → (nx).pending = s.pending ∧ (nx).ident = s.ident := by
  intro nx h
  unfold execVintageAutoCommit at h
  try dsimp only at h
  (repeat' split at h) <;> (try cases h) <;> simp_all [apply_ite]

@[simp] theorem doneReport_keeps (c : Cmd) (b : Bytes) (s : State) :
    (doneReport c b s).pending = s.pending ∧ (doneReport c b s).ident = s.ident ∧ (doneReport c b s).mem = s.mem := by
  unfold doneReport
  try dsimp only
  (repeat' split) <;> simp_all [apply_ite]

@[simp] theorem doPwrQuery_keeps (c : Cmd) (s : State) :
    (doPwrQuery c s).pending = s.pending ∧ (doPwrQuery c s).ident = s.ident ∧ (doPwrQuery c s).mem = s.mem := by
  unfold doPwrQuery
  try dsimp only
  (repeat' split) <;> simp_all [apply_ite]

theorem execPwrQuery_keeps (c : Cmd) (s : State) :
    ∀ nx, execPwrQuery c s = .next nx → (nx).pending = s.pending ∧ (nx).ident = s.ident ∧ (nx).mem = s.mem := by
  intro nx h
  cases h
  simp

@[simp] theorem doMtzPlan_keeps (c : Cmd) (s : State) :
    (doMtzPlan c s).pending = s.pending ∧ (doMtzPlan c s).ident = s.ident ∧ (doMtzPlan c s).mem = s.mem := by
  unfold doMtzPlan
  try dsimp only
  (repeat' split) <;> simp_all [apply_ite]

theorem execMtzPlan_keeps (c : Cmd) (s : State) :
    ∀ nx, execMtzPlan c s = .next nx → (nx).pending = s.pending ∧ (nx).ident = s.ident ∧ (nx).mem = s.mem := by
  intro nx h
  cases h
  simp

@[simp] theorem doMtzQuery_keeps (c : Cmd) (s : State) :
    (doMtzQuery c s).pending = s.pending ∧ (doMtzQuery c s).ident = s.ident ∧ (doMtzQuery c s).mem = s.mem := by
  unfold doMtzQuery
  try dsimp only
  (repeat' split) <;> simp_all [apply_ite]

theorem execMtzQuery_keeps (c : Cmd) (s : State) :
    ∀ nx, execMtzQuery c s = .next nx → (nx).pending = s.pending ∧ (nx).ident = s.ident ∧ (nx).mem = s.mem := by
  intro nx h
  cases h
  simp

/-! ## The canonical form of the tiers stays -/

theorem execVintageAutoCommit_memOk (s : State) (h : MemOk s.mem) :
    ∀ nx, execVintageAutoCommit s = .next nx → MemOk nx.mem := by
  intro nx hx
  unfold execVintageAutoCommit at hx
  try dsimp only at hx
  (repeat' split at hx) <;> (try cases hx) <;> simp_all [MemOk]

end Sys2Proof.Machine
end

