-- ==== Sys2Proof/Laws/KeepSideband.lean ====
section
/-! SUPPORT. What no operation or command of Machine/Sideband.lean touches: the queue, who owns the device, and (`_keeps`, where it writes no tier) the memory; where it may write one, `_memOk` says the canonical form stays. -/

namespace Sys2Proof.Machine

@[simp] theorem State_negotiate_keeps (s : State) (transport : Nat) (ok : Bool) :
    (State.negotiate s transport ok).pending = s.pending ∧ (State.negotiate s transport ok).ident.title = s.ident.title ∧ (State.negotiate s transport ok).mem = s.mem := by
  simp [State.negotiate, Ident.title]


@[simp] theorem State_spdmReply_keeps (s : State) (r : SpdmReq) (b : Bytes) :
    (State.spdmReply s r b).pending = s.pending ∧ (State.spdmReply s r b).ident = s.ident ∧ (State.spdmReply s r b).mem = s.mem := ⟨rfl, rfl, rfl⟩

@[simp] theorem State_ideKm_keeps (s : State) (transport : Nat) (secured : Bool) (r : IdeReq) :
    (State.ideKm s transport secured r).pending = s.pending ∧ (State.ideKm s transport secured r).ident = s.ident ∧ (State.ideKm s transport secured r).mem = s.mem := by
  unfold State.ideKm
  try dsimp only
  (repeat' split) <;> simp_all [apply_ite]

@[simp] theorem State_spdm_keeps (s : State) (transport : Nat) (r : SpdmReq) :
    (State.spdm s transport r).pending = s.pending ∧ (State.spdm s transport r).ident.title = s.ident.title ∧ (State.spdm s transport r).mem = s.mem := by
  unfold State.spdm
  dsimp only
  (repeat' split) <;> first | (simp; done) | simp [Ident.title]


theorem execSpdmRequest_keeps (transport : Nat) (r : SpdmReq) (s : State) :
    ∀ nx, execSpdmRequest transport r s = .next nx → (nx).pending = s.pending ∧ (nx).ident.title = s.ident.title ∧ (nx).mem = s.mem := by
  intro nx h
  unfold execSpdmRequest at h
  try dsimp only at h
  (repeat' split at h) <;> (try cases h) <;> simp_all [apply_ite]

theorem execDoeRequest_keeps (port : Nat) (r : DoeReq) (s : State) :
    ∀ nx, execDoeRequest port r s = .next nx → (nx).pending = s.pending ∧ (nx).ident = s.ident ∧ (nx).mem = s.mem := by
  intro nx h
  unfold execDoeRequest at h
  try dsimp only at h
  (repeat' split at h) <;> (try cases h) <;> simp_all [apply_ite]

theorem execPldmRequest_keeps (r : PldmReq) (s : State) :
    ∀ nx, execPldmRequest r s = .next nx → (nx).pending = s.pending ∧ (nx).ident = s.ident ∧ (nx).mem = s.mem := by
  intro nx h
  unfold execPldmRequest at h
  try dsimp only at h
  (repeat' split at h) <;> (try cases h) <;> simp_all [apply_ite]

@[simp] theorem sidebandBody_keeps (op : Nat) (z0 : Cmd) (z1 : State) :
    (sidebandBody op z0 z1).pending = z1.pending ∧ (sidebandBody op z0 z1).ident.title = z1.ident.title := by
  unfold sidebandBody
  try dsimp only
  (repeat' split) <;> simp_all [apply_ite]

theorem execSidebandTmiCommand_keeps (c : Cmd) (s : State) :
    ∀ nx, execSidebandTmiCommand c s = .next nx → (nx).pending = s.pending ∧ (nx).ident.title = s.ident.title := by
  intro nx h
  unfold execSidebandTmiCommand at h
  try dsimp only at h
  (repeat' split at h) <;> (try cases h) <;> simp_all [apply_ite]

/-! ## The canonical form of the tiers stays -/

@[simp] theorem sidebandBody_memOk (op : Nat) (z0 : Cmd) (z1 : State) (h : MemOk z1.mem) :
    MemOk (sidebandBody op z0 z1).mem := by
  unfold sidebandBody
  try dsimp only
  (repeat' split) <;> simp_all [MemOk]

theorem execSidebandTmiCommand_memOk (c : Cmd) (s : State) (h : MemOk s.mem) :
    ∀ nx, execSidebandTmiCommand c s = .next nx → MemOk nx.mem := by
  intro nx hx
  unfold execSidebandTmiCommand at hx
  try dsimp only at hx
  (repeat' split at hx) <;> (try cases hx) <;> simp_all [MemOk]

end Sys2Proof.Machine
end

