-- ==== Sys2Proof/Laws/Own.lean ====
section
/-! SUPPORT. What the commands of ownership do to the queue, the memory and the title (R425 to R427). -/

namespace Sys2Proof.Machine

@[simp] theorem changeOwner_keeps (s : State) (sub : Nat) (o : Option Bytes) (c : Bool) :
    (s.changeOwner sub o c).pending = s.pending ∧ (s.changeOwner sub o c).mem = s.mem := by
  unfold State.changeOwner
  simp

/-- An accepted change sets the title and raises the epoch by one. -/
@[simp] theorem changeOwner_title (s : State) (sub : Nat) (o : Option Bytes) (c : Bool) :
    (s.changeOwner sub o c).ident.title = (o, c, (s.ident.epoch + 1) % 2 ^ 32) := by
  unfold State.changeOwner
  simp
  simp [Ident.title]

theorem execOwnClaim_keeps (secured : Bool) (key : Bytes) (s : State) :
    ∀ nx, execOwnClaim secured key s = .next nx → nx.pending = s.pending ∧ nx.mem = s.mem := by
  intro nx h
  cases h
  constructor
  · apply vendor_pending
    intro s
    split <;> simp
  · apply vendor_mem
    intro s
    split <;> simp

theorem execOwnTransfer_keeps (secured : Bool) (key auth : Bytes) (s : State) :
    ∀ nx, execOwnTransfer secured key auth s = .next nx → nx.pending = s.pending ∧ nx.mem = s.mem := by
  intro nx h
  cases h
  exact ⟨vendor_pending _ _ _ fun s => authorised_pending _ _ _ _ _ fun s => by simp,
    vendor_mem _ _ _ fun s => authorised_mem _ _ _ _ _ fun s => by simp⟩

theorem execOwnRelease_keeps (secured : Bool) (auth : Bytes) (s : State) :
    ∀ nx, execOwnRelease secured auth s = .next nx → nx.pending = s.pending ∧ nx.mem = s.mem := by
  intro nx h
  cases h
  exact ⟨vendor_pending _ _ _ fun s => authorised_pending _ _ _ _ _ fun s => by simp,
    vendor_mem _ _ _ fun s => authorised_mem _ _ _ _ _ fun s => by simp⟩

theorem execOwnCosign_keeps (secured : Bool) (cosign : Bool) (auth : Bytes) (s : State) :
    ∀ nx, execOwnCosign secured cosign auth s = .next nx → nx.pending = s.pending ∧ nx.mem = s.mem := by
  intro nx h
  cases h
  constructor
  · apply vendor_pending
    intro s
    apply authorised_pending
    intro s
    split <;> simp
  · apply vendor_mem
    intro s
    apply authorised_mem
    intro s
    split <;> simp

end Sys2Proof.Machine
end

