-- ==== Sys2Proof/Laws/State.lean ====
section
/-! SUPPORT. Which fields each of the commonest updates of the state leaves alone; the queue, ownership and memory are in the `_keeps` laws. -/

namespace Sys2Proof.Machine

@[simp] theorem used_clk (s : State) : (s.used).clk = s.clk := rfl
@[simp] theorem used_evr (s : State) : (s.used).evr = s.evr := rfl
@[simp] theorem used_regs (s : State) : (s.used).regs = s.regs := rfl
@[simp] theorem used_tmi (s : State) : (s.used).tmi = s.tmi := rfl
@[simp] theorem used_out (s : State) : (s.used).out = s.out := rfl
@[simp] theorem used_cfg (s : State) : (s.used).cfg = s.cfg := rfl
@[simp] theorem used_parts (s : State) : (s.used).parts = s.parts := rfl
@[simp] theorem used_flushStats (s : State) : (s.used).flushStats = s.flushStats := rfl
@[simp] theorem used_tiles (s : State) : (s.used).tiles = s.tiles := rfl
@[simp] theorem used_links (s : State) : (s.used).links = s.links := rfl
@[simp] theorem used_rimOut (s : State) : (s.used).rimOut = s.rimOut := rfl
@[simp] theorem used_fc (s : State) : (s.used).fc = s.fc := rfl
@[simp] theorem used_tally (s : State) : (s.used).tally = s.tally := rfl
@[simp] theorem used_srv (s : State) : (s.used).srv = s.srv := rfl
@[simp] theorem used_fab (s : State) : (s.used).fab = s.fab := rfl
@[simp] theorem used_pwr (s : State) : (s.used).pwr = s.pwr := rfl
@[simp] theorem used_mtz (s : State) : (s.used).mtz = s.mtz := rfl
@[simp] theorem used_life (s : State) : (s.used).life = s.life := rfl
@[simp] theorem used_cxl (s : State) : (s.used).cxl = s.cxl := rfl

@[simp] theorem stageOne_free (s : State) (rs : RecSpec) : (s.stageOne rs).free = s.free := rfl
@[simp] theorem stageOne_clk (s : State) (rs : RecSpec) : (s.stageOne rs).clk = s.clk := rfl
@[simp] theorem stageOne_regs (s : State) (rs : RecSpec) : (s.stageOne rs).regs = s.regs := rfl
@[simp] theorem stageOne_tmi (s : State) (rs : RecSpec) : (s.stageOne rs).tmi = s.tmi := rfl
@[simp] theorem stageOne_out (s : State) (rs : RecSpec) : (s.stageOne rs).out = s.out := rfl
@[simp] theorem stageOne_cfg (s : State) (rs : RecSpec) : (s.stageOne rs).cfg = s.cfg := rfl
@[simp] theorem stageOne_parts (s : State) (rs : RecSpec) : (s.stageOne rs).parts = s.parts := rfl
@[simp] theorem stageOne_flushStats (s : State) (rs : RecSpec) : (s.stageOne rs).flushStats = s.flushStats := rfl
@[simp] theorem stageOne_tiles (s : State) (rs : RecSpec) : (s.stageOne rs).tiles = s.tiles := rfl
@[simp] theorem stageOne_links (s : State) (rs : RecSpec) : (s.stageOne rs).links = s.links := rfl
@[simp] theorem stageOne_rimOut (s : State) (rs : RecSpec) : (s.stageOne rs).rimOut = s.rimOut := rfl
@[simp] theorem stageOne_fc (s : State) (rs : RecSpec) : (s.stageOne rs).fc = s.fc := rfl
@[simp] theorem stageOne_tally (s : State) (rs : RecSpec) : (s.stageOne rs).tally = s.tally := rfl
@[simp] theorem stageOne_srv (s : State) (rs : RecSpec) : (s.stageOne rs).srv = s.srv := rfl
@[simp] theorem stageOne_fab (s : State) (rs : RecSpec) : (s.stageOne rs).fab = s.fab := rfl
@[simp] theorem stageOne_pwr (s : State) (rs : RecSpec) : (s.stageOne rs).pwr = s.pwr := rfl
@[simp] theorem stageOne_mtz (s : State) (rs : RecSpec) : (s.stageOne rs).mtz = s.mtz := rfl
@[simp] theorem stageOne_life (s : State) (rs : RecSpec) : (s.stageOne rs).life = s.life := rfl
@[simp] theorem stageOne_cxl (s : State) (rs : RecSpec) : (s.stageOne rs).cxl = s.cxl := rfl

@[simp] theorem hostWrite_free (s : State) (port addr : Nat) (b : Bytes) : (s.hostWrite port addr b).free = s.free := rfl
@[simp] theorem hostWrite_clk (s : State) (port addr : Nat) (b : Bytes) : (s.hostWrite port addr b).clk = s.clk := rfl
@[simp] theorem hostWrite_evr (s : State) (port addr : Nat) (b : Bytes) : (s.hostWrite port addr b).evr = s.evr := rfl
@[simp] theorem hostWrite_regs (s : State) (port addr : Nat) (b : Bytes) : (s.hostWrite port addr b).regs = s.regs := rfl
@[simp] theorem hostWrite_tmi (s : State) (port addr : Nat) (b : Bytes) : (s.hostWrite port addr b).tmi = s.tmi := rfl
@[simp] theorem hostWrite_cfg (s : State) (port addr : Nat) (b : Bytes) : (s.hostWrite port addr b).cfg = s.cfg := rfl
@[simp] theorem hostWrite_parts (s : State) (port addr : Nat) (b : Bytes) : (s.hostWrite port addr b).parts = s.parts := rfl
@[simp] theorem hostWrite_flushStats (s : State) (port addr : Nat) (b : Bytes) : (s.hostWrite port addr b).flushStats = s.flushStats := rfl
@[simp] theorem hostWrite_tiles (s : State) (port addr : Nat) (b : Bytes) : (s.hostWrite port addr b).tiles = s.tiles := rfl
@[simp] theorem hostWrite_links (s : State) (port addr : Nat) (b : Bytes) : (s.hostWrite port addr b).links = s.links := rfl
@[simp] theorem hostWrite_rimOut (s : State) (port addr : Nat) (b : Bytes) : (s.hostWrite port addr b).rimOut = s.rimOut := rfl
@[simp] theorem hostWrite_fc (s : State) (port addr : Nat) (b : Bytes) : (s.hostWrite port addr b).fc = s.fc := rfl
@[simp] theorem hostWrite_tally (s : State) (port addr : Nat) (b : Bytes) : (s.hostWrite port addr b).tally = s.tally := rfl
@[simp] theorem hostWrite_srv (s : State) (port addr : Nat) (b : Bytes) : (s.hostWrite port addr b).srv = s.srv := rfl
@[simp] theorem hostWrite_fab (s : State) (port addr : Nat) (b : Bytes) : (s.hostWrite port addr b).fab = s.fab := rfl
@[simp] theorem hostWrite_pwr (s : State) (port addr : Nat) (b : Bytes) : (s.hostWrite port addr b).pwr = s.pwr := rfl
@[simp] theorem hostWrite_mtz (s : State) (port addr : Nat) (b : Bytes) : (s.hostWrite port addr b).mtz = s.mtz := rfl
@[simp] theorem hostWrite_life (s : State) (port addr : Nat) (b : Bytes) : (s.hostWrite port addr b).life = s.life := rfl
@[simp] theorem hostWrite_cxl (s : State) (port addr : Nat) (b : Bytes) : (s.hostWrite port addr b).cxl = s.cxl := rfl

@[simp] theorem setTile_free (s : State) (t : Nat) (x : Tile) : (s.setTile t x).free = s.free := rfl
@[simp] theorem setTile_clk (s : State) (t : Nat) (x : Tile) : (s.setTile t x).clk = s.clk := rfl
@[simp] theorem setTile_evr (s : State) (t : Nat) (x : Tile) : (s.setTile t x).evr = s.evr := rfl
@[simp] theorem setTile_regs (s : State) (t : Nat) (x : Tile) : (s.setTile t x).regs = s.regs := rfl
@[simp] theorem setTile_tmi (s : State) (t : Nat) (x : Tile) : (s.setTile t x).tmi = s.tmi := rfl
@[simp] theorem setTile_out (s : State) (t : Nat) (x : Tile) : (s.setTile t x).out = s.out := rfl
@[simp] theorem setTile_cfg (s : State) (t : Nat) (x : Tile) : (s.setTile t x).cfg = s.cfg := rfl
@[simp] theorem setTile_parts (s : State) (t : Nat) (x : Tile) : (s.setTile t x).parts = s.parts := rfl
@[simp] theorem setTile_flushStats (s : State) (t : Nat) (x : Tile) : (s.setTile t x).flushStats = s.flushStats := rfl
@[simp] theorem setTile_links (s : State) (t : Nat) (x : Tile) : (s.setTile t x).links = s.links := rfl
@[simp] theorem setTile_rimOut (s : State) (t : Nat) (x : Tile) : (s.setTile t x).rimOut = s.rimOut := rfl
@[simp] theorem setTile_fc (s : State) (t : Nat) (x : Tile) : (s.setTile t x).fc = s.fc := rfl
@[simp] theorem setTile_tally (s : State) (t : Nat) (x : Tile) : (s.setTile t x).tally = s.tally := rfl
@[simp] theorem setTile_srv (s : State) (t : Nat) (x : Tile) : (s.setTile t x).srv = s.srv := rfl
@[simp] theorem setTile_fab (s : State) (t : Nat) (x : Tile) : (s.setTile t x).fab = s.fab := rfl
@[simp] theorem setTile_pwr (s : State) (t : Nat) (x : Tile) : (s.setTile t x).pwr = s.pwr := rfl
@[simp] theorem setTile_mtz (s : State) (t : Nat) (x : Tile) : (s.setTile t x).mtz = s.mtz := rfl
@[simp] theorem setTile_life (s : State) (t : Nat) (x : Tile) : (s.setTile t x).life = s.life := rfl
@[simp] theorem setTile_cxl (s : State) (t : Nat) (x : Tile) : (s.setTile t x).cxl = s.cxl := rfl

@[simp] theorem modTile_free (s : State) (t : Nat) (f : Tile → Tile) : (s.modTile t f).free = s.free := rfl
@[simp] theorem modTile_clk (s : State) (t : Nat) (f : Tile → Tile) : (s.modTile t f).clk = s.clk := rfl
@[simp] theorem modTile_evr (s : State) (t : Nat) (f : Tile → Tile) : (s.modTile t f).evr = s.evr := rfl
@[simp] theorem modTile_regs (s : State) (t : Nat) (f : Tile → Tile) : (s.modTile t f).regs = s.regs := rfl
@[simp] theorem modTile_tmi (s : State) (t : Nat) (f : Tile → Tile) : (s.modTile t f).tmi = s.tmi := rfl
@[simp] theorem modTile_out (s : State) (t : Nat) (f : Tile → Tile) : (s.modTile t f).out = s.out := rfl
@[simp] theorem modTile_cfg (s : State) (t : Nat) (f : Tile → Tile) : (s.modTile t f).cfg = s.cfg := rfl
@[simp] theorem modTile_parts (s : State) (t : Nat) (f : Tile → Tile) : (s.modTile t f).parts = s.parts := rfl
@[simp] theorem modTile_flushStats (s : State) (t : Nat) (f : Tile → Tile) : (s.modTile t f).flushStats = s.flushStats := rfl
@[simp] theorem modTile_links (s : State) (t : Nat) (f : Tile → Tile) : (s.modTile t f).links = s.links := rfl
@[simp] theorem modTile_rimOut (s : State) (t : Nat) (f : Tile → Tile) : (s.modTile t f).rimOut = s.rimOut := rfl
@[simp] theorem modTile_fc (s : State) (t : Nat) (f : Tile → Tile) : (s.modTile t f).fc = s.fc := rfl
@[simp] theorem modTile_tally (s : State) (t : Nat) (f : Tile → Tile) : (s.modTile t f).tally = s.tally := rfl
@[simp] theorem modTile_srv (s : State) (t : Nat) (f : Tile → Tile) : (s.modTile t f).srv = s.srv := rfl
@[simp] theorem modTile_fab (s : State) (t : Nat) (f : Tile → Tile) : (s.modTile t f).fab = s.fab := rfl
@[simp] theorem modTile_pwr (s : State) (t : Nat) (f : Tile → Tile) : (s.modTile t f).pwr = s.pwr := rfl
@[simp] theorem modTile_mtz (s : State) (t : Nat) (f : Tile → Tile) : (s.modTile t f).mtz = s.mtz := rfl
@[simp] theorem modTile_life (s : State) (t : Nat) (f : Tile → Tile) : (s.modTile t f).life = s.life := rfl
@[simp] theorem modTile_cxl (s : State) (t : Nat) (f : Tile → Tile) : (s.modTile t f).cxl = s.cxl := rfl

@[simp] theorem setPart_free (s : State) (p : Nat) (x : Partition) : (s.setPart p x).free = s.free := rfl
@[simp] theorem setPart_clk (s : State) (p : Nat) (x : Partition) : (s.setPart p x).clk = s.clk := rfl
@[simp] theorem setPart_evr (s : State) (p : Nat) (x : Partition) : (s.setPart p x).evr = s.evr := rfl
@[simp] theorem setPart_regs (s : State) (p : Nat) (x : Partition) : (s.setPart p x).regs = s.regs := rfl
@[simp] theorem setPart_tmi (s : State) (p : Nat) (x : Partition) : (s.setPart p x).tmi = s.tmi := rfl
@[simp] theorem setPart_out (s : State) (p : Nat) (x : Partition) : (s.setPart p x).out = s.out := rfl
@[simp] theorem setPart_cfg (s : State) (p : Nat) (x : Partition) : (s.setPart p x).cfg = s.cfg := rfl
@[simp] theorem setPart_flushStats (s : State) (p : Nat) (x : Partition) : (s.setPart p x).flushStats = s.flushStats := rfl
@[simp] theorem setPart_tiles (s : State) (p : Nat) (x : Partition) : (s.setPart p x).tiles = s.tiles := rfl
@[simp] theorem setPart_links (s : State) (p : Nat) (x : Partition) : (s.setPart p x).links = s.links := rfl
@[simp] theorem setPart_rimOut (s : State) (p : Nat) (x : Partition) : (s.setPart p x).rimOut = s.rimOut := rfl
@[simp] theorem setPart_fc (s : State) (p : Nat) (x : Partition) : (s.setPart p x).fc = s.fc := rfl
@[simp] theorem setPart_tally (s : State) (p : Nat) (x : Partition) : (s.setPart p x).tally = s.tally := rfl
@[simp] theorem setPart_srv (s : State) (p : Nat) (x : Partition) : (s.setPart p x).srv = s.srv := rfl
@[simp] theorem setPart_fab (s : State) (p : Nat) (x : Partition) : (s.setPart p x).fab = s.fab := rfl
@[simp] theorem setPart_pwr (s : State) (p : Nat) (x : Partition) : (s.setPart p x).pwr = s.pwr := rfl
@[simp] theorem setPart_mtz (s : State) (p : Nat) (x : Partition) : (s.setPart p x).mtz = s.mtz := rfl
@[simp] theorem setPart_life (s : State) (p : Nat) (x : Partition) : (s.setPart p x).life = s.life := rfl
@[simp] theorem setPart_cxl (s : State) (p : Nat) (x : Partition) : (s.setPart p x).cxl = s.cxl := rfl

@[simp] theorem modPart_free (s : State) (p : Nat) (f : Partition → Partition) : (s.modPart p f).free = s.free := rfl
@[simp] theorem modPart_clk (s : State) (p : Nat) (f : Partition → Partition) : (s.modPart p f).clk = s.clk := rfl
@[simp] theorem modPart_evr (s : State) (p : Nat) (f : Partition → Partition) : (s.modPart p f).evr = s.evr := rfl
@[simp] theorem modPart_regs (s : State) (p : Nat) (f : Partition → Partition) : (s.modPart p f).regs = s.regs := rfl
@[simp] theorem modPart_tmi (s : State) (p : Nat) (f : Partition → Partition) : (s.modPart p f).tmi = s.tmi := rfl
@[simp] theorem modPart_out (s : State) (p : Nat) (f : Partition → Partition) : (s.modPart p f).out = s.out := rfl
@[simp] theorem modPart_cfg (s : State) (p : Nat) (f : Partition → Partition) : (s.modPart p f).cfg = s.cfg := rfl
@[simp] theorem modPart_flushStats (s : State) (p : Nat) (f : Partition → Partition) : (s.modPart p f).flushStats = s.flushStats := rfl
@[simp] theorem modPart_tiles (s : State) (p : Nat) (f : Partition → Partition) : (s.modPart p f).tiles = s.tiles := rfl
@[simp] theorem modPart_links (s : State) (p : Nat) (f : Partition → Partition) : (s.modPart p f).links = s.links := rfl
@[simp] theorem modPart_rimOut (s : State) (p : Nat) (f : Partition → Partition) : (s.modPart p f).rimOut = s.rimOut := rfl
@[simp] theorem modPart_fc (s : State) (p : Nat) (f : Partition → Partition) : (s.modPart p f).fc = s.fc := rfl
@[simp] theorem modPart_tally (s : State) (p : Nat) (f : Partition → Partition) : (s.modPart p f).tally = s.tally := rfl
@[simp] theorem modPart_srv (s : State) (p : Nat) (f : Partition → Partition) : (s.modPart p f).srv = s.srv := rfl
@[simp] theorem modPart_fab (s : State) (p : Nat) (f : Partition → Partition) : (s.modPart p f).fab = s.fab := rfl
@[simp] theorem modPart_pwr (s : State) (p : Nat) (f : Partition → Partition) : (s.modPart p f).pwr = s.pwr := rfl
@[simp] theorem modPart_mtz (s : State) (p : Nat) (f : Partition → Partition) : (s.modPart p f).mtz = s.mtz := rfl
@[simp] theorem modPart_life (s : State) (p : Nat) (f : Partition → Partition) : (s.modPart p f).life = s.life := rfl
@[simp] theorem modPart_cxl (s : State) (p : Nat) (f : Partition → Partition) : (s.modPart p f).cxl = s.cxl := rfl

@[simp] theorem takeRim_free (s : State) (t exit : Nat) (k : Flit → Bool) : (s.takeRim t exit k).free = s.free := by unfold State.takeRim; split <;> rfl
@[simp] theorem takeRim_clk (s : State) (t exit : Nat) (k : Flit → Bool) : (s.takeRim t exit k).clk = s.clk := by unfold State.takeRim; split <;> rfl
@[simp] theorem takeRim_evr (s : State) (t exit : Nat) (k : Flit → Bool) : (s.takeRim t exit k).evr = s.evr := by unfold State.takeRim; split <;> rfl
@[simp] theorem takeRim_regs (s : State) (t exit : Nat) (k : Flit → Bool) : (s.takeRim t exit k).regs = s.regs := by unfold State.takeRim; split <;> rfl
@[simp] theorem takeRim_tmi (s : State) (t exit : Nat) (k : Flit → Bool) : (s.takeRim t exit k).tmi = s.tmi := by unfold State.takeRim; split <;> rfl
@[simp] theorem takeRim_out (s : State) (t exit : Nat) (k : Flit → Bool) : (s.takeRim t exit k).out = s.out := by unfold State.takeRim; split <;> rfl
@[simp] theorem takeRim_cfg (s : State) (t exit : Nat) (k : Flit → Bool) : (s.takeRim t exit k).cfg = s.cfg := by unfold State.takeRim; split <;> rfl
@[simp] theorem takeRim_parts (s : State) (t exit : Nat) (k : Flit → Bool) : (s.takeRim t exit k).parts = s.parts := by unfold State.takeRim; split <;> rfl
@[simp] theorem takeRim_flushStats (s : State) (t exit : Nat) (k : Flit → Bool) : (s.takeRim t exit k).flushStats = s.flushStats := by unfold State.takeRim; split <;> rfl
@[simp] theorem takeRim_tiles (s : State) (t exit : Nat) (k : Flit → Bool) : (s.takeRim t exit k).tiles = s.tiles := by unfold State.takeRim; split <;> rfl
@[simp] theorem takeRim_rimOut (s : State) (t exit : Nat) (k : Flit → Bool) : (s.takeRim t exit k).rimOut = s.rimOut := by unfold State.takeRim; split <;> rfl
@[simp] theorem takeRim_fc (s : State) (t exit : Nat) (k : Flit → Bool) : (s.takeRim t exit k).fc = s.fc := by unfold State.takeRim; split <;> rfl
@[simp] theorem takeRim_tally (s : State) (t exit : Nat) (k : Flit → Bool) : (s.takeRim t exit k).tally = s.tally := by unfold State.takeRim; split <;> rfl
@[simp] theorem takeRim_srv (s : State) (t exit : Nat) (k : Flit → Bool) : (s.takeRim t exit k).srv = s.srv := by unfold State.takeRim; split <;> rfl
@[simp] theorem takeRim_fab (s : State) (t exit : Nat) (k : Flit → Bool) : (s.takeRim t exit k).fab = s.fab := by unfold State.takeRim; split <;> rfl
@[simp] theorem takeRim_pwr (s : State) (t exit : Nat) (k : Flit → Bool) : (s.takeRim t exit k).pwr = s.pwr := by unfold State.takeRim; split <;> rfl
@[simp] theorem takeRim_mtz (s : State) (t exit : Nat) (k : Flit → Bool) : (s.takeRim t exit k).mtz = s.mtz := by unfold State.takeRim; split <;> rfl
@[simp] theorem takeRim_life (s : State) (t exit : Nat) (k : Flit → Bool) : (s.takeRim t exit k).life = s.life := by unfold State.takeRim; split <;> rfl
@[simp] theorem takeRim_cxl (s : State) (t exit : Nat) (k : Flit → Bool) : (s.takeRim t exit k).cxl = s.cxl := by unfold State.takeRim; split <;> rfl

@[simp] theorem cxlCache_free (s : State) (l : List (Nat × Nat)) : (s.cxlCache l).free = s.free := rfl
@[simp] theorem cxlCache_clk (s : State) (l : List (Nat × Nat)) : (s.cxlCache l).clk = s.clk := rfl
@[simp] theorem cxlCache_evr (s : State) (l : List (Nat × Nat)) : (s.cxlCache l).evr = s.evr := rfl
@[simp] theorem cxlCache_regs (s : State) (l : List (Nat × Nat)) : (s.cxlCache l).regs = s.regs := rfl
@[simp] theorem cxlCache_tmi (s : State) (l : List (Nat × Nat)) : (s.cxlCache l).tmi = s.tmi := rfl
@[simp] theorem cxlCache_cfg (s : State) (l : List (Nat × Nat)) : (s.cxlCache l).cfg = s.cfg := rfl
@[simp] theorem cxlCache_parts (s : State) (l : List (Nat × Nat)) : (s.cxlCache l).parts = s.parts := rfl
@[simp] theorem cxlCache_flushStats (s : State) (l : List (Nat × Nat)) : (s.cxlCache l).flushStats = s.flushStats := rfl
@[simp] theorem cxlCache_tiles (s : State) (l : List (Nat × Nat)) : (s.cxlCache l).tiles = s.tiles := rfl
@[simp] theorem cxlCache_links (s : State) (l : List (Nat × Nat)) : (s.cxlCache l).links = s.links := rfl
@[simp] theorem cxlCache_rimOut (s : State) (l : List (Nat × Nat)) : (s.cxlCache l).rimOut = s.rimOut := rfl
@[simp] theorem cxlCache_fc (s : State) (l : List (Nat × Nat)) : (s.cxlCache l).fc = s.fc := rfl
@[simp] theorem cxlCache_tally (s : State) (l : List (Nat × Nat)) : (s.cxlCache l).tally = s.tally := rfl
@[simp] theorem cxlCache_srv (s : State) (l : List (Nat × Nat)) : (s.cxlCache l).srv = s.srv := rfl
@[simp] theorem cxlCache_fab (s : State) (l : List (Nat × Nat)) : (s.cxlCache l).fab = s.fab := rfl
@[simp] theorem cxlCache_pwr (s : State) (l : List (Nat × Nat)) : (s.cxlCache l).pwr = s.pwr := rfl
@[simp] theorem cxlCache_mtz (s : State) (l : List (Nat × Nat)) : (s.cxlCache l).mtz = s.mtz := rfl
@[simp] theorem cxlCache_life (s : State) (l : List (Nat × Nat)) : (s.cxlCache l).life = s.life := rfl
@[simp] theorem cxlCache_cxl (s : State) (l : List (Nat × Nat)) : (s.cxlCache l).cxl = s.cxl := rfl

@[simp] theorem modReq_free (s : State) (ridx : Nat) (f : Req → Req) : (s.modReq ridx f).free = s.free := rfl
@[simp] theorem modReq_clk (s : State) (ridx : Nat) (f : Req → Req) : (s.modReq ridx f).clk = s.clk := rfl
@[simp] theorem modReq_evr (s : State) (ridx : Nat) (f : Req → Req) : (s.modReq ridx f).evr = s.evr := rfl
@[simp] theorem modReq_regs (s : State) (ridx : Nat) (f : Req → Req) : (s.modReq ridx f).regs = s.regs := rfl
@[simp] theorem modReq_tmi (s : State) (ridx : Nat) (f : Req → Req) : (s.modReq ridx f).tmi = s.tmi := rfl
@[simp] theorem modReq_out (s : State) (ridx : Nat) (f : Req → Req) : (s.modReq ridx f).out = s.out := rfl
@[simp] theorem modReq_cfg (s : State) (ridx : Nat) (f : Req → Req) : (s.modReq ridx f).cfg = s.cfg := rfl
@[simp] theorem modReq_parts (s : State) (ridx : Nat) (f : Req → Req) : (s.modReq ridx f).parts = s.parts := rfl
@[simp] theorem modReq_flushStats (s : State) (ridx : Nat) (f : Req → Req) : (s.modReq ridx f).flushStats = s.flushStats := rfl
@[simp] theorem modReq_tiles (s : State) (ridx : Nat) (f : Req → Req) : (s.modReq ridx f).tiles = s.tiles := rfl
@[simp] theorem modReq_links (s : State) (ridx : Nat) (f : Req → Req) : (s.modReq ridx f).links = s.links := rfl
@[simp] theorem modReq_rimOut (s : State) (ridx : Nat) (f : Req → Req) : (s.modReq ridx f).rimOut = s.rimOut := rfl
@[simp] theorem modReq_fc (s : State) (ridx : Nat) (f : Req → Req) : (s.modReq ridx f).fc = s.fc := rfl
@[simp] theorem modReq_tally (s : State) (ridx : Nat) (f : Req → Req) : (s.modReq ridx f).tally = s.tally := rfl
@[simp] theorem modReq_fab (s : State) (ridx : Nat) (f : Req → Req) : (s.modReq ridx f).fab = s.fab := rfl
@[simp] theorem modReq_pwr (s : State) (ridx : Nat) (f : Req → Req) : (s.modReq ridx f).pwr = s.pwr := rfl
@[simp] theorem modReq_mtz (s : State) (ridx : Nat) (f : Req → Req) : (s.modReq ridx f).mtz = s.mtz := rfl
@[simp] theorem modReq_life (s : State) (ridx : Nat) (f : Req → Req) : (s.modReq ridx f).life = s.life := rfl
@[simp] theorem modReq_cxl (s : State) (ridx : Nat) (f : Req → Req) : (s.modReq ridx f).cxl = s.cxl := rfl

@[simp] theorem modPort_free (s : State) (k : Nat) (f : Port → Port) : (s.modPort k f).free = s.free := rfl
@[simp] theorem modPort_clk (s : State) (k : Nat) (f : Port → Port) : (s.modPort k f).clk = s.clk := rfl
@[simp] theorem modPort_evr (s : State) (k : Nat) (f : Port → Port) : (s.modPort k f).evr = s.evr := rfl
@[simp] theorem modPort_regs (s : State) (k : Nat) (f : Port → Port) : (s.modPort k f).regs = s.regs := rfl
@[simp] theorem modPort_tmi (s : State) (k : Nat) (f : Port → Port) : (s.modPort k f).tmi = s.tmi := rfl
@[simp] theorem modPort_out (s : State) (k : Nat) (f : Port → Port) : (s.modPort k f).out = s.out := rfl
@[simp] theorem modPort_cfg (s : State) (k : Nat) (f : Port → Port) : (s.modPort k f).cfg = s.cfg := rfl
@[simp] theorem modPort_parts (s : State) (k : Nat) (f : Port → Port) : (s.modPort k f).parts = s.parts := rfl
@[simp] theorem modPort_flushStats (s : State) (k : Nat) (f : Port → Port) : (s.modPort k f).flushStats = s.flushStats := rfl
@[simp] theorem modPort_tiles (s : State) (k : Nat) (f : Port → Port) : (s.modPort k f).tiles = s.tiles := rfl
@[simp] theorem modPort_links (s : State) (k : Nat) (f : Port → Port) : (s.modPort k f).links = s.links := rfl
@[simp] theorem modPort_rimOut (s : State) (k : Nat) (f : Port → Port) : (s.modPort k f).rimOut = s.rimOut := rfl
@[simp] theorem modPort_fc (s : State) (k : Nat) (f : Port → Port) : (s.modPort k f).fc = s.fc := rfl
@[simp] theorem modPort_tally (s : State) (k : Nat) (f : Port → Port) : (s.modPort k f).tally = s.tally := rfl
@[simp] theorem modPort_srv (s : State) (k : Nat) (f : Port → Port) : (s.modPort k f).srv = s.srv := rfl
@[simp] theorem modPort_pwr (s : State) (k : Nat) (f : Port → Port) : (s.modPort k f).pwr = s.pwr := rfl
@[simp] theorem modPort_mtz (s : State) (k : Nat) (f : Port → Port) : (s.modPort k f).mtz = s.mtz := rfl
@[simp] theorem modPort_life (s : State) (k : Nat) (f : Port → Port) : (s.modPort k f).life = s.life := rfl
@[simp] theorem modPort_cxl (s : State) (k : Nat) (f : Port → Port) : (s.modPort k f).cxl = s.cxl := rfl

@[simp] theorem addJournal_free (s : State) (j : Journal) : (s.addJournal j).free = s.free := rfl
@[simp] theorem addJournal_clk (s : State) (j : Journal) : (s.addJournal j).clk = s.clk := rfl
@[simp] theorem addJournal_evr (s : State) (j : Journal) : (s.addJournal j).evr = s.evr := rfl
@[simp] theorem addJournal_regs (s : State) (j : Journal) : (s.addJournal j).regs = s.regs := rfl
@[simp] theorem addJournal_tmi (s : State) (j : Journal) : (s.addJournal j).tmi = s.tmi := rfl
@[simp] theorem addJournal_out (s : State) (j : Journal) : (s.addJournal j).out = s.out := rfl
@[simp] theorem addJournal_cfg (s : State) (j : Journal) : (s.addJournal j).cfg = s.cfg := rfl
@[simp] theorem addJournal_parts (s : State) (j : Journal) : (s.addJournal j).parts = s.parts := rfl
@[simp] theorem addJournal_flushStats (s : State) (j : Journal) : (s.addJournal j).flushStats = s.flushStats := rfl
@[simp] theorem addJournal_tiles (s : State) (j : Journal) : (s.addJournal j).tiles = s.tiles := rfl
@[simp] theorem addJournal_links (s : State) (j : Journal) : (s.addJournal j).links = s.links := rfl
@[simp] theorem addJournal_rimOut (s : State) (j : Journal) : (s.addJournal j).rimOut = s.rimOut := rfl
@[simp] theorem addJournal_fc (s : State) (j : Journal) : (s.addJournal j).fc = s.fc := rfl
@[simp] theorem addJournal_tally (s : State) (j : Journal) : (s.addJournal j).tally = s.tally := rfl
@[simp] theorem addJournal_srv (s : State) (j : Journal) : (s.addJournal j).srv = s.srv := rfl
@[simp] theorem addJournal_fab (s : State) (j : Journal) : (s.addJournal j).fab = s.fab := rfl
@[simp] theorem addJournal_pwr (s : State) (j : Journal) : (s.addJournal j).pwr = s.pwr := rfl
@[simp] theorem addJournal_mtz (s : State) (j : Journal) : (s.addJournal j).mtz = s.mtz := rfl
@[simp] theorem addJournal_cxl (s : State) (j : Journal) : (s.addJournal j).cxl = s.cxl := rfl

@[simp] theorem clearJournal_free (s : State) (pn : Nat) : (s.clearJournal pn).free = s.free := rfl
@[simp] theorem clearJournal_clk (s : State) (pn : Nat) : (s.clearJournal pn).clk = s.clk := rfl
@[simp] theorem clearJournal_evr (s : State) (pn : Nat) : (s.clearJournal pn).evr = s.evr := rfl
@[simp] theorem clearJournal_regs (s : State) (pn : Nat) : (s.clearJournal pn).regs = s.regs := rfl
@[simp] theorem clearJournal_tmi (s : State) (pn : Nat) : (s.clearJournal pn).tmi = s.tmi := rfl
@[simp] theorem clearJournal_out (s : State) (pn : Nat) : (s.clearJournal pn).out = s.out := rfl
@[simp] theorem clearJournal_cfg (s : State) (pn : Nat) : (s.clearJournal pn).cfg = s.cfg := rfl
@[simp] theorem clearJournal_parts (s : State) (pn : Nat) : (s.clearJournal pn).parts = s.parts := rfl
@[simp] theorem clearJournal_flushStats (s : State) (pn : Nat) : (s.clearJournal pn).flushStats = s.flushStats := rfl
@[simp] theorem clearJournal_tiles (s : State) (pn : Nat) : (s.clearJournal pn).tiles = s.tiles := rfl
@[simp] theorem clearJournal_links (s : State) (pn : Nat) : (s.clearJournal pn).links = s.links := rfl
@[simp] theorem clearJournal_rimOut (s : State) (pn : Nat) : (s.clearJournal pn).rimOut = s.rimOut := rfl
@[simp] theorem clearJournal_fc (s : State) (pn : Nat) : (s.clearJournal pn).fc = s.fc := rfl
@[simp] theorem clearJournal_tally (s : State) (pn : Nat) : (s.clearJournal pn).tally = s.tally := rfl
@[simp] theorem clearJournal_srv (s : State) (pn : Nat) : (s.clearJournal pn).srv = s.srv := rfl
@[simp] theorem clearJournal_fab (s : State) (pn : Nat) : (s.clearJournal pn).fab = s.fab := rfl
@[simp] theorem clearJournal_pwr (s : State) (pn : Nat) : (s.clearJournal pn).pwr = s.pwr := rfl
@[simp] theorem clearJournal_mtz (s : State) (pn : Nat) : (s.clearJournal pn).mtz = s.mtz := rfl
@[simp] theorem clearJournal_cxl (s : State) (pn : Nat) : (s.clearJournal pn).cxl = s.cxl := rfl

@[simp] theorem dropDoorbell_free (s : State) : (s.dropDoorbell).free = s.free := rfl
@[simp] theorem dropDoorbell_clk (s : State) : (s.dropDoorbell).clk = s.clk := rfl
@[simp] theorem dropDoorbell_evr (s : State) : (s.dropDoorbell).evr = s.evr := rfl
@[simp] theorem dropDoorbell_tmi (s : State) : (s.dropDoorbell).tmi = s.tmi := rfl
@[simp] theorem dropDoorbell_out (s : State) : (s.dropDoorbell).out = s.out := rfl
@[simp] theorem dropDoorbell_cfg (s : State) : (s.dropDoorbell).cfg = s.cfg := rfl
@[simp] theorem dropDoorbell_parts (s : State) : (s.dropDoorbell).parts = s.parts := rfl
@[simp] theorem dropDoorbell_flushStats (s : State) : (s.dropDoorbell).flushStats = s.flushStats := rfl
@[simp] theorem dropDoorbell_tiles (s : State) : (s.dropDoorbell).tiles = s.tiles := rfl
@[simp] theorem dropDoorbell_links (s : State) : (s.dropDoorbell).links = s.links := rfl
@[simp] theorem dropDoorbell_rimOut (s : State) : (s.dropDoorbell).rimOut = s.rimOut := rfl
@[simp] theorem dropDoorbell_fc (s : State) : (s.dropDoorbell).fc = s.fc := rfl
@[simp] theorem dropDoorbell_tally (s : State) : (s.dropDoorbell).tally = s.tally := rfl
@[simp] theorem dropDoorbell_srv (s : State) : (s.dropDoorbell).srv = s.srv := rfl
@[simp] theorem dropDoorbell_fab (s : State) : (s.dropDoorbell).fab = s.fab := rfl
@[simp] theorem dropDoorbell_pwr (s : State) : (s.dropDoorbell).pwr = s.pwr := rfl
@[simp] theorem dropDoorbell_mtz (s : State) : (s.dropDoorbell).mtz = s.mtz := rfl
@[simp] theorem dropDoorbell_life (s : State) : (s.dropDoorbell).life = s.life := rfl
@[simp] theorem dropDoorbell_cxl (s : State) : (s.dropDoorbell).cxl = s.cxl := rfl

@[simp] theorem modHandoff_free (s : State) (ridx : Nat) (f : Handoff → Handoff) : (s.modHandoff ridx f).free = s.free := rfl
@[simp] theorem modHandoff_clk (s : State) (ridx : Nat) (f : Handoff → Handoff) : (s.modHandoff ridx f).clk = s.clk := rfl
@[simp] theorem modHandoff_evr (s : State) (ridx : Nat) (f : Handoff → Handoff) : (s.modHandoff ridx f).evr = s.evr := rfl
@[simp] theorem modHandoff_regs (s : State) (ridx : Nat) (f : Handoff → Handoff) : (s.modHandoff ridx f).regs = s.regs := rfl
@[simp] theorem modHandoff_tmi (s : State) (ridx : Nat) (f : Handoff → Handoff) : (s.modHandoff ridx f).tmi = s.tmi := rfl
@[simp] theorem modHandoff_out (s : State) (ridx : Nat) (f : Handoff → Handoff) : (s.modHandoff ridx f).out = s.out := rfl
@[simp] theorem modHandoff_cfg (s : State) (ridx : Nat) (f : Handoff → Handoff) : (s.modHandoff ridx f).cfg = s.cfg := rfl
@[simp] theorem modHandoff_parts (s : State) (ridx : Nat) (f : Handoff → Handoff) : (s.modHandoff ridx f).parts = s.parts := rfl
@[simp] theorem modHandoff_flushStats (s : State) (ridx : Nat) (f : Handoff → Handoff) : (s.modHandoff ridx f).flushStats = s.flushStats := rfl
@[simp] theorem modHandoff_tiles (s : State) (ridx : Nat) (f : Handoff → Handoff) : (s.modHandoff ridx f).tiles = s.tiles := rfl
@[simp] theorem modHandoff_links (s : State) (ridx : Nat) (f : Handoff → Handoff) : (s.modHandoff ridx f).links = s.links := rfl
@[simp] theorem modHandoff_rimOut (s : State) (ridx : Nat) (f : Handoff → Handoff) : (s.modHandoff ridx f).rimOut = s.rimOut := rfl
@[simp] theorem modHandoff_fc (s : State) (ridx : Nat) (f : Handoff → Handoff) : (s.modHandoff ridx f).fc = s.fc := rfl
@[simp] theorem modHandoff_tally (s : State) (ridx : Nat) (f : Handoff → Handoff) : (s.modHandoff ridx f).tally = s.tally := rfl
@[simp] theorem modHandoff_fab (s : State) (ridx : Nat) (f : Handoff → Handoff) : (s.modHandoff ridx f).fab = s.fab := rfl
@[simp] theorem modHandoff_pwr (s : State) (ridx : Nat) (f : Handoff → Handoff) : (s.modHandoff ridx f).pwr = s.pwr := rfl
@[simp] theorem modHandoff_mtz (s : State) (ridx : Nat) (f : Handoff → Handoff) : (s.modHandoff ridx f).mtz = s.mtz := rfl
@[simp] theorem modHandoff_life (s : State) (ridx : Nat) (f : Handoff → Handoff) : (s.modHandoff ridx f).life = s.life := rfl
@[simp] theorem modHandoff_cxl (s : State) (ridx : Nat) (f : Handoff → Handoff) : (s.modHandoff ridx f).cxl = s.cxl := rfl

@[simp] theorem modLink_free (s : State) (k : Nat) (f : Link → Link) : (s.modLink k f).free = s.free := rfl
@[simp] theorem modLink_clk (s : State) (k : Nat) (f : Link → Link) : (s.modLink k f).clk = s.clk := rfl
@[simp] theorem modLink_evr (s : State) (k : Nat) (f : Link → Link) : (s.modLink k f).evr = s.evr := rfl
@[simp] theorem modLink_regs (s : State) (k : Nat) (f : Link → Link) : (s.modLink k f).regs = s.regs := rfl
@[simp] theorem modLink_tmi (s : State) (k : Nat) (f : Link → Link) : (s.modLink k f).tmi = s.tmi := rfl
@[simp] theorem modLink_out (s : State) (k : Nat) (f : Link → Link) : (s.modLink k f).out = s.out := rfl
@[simp] theorem modLink_cfg (s : State) (k : Nat) (f : Link → Link) : (s.modLink k f).cfg = s.cfg := rfl
@[simp] theorem modLink_parts (s : State) (k : Nat) (f : Link → Link) : (s.modLink k f).parts = s.parts := rfl
@[simp] theorem modLink_flushStats (s : State) (k : Nat) (f : Link → Link) : (s.modLink k f).flushStats = s.flushStats := rfl
@[simp] theorem modLink_tiles (s : State) (k : Nat) (f : Link → Link) : (s.modLink k f).tiles = s.tiles := rfl
@[simp] theorem modLink_rimOut (s : State) (k : Nat) (f : Link → Link) : (s.modLink k f).rimOut = s.rimOut := rfl
@[simp] theorem modLink_fc (s : State) (k : Nat) (f : Link → Link) : (s.modLink k f).fc = s.fc := rfl
@[simp] theorem modLink_tally (s : State) (k : Nat) (f : Link → Link) : (s.modLink k f).tally = s.tally := rfl
@[simp] theorem modLink_srv (s : State) (k : Nat) (f : Link → Link) : (s.modLink k f).srv = s.srv := rfl
@[simp] theorem modLink_fab (s : State) (k : Nat) (f : Link → Link) : (s.modLink k f).fab = s.fab := rfl
@[simp] theorem modLink_pwr (s : State) (k : Nat) (f : Link → Link) : (s.modLink k f).pwr = s.pwr := rfl
@[simp] theorem modLink_mtz (s : State) (k : Nat) (f : Link → Link) : (s.modLink k f).mtz = s.mtz := rfl
@[simp] theorem modLink_life (s : State) (k : Nat) (f : Link → Link) : (s.modLink k f).life = s.life := rfl
@[simp] theorem modLink_cxl (s : State) (k : Nat) (f : Link → Link) : (s.modLink k f).cxl = s.cxl := rfl

@[simp] theorem reply_free (s : State) (kind : Nat) (b : Bytes) : (s.reply kind b).free = s.free := rfl
@[simp] theorem reply_clk (s : State) (kind : Nat) (b : Bytes) : (s.reply kind b).clk = s.clk := rfl
@[simp] theorem reply_evr (s : State) (kind : Nat) (b : Bytes) : (s.reply kind b).evr = s.evr := rfl
@[simp] theorem reply_regs (s : State) (kind : Nat) (b : Bytes) : (s.reply kind b).regs = s.regs := rfl
@[simp] theorem reply_tmi (s : State) (kind : Nat) (b : Bytes) : (s.reply kind b).tmi = s.tmi := rfl
@[simp] theorem reply_cfg (s : State) (kind : Nat) (b : Bytes) : (s.reply kind b).cfg = s.cfg := rfl
@[simp] theorem reply_parts (s : State) (kind : Nat) (b : Bytes) : (s.reply kind b).parts = s.parts := rfl
@[simp] theorem reply_flushStats (s : State) (kind : Nat) (b : Bytes) : (s.reply kind b).flushStats = s.flushStats := rfl
@[simp] theorem reply_tiles (s : State) (kind : Nat) (b : Bytes) : (s.reply kind b).tiles = s.tiles := rfl
@[simp] theorem reply_links (s : State) (kind : Nat) (b : Bytes) : (s.reply kind b).links = s.links := rfl
@[simp] theorem reply_rimOut (s : State) (kind : Nat) (b : Bytes) : (s.reply kind b).rimOut = s.rimOut := rfl
@[simp] theorem reply_fc (s : State) (kind : Nat) (b : Bytes) : (s.reply kind b).fc = s.fc := rfl
@[simp] theorem reply_tally (s : State) (kind : Nat) (b : Bytes) : (s.reply kind b).tally = s.tally := rfl
@[simp] theorem reply_srv (s : State) (kind : Nat) (b : Bytes) : (s.reply kind b).srv = s.srv := rfl
@[simp] theorem reply_fab (s : State) (kind : Nat) (b : Bytes) : (s.reply kind b).fab = s.fab := rfl
@[simp] theorem reply_pwr (s : State) (kind : Nat) (b : Bytes) : (s.reply kind b).pwr = s.pwr := rfl
@[simp] theorem reply_mtz (s : State) (kind : Nat) (b : Bytes) : (s.reply kind b).mtz = s.mtz := rfl
@[simp] theorem reply_life (s : State) (kind : Nat) (b : Bytes) : (s.reply kind b).life = s.life := rfl
@[simp] theorem reply_cxl (s : State) (kind : Nat) (b : Bytes) : (s.reply kind b).cxl = s.cxl := rfl

@[simp] theorem spendNonce_free (s : State) : (s.spendNonce).free = s.free := rfl
@[simp] theorem spendNonce_clk (s : State) : (s.spendNonce).clk = s.clk := rfl
@[simp] theorem spendNonce_evr (s : State) : (s.spendNonce).evr = s.evr := rfl
@[simp] theorem spendNonce_regs (s : State) : (s.spendNonce).regs = s.regs := rfl
@[simp] theorem spendNonce_tmi (s : State) : (s.spendNonce).tmi = s.tmi := rfl
@[simp] theorem spendNonce_out (s : State) : (s.spendNonce).out = s.out := rfl
@[simp] theorem spendNonce_cfg (s : State) : (s.spendNonce).cfg = s.cfg := rfl
@[simp] theorem spendNonce_parts (s : State) : (s.spendNonce).parts = s.parts := rfl
@[simp] theorem spendNonce_flushStats (s : State) : (s.spendNonce).flushStats = s.flushStats := rfl
@[simp] theorem spendNonce_tiles (s : State) : (s.spendNonce).tiles = s.tiles := rfl
@[simp] theorem spendNonce_links (s : State) : (s.spendNonce).links = s.links := rfl
@[simp] theorem spendNonce_rimOut (s : State) : (s.spendNonce).rimOut = s.rimOut := rfl
@[simp] theorem spendNonce_fc (s : State) : (s.spendNonce).fc = s.fc := rfl
@[simp] theorem spendNonce_tally (s : State) : (s.spendNonce).tally = s.tally := rfl
@[simp] theorem spendNonce_srv (s : State) : (s.spendNonce).srv = s.srv := rfl
@[simp] theorem spendNonce_fab (s : State) : (s.spendNonce).fab = s.fab := rfl
@[simp] theorem spendNonce_pwr (s : State) : (s.spendNonce).pwr = s.pwr := rfl
@[simp] theorem spendNonce_mtz (s : State) : (s.spendNonce).mtz = s.mtz := rfl
@[simp] theorem spendNonce_life (s : State) : (s.spendNonce).life = s.life := rfl
@[simp] theorem spendNonce_cxl (s : State) : (s.spendNonce).cxl = s.cxl := rfl

@[simp] theorem setTile_tile (s : State) (t : Nat) (x : Tile) : (s.setTile t x).tile t = x := by simp [State.setTile, State.tile]

theorem setTile_tile_ne (s : State) (t u : Nat) (x : Tile) (h : u ≠ t) : (s.setTile t x).tile u = s.tile u := by
  simp [State.setTile, State.tile, kget_kput_ne _ _ _ _ h]

@[simp] theorem setPart_part (s : State) (p : Nat) (x : Partition) : (s.setPart p x).part p = some x := by simp [State.setPart, State.part]

theorem setPart_part_ne (s : State) (p q : Nat) (x : Partition) (h : q ≠ p) : (s.setPart p x).part q = s.part q := by
  simp [State.setPart, State.part, kget_kput_ne _ _ _ _ h]

end Sys2Proof.Machine
end

