-- ==== Sys2Proof/Machine/Package.lean ====
section
/-! DEFINITION. The package: outline, the land grid and its groups, control lands and their levels, the supply rails, the ratings, cooling (R448 to R461). None of it is state. -/

namespace Sys2Proof.Machine

/-- Whether land `row.column` exists: odd rows hold odd columns, even rows even columns, and the index corner holds none
(R449). -/
def landExists (row col : Nat) : Bool :=
  decide (1 ≤ row ∧ row ≤ 109 ∧ 1 ≤ col ∧ col ≤ 217) && row % 2 == col % 2 && !(decide (row ≤ 6 ∧ col ≤ 17))

/-- Lands of each group of Table 17.2, in its order. -/
def landGroups : List Nat := [2880, 800, 240, 12, 5040, 288, 64, 2336, 8, 36, 72]

/-- Lands of a rail's group and the current in 0.01 A that each carries when the group carries `amps` (R451). -/
def centiampsPerLand (lands amps : Nat) : Nat := (100 * amps + lands / 2) / lands

/-- Static and transient bands of a rail in mV: `VIN_CORE`, `VIN_MEM`, `VIN_SER`, `VIN_AUX` (Table 17.5). -/
def railBands : List ((Nat × Nat) × (Nat × Nat)) :=
  [((1764, 1836), (1737, 1863)), ((1176, 1224), (1158, 1242)), ((882, 918), (869, 932)), ((3234, 3366), (3185, 3416))]

/-- Whether a rail's voltage in mV keeps its transient band (R457). -/
def inTransientBand (rail mv : Nat) : Bool :=
  match railBands[rail]? with
  | some (_, b) => decide (b.1 ≤ mv ∧ mv ≤ b.2)
  | none => false

/-- The cooling rule, with the inlet temperature in 0.01 °C and the lid-to-coolant resistance in 0.00001 K/W (R460). -/
def coolingOk (inlet : Int) (lidToCoolant : Nat) : Bool := decide (inlet * 1000 + 2800 * (1000 + lidToCoolant : Int) ≤ 9800 * 1000)

/-! ## Outline (R448, Table 17.1) -/

/-- Sides of substrate and lid, height and mass: mm/100, mm/100, mm/100, g. -/
def packageOutline : List Nat := [11000, 10400, 620, 430]

/-- Socket insertions over the life of the part. -/
def socketInsertions : Nat := 20

/-! ## Control lands (R452, R454, R455, Table 17.3) -/

/-- Levels of control lands. -/
inductive IoLevel where
  | cmos18 | tolerant33 | openDrain33 | hcsl | analogue | i3c10
  deriving DecidableEq, Repr

/-- Direction of a land. -/
inductive LandDir where
  | input | output | both
  deriving DecidableEq, Repr

/-- Internal pull of a land, in kΩ. -/
inductive Pull where
  | none | up10 | down50
  deriving DecidableEq, Repr

/-- A control land: name, row, column, direction, level, pull. -/
structure ControlLand where
  name : String
  row : Nat
  col : Nat
  dir : LandDir
  level : IoLevel
  pull : Pull
  deriving DecidableEq, Repr

/-- Highest low and lowest high input in mV; HCSL and analogue lands have none (R452). -/
def IoLevel.thresholds : IoLevel → Option (Nat × Nat)
  | .cmos18 => some (540, 1260)
  | .tolerant33 | .openDrain33 => some (800, 1200)
  | .hcsl | .analogue | .i3c10 => none

/-- What an input at a voltage in mV reads as, where its level says (R452). -/
def IoLevel.reads (l : IoLevel) (mv : Nat) : Option Bool :=
  match l.thresholds with
  | some (lo, hi) => if mv ≤ lo then some false else if hi ≤ mv then some true else none
  | none => none

/-- Pins, straps and reference clocks. -/
def pinLands : List ControlLand := [
  ⟨"EPO_N", 7, 1, .input, .cmos18, .up10⟩, ⟨"THERMTRIP_N", 7, 3, .output, .openDrain33, .none⟩,
  ⟨"PWRBRK_N", 7, 5, .input, .cmos18, .up10⟩, ⟨"PWROK", 7, 7, .input, .cmos18, .down50⟩,
  ⟨"PERST_N", 7, 9, .input, .tolerant33, .down50⟩, ⟨"PERST1_N", 7, 11, .input, .tolerant33, .down50⟩,
  ⟨"SLOT_ID[0]", 7, 13, .input, .cmos18, .down50⟩, ⟨"SLOT_ID[1]", 7, 15, .input, .cmos18, .down50⟩,
  ⟨"SLOT_ID[2]", 7, 17, .input, .cmos18, .down50⟩, ⟨"SLOT_ID[3]", 7, 19, .input, .cmos18, .down50⟩,
  ⟨"REF100_P", 8, 2, .input, .hcsl, .none⟩, ⟨"REF100_N", 8, 4, .input, .hcsl, .none⟩,
  ⟨"CXL_REFCLK_P", 8, 6, .input, .hcsl, .none⟩, ⟨"CXL_REFCLK_N", 8, 8, .input, .hcsl, .none⟩,
  ⟨"DVQ_PLAN[0]", 8, 10, .input, .cmos18, .down50⟩, ⟨"DVQ_PLAN[1]", 8, 12, .input, .cmos18, .down50⟩,
  ⟨"CXL_BIF", 8, 14, .input, .cmos18, .down50⟩, ⟨"TASTE_XCEL", 8, 16, .input, .cmos18, .down50⟩]

/-- Buses and sense lands. -/
def busLands : List ControlLand := [
  ⟨"MGMT_I3C_SCL", 9, 1, .both, .cmos18, .none⟩, ⟨"MGMT_I3C_SDA", 9, 3, .both, .cmos18, .none⟩,
  ⟨"SMB_CLK", 9, 5, .both, .openDrain33, .none⟩, ⟨"SMB_DAT", 9, 7, .both, .openDrain33, .none⟩,
  ⟨"CBL_I3C0_SCL", 9, 9, .both, .cmos18, .none⟩, ⟨"CBL_I3C0_SDA", 9, 11, .both, .cmos18, .none⟩,
  ⟨"CBL_I3C1_SCL", 9, 13, .both, .cmos18, .none⟩, ⟨"CBL_I3C1_SDA", 9, 15, .both, .cmos18, .none⟩,
  ⟨"CBL_I3C2_SCL", 9, 17, .both, .cmos18, .none⟩, ⟨"CBL_I3C2_SDA", 9, 19, .both, .cmos18, .none⟩,
  ⟨"VSNS_CORE_P", 10, 2, .output, .analogue, .none⟩, ⟨"VSNS_CORE_N", 10, 4, .output, .analogue, .none⟩,
  ⟨"VSNS_MEM_P", 10, 6, .output, .analogue, .none⟩, ⟨"VSNS_MEM_N", 10, 8, .output, .analogue, .none⟩,
  ⟨"VSNS_SER_P", 10, 10, .output, .analogue, .none⟩, ⟨"VSNS_SER_N", 10, 12, .output, .analogue, .none⟩,
  ⟨"VSNS_AUX_P", 10, 14, .output, .analogue, .none⟩, ⟨"VSNS_AUX_N", 10, 16, .output, .analogue, .none⟩]

/-- Row and column of the lands of a cellar SPD bus, `SCL` first. -/
def celBusLands (bus : Nat) : List (Nat × Nat) := [(11, 4 * bus + 1), (11, 4 * bus + 3)]

/-! ## Currents and load steps (R457, R458, Table 17.5) -/

/-- Of each rail in 0.1 A: sustained, for 2 ms, the largest load step. -/
def railCurrents : List (Nat × Nat × Nat) := [(14000, 17000, 7000), (5000, 5600, 2000), (1500, 1650, 400), (30, 30, 10)]

/-- Whether a change of a rail's current, in either direction, is a step that package and supply carry (R458). -/
def stepCarried (rail before after : Nat) : Bool :=
  match railCurrents[rail]? with
  | some (_, _, k) => decide (before ≤ after + k ∧ after ≤ before + k)
  | none => false

/-! ## Ratings (R459, Table 17.6) -/

/-- Absolute maximum of each rail in mV; the minimum of all is −300 mV. -/
def railMaxMv : List Nat := [2100, 1400, 1050, 3700]

/-- Whether a rail's voltage in mV lies within the ratings. -/
def railRated (rail : Nat) (mv : Int) : Bool :=
  match railMaxMv[rail]? with
  | some k => decide (-300 ≤ mv ∧ mv ≤ k)
  | none => false

/-! ## The cold plate (R461, Table 17.7) -/

/-- A cold plate: flow in 0.1 L/min, glycol in %, inlet and dew point in °C, clamp load in N, flatness in µm. -/
structure ColdPlate where
  flow : Nat
  glycol : Nat
  inlet : Int
  dewPoint : Int
  clamp : Nat
  flatness : Nat
  deriving DecidableEq, Repr

/-- Whether it meets Table 17.7. -/
def ColdPlate.ok (p : ColdPlate) : Bool :=
  decide (40 ≤ p.flow ∧ p.glycol ≤ 25 ∧ 15 ≤ p.inlet ∧ p.inlet ≤ 45 ∧ p.dewPoint + 3 ≤ p.inlet ∧ 1980 ≤ p.clamp ∧ p.clamp ≤ 2420 ∧ p.flatness ≤ 50)

end Sys2Proof.Machine
end

