-- ==== Sys2Proof/Tests/Slice0.lean ====
section
/-! SUPPORT. Tests of the model's own: an ill-formed term for each check of WellFormed, a few commands checked against the spec's words, and for every hypothesis of a statement a concrete state that meets it. -/

namespace Sys2Proof.Tests

open Sys2Proof.Machine

set_option Elab.async false

/-! ## Small states -/

/-- A block in `OPEN`. -/
def opened : State := { State.reset with life := { Life.reset with dev := .opened } }

/-- A ring pair of 64 entries, class 0, vector 3. -/
def aPair : Pair := newPair (pack 64 [(16, 0, 4, 1), (17, 0, 4, 6), (18, 0, 6, 3), (24, 0, 64, 0x10000), (32, 0, 64, 0x20000), (40, 0, 64, 0x30000)])

/-- `OPEN` with pair 0 armed. -/
def paired : State := { opened with regs := { Regs.reset with armed := true }, tmi := { Tmi.reset with pairs := [(0, aPair)] } }

/-- A command of opcode `op` on `target` with parameter fields, over the sideband. -/
def side (op target : Nat) (fs : List Field) : Cmd := ⟨.sideband, pack 64 ([(0, 0, 16, op), (3, 0, 8, target), (4, 0, 32, 77)] ++ fs), .ok [], .ok⟩

/-- The same over pair 0. -/
def onPair (op target : Nat) (fs : List Field) : Cmd := { side op target fs with src := .pair 0 }

def padTo (n : Nat) (b : Bytes) : Bytes := b ++ List.replicate (n - b.length) 0

/-- A cask image of one micro-operation and no queue (Table 4.4). -/
def tinyImage : Bytes := padTo 64 (pack 64 [(0, 0, 16, 2), (2, 0, 8, 1), (8, 0, 13, 1), (16, 0, 16, 1)]) ++ padTo 64 [0xF0#8]

/-- An entry of a section table (Table 5.2). -/
def tinySect (kind count off len : Nat) : Bytes := pack 32 [(0, 0, 16, kind), (2, 0, 16, 0xFFFF), (4, 0, 32, count), (8, 0, 64, off), (16, 0, 64, len)]

/-- A cuvée (Table 5.1): manifest, schedule, a shape, a candidate, 64 images. -/
def tinyCuvee : Bytes :=
  pack 64 [(0, 0, 32, 0x56435150), (4, 0, 16, 1), (6, 0, 7, 1), (8, 0, 64, 1728), (28, 0, 16, 5), (30, 0, 16, 0), (32, 0, 64, 64)]
  ++ padTo 192 (tinySect 9 1 256 96 ++ tinySect 2 1 384 24 ++ tinySect 5 1 448 32 ++ tinySect 6 1 512 48 ++ tinySect 1 64 576 1152)
  ++ padTo 128 (pack 64 [(0, 0, 8, 1), (1, 0, 2, 1), (2, 0, 8, 1), (3, 0, 8, 1), (4, 0, 32, 1), (8, 0, 21, 64), (12, 0, 4, 1), (12, 4, 4, 2)]
      ++ pack 32 [(8, 0, 48, 0x100000), (16, 0, 48, 0x200000), (24, 0, 48, 0x4000000)])
  ++ padTo 64 (schedBytes [⟨0, 256, 0⟩, ⟨1, 256, 0⟩])
  ++ padTo 64 (pack 32 [(0, 0, 4, 1), (1, 0, 8, 1), (2, 0, 16, 1), (4, 0, 32, 1)])
  ++ padTo 64 (pack 48 [(0, 0, 4, 1), (2, 0, 16, 8), (4, 0, 16, 4), (6, 0, 16, 8), (10, 0, 16, 1), (12, 0, 16, 1), (14, 0, 8, 1), (15, 0, 8, 1), (16, 0, 32, 1), (20, 0, 32, 1)])
  ++ ((List.range 64).flatMap fun i => pack 16 [(0, 0, 11, i % 32), (0, 11, 2, i / 32), (8, 0, 64, 1024)]) ++ tinyImage

/-- Unit 0 is backed, and the rim cache of die 0 holds the lines of `b` from address 0 on, dirty. -/
def withLines (s : State) (b : Bytes) : State :=
  { s with mem := { s.mem with
      map := [(0, newEntry 0 0 0 false)]
      rim := (List.range ((b.length + 63) / 64)).map fun i =>
        (i, ⟨some ⟨i, true, false, false, slice b (64 * i) 64⟩ :: List.replicate 15 none, 0⟩) } }

def aManifest : Manifest := ⟨1, 1, 1, 1, 1, 64, 1, 2, 0, 0, 0, 0, 0xFFFF, 0, [(0, 0, 0x4000000)], 0, 0x100000, 0x200000, 0x4000000⟩

/-- A running partition of one column with two active casks. -/
def aPart (col0 slot : Nat) : Partition where
  st := .running
  col0 := col0
  cols := 1
  slot := slot
  graph := 0
  seed := 0
  slots := [⟨.active, true, true, none⟩, ⟨.active, true, true, none⟩, Slot.fresh, ⟨.ready, true, true, none⟩]
  sched := [⟨0, 256, 0⟩, ⟨1, 256, 0⟩]
  step := 0
  rounds := 0
  roundInStep := 0
  heldClock := false
  lead := false
  stepEnds := []
  trapMask := 0
  trapHold := false
  cacheUnits := 0
  nar := [0, 0, 0]
  scaleClamp := 0
  missed := 0
  capture := none
  idled := none
  lastTrap := none
  lastGraph := none
  lastMem := none
  faulted := false
  counters := []
  share := []
  man := aManifest
  shapes := []
  cands := []
  preloads := []
  plans := []
  cur := none
  formed := none
  tilerDone := false
  stepn := 0
  afterDecode := true
  rebuild := false
  txn := none
  commit := none
  job := none
  caskJob := none
  pins := []

def aRun : Running := ⟨.sideband, 5, 0x0201, 0, 0⟩

/-- A load whose writing is under way. -/
def aJob : LoadJob := ⟨aRun, 0, 0, false, false, false, true, true, none, [], [], 0⟩

/-- `OPEN`, a partition being loaded and one that runs. -/
def parted : State := { opened with parts := [(0, { aPart 0 0 with st := .loading, job := some aJob }), (2, aPart 2 2)] }

/-- A section of cask images for slot 2. -/
def tinyCasks : Bytes := ((List.range 32).flatMap fun i => pack 16 [(0, 0, 11, i), (0, 11, 2, 2), (8, 0, 64, 512)]) ++ tinyImage

/-- The same with a cuvée at address 0. -/
def loadable : State := withLines parted tinyCuvee

/-- A cuvée of one column and two casks, written out from Tables 5.1 to 5.12, is read, and passes the checks both of a new load and
of a swap in place of partition 2; at columns that partition 2 owns a load fails; its geometry is that of partition 2, and another one differs. -/
theorem test_tiny_cuvee_passes :
    (match loadable.readCuvee 0 with
      | (.ok v, t) => (v.checks t none 10 10).isNone && (v.checks t (some 2) 2 2).isNone && (v.checks t none 2 10).isSome
          && !(geometryDiffers v (aPart 2 2)) && geometryDiffers v { aPart 2 2 with man := { aManifest with kvgeo := 7 } }
      | _ => false) = true := by decide +kernel

/-- The same with the section of images at address 0. -/
def caskable : State := withLines parted tinyCasks

/-- The section of 32 images is read, and passes Table 4.10 for slot 2 of partition 2. -/
theorem test_tiny_casks_pass :
    (match caskable.readBytes .firmware 0 640 with
      | (some b, t) => (match t.sectionImages (aPart 2 2) 2 640 b with | .inr _ => true | .inl _ => false)
      | (none, _) => false) = true := by decide +kernel

/-! ## The hypotheses of the statements are met: whole block, mailbox -/

/-- `OPEN` with pair 0 armed, corked. -/
def corked : State := { paired with life := { opened.life with dev := .corked } }

/-- Pair 0 with changes. -/
def pair0 (f : Pair → Pair) : State := { paired with tmi := { paired.tmi with pairs := [(0, f aPair)] } }

theorem witness_whole_block : opened.pending = [] ∧ ({ opened with life := { opened.life with aux := false } } : State).life.aux = false ∧ exec .managerHeartbeat opened = .next { opened with clk := { opened.clk with mgrHb := 1 } }
    ∧ (∃ t, step opened = .next t) ∧ memoriesWf opened ∧ opened.ident.owner = none ∧ opened.ident.cosign = false :=
  ⟨rfl, rfl, rfl, ⟨_, rfl⟩, rfl, rfl, rfl⟩

theorem witness_TmiCommandsAreCheckedInOrder :
    catalogue (side 0x9999 255 []).op = none
    ∧ (catalogue (side 0x0002 255 []).op).any (fun e => e.corked == false) = true ∧ corked.life.dev = .corked
    ∧ (catalogue (side 0x0001 255 []).op).any (fun e => e.corked) = true
    ∧ reservedZero (side 0x0001 255 [(60, 0, 8, 1)]).desc headerFields = false
    ∧ (side 0x0001 255 [(8, 0, 64, 63)]).buf % 64 ≠ 0
    ∧ paramsOk 0x0101 (side 0x0101 255 [(16, 0, 48, 1), (24, 0, 32, 1)]).desc opened = false
    ∧ targetOk .device .sideband (side 0x0001 3 []).target opened = false
    ∧ targetOk .part .sideband (side 0x0207 0 []).target parted = true ∧ targetBusy 0x0207 0 (.sideband, 77) parted = true
    ∧ reservedZero (side 0x0207 0 []).desc headerFields = true ∧ paramsOk 0x0207 (side 0x0207 0 []).desc parted = true
    ∧ tmiCheck (side 0x0001 255 []) opened = none
    ∧ Refused 0x0001 (side 0x0001 3 []) opened 3
    ∧ tmiServed .sideband State.reset = false ∧ (side 0x0002 255 []).op ≠ 0x0001 := by decide +kernel

theorem witness_EntryIsWrittenBeforeItsStatusWord : kget paired.tmi.pairs 0 = some aPair := by decide +kernel

theorem witness_DeviceAndRingCommandsComplete :
    Accepted 0x0001 (side 0x0001 255 []) opened
    ∧ (∃ c, c = onPair 0x0002 255 [(16, 0, 4, 1), (17, 0, 4, 6)] ∧ Accepted 0x0002 c paired ∧ kget paired.tmi.pairs (fld c.desc 16 0 4) = none)
    ∧ (∃ c s, c = onPair 0x0003 255 [(16, 0, 4, 1)] ∧ s = { paired with tmi := { paired.tmi with pairs := [(0, aPair), (1, aPair)] } }
        ∧ Accepted 0x0003 c s ∧ Accepted 0x0002 (onPair 0x0002 255 [(16, 0, 4, 1), (17, 0, 4, 6)]) s ∧ kget s.tmi.pairs (fld c.desc 16 0 4) = some aPair ∧ aPair.closing = false)
    ∧ Accepted 0x0004 (side 0x0004 255 [(16, 0, 32, 7)]) opened
    ∧ (∃ c, c = side 0x0005 255 [(16, 0, 8, 2), (17, 0, 1, 1), (20, 0, 32, 144)] ∧ Accepted 0x0005 c opened
        ∧ (opened.statsGroup (fld c.desc 16 0 8) (fld c.desc 18 0 3)).isSome ∧ c.wr = .ok) := by
  (repeat' apply And.intro) <;>
    first
    | decide +kernel
    | exact ⟨_, rfl, by decide +kernel⟩
    | exact ⟨_, _, rfl, rfl, by decide +kernel⟩

theorem witness_DoorbellAndMailboxRowsComplete :
    paired.life.dev = .opened ∧ paired.pairLive 0 = true ∧ kget paired.tmi.pairs 0 = some aPair ∧ (63#32).toNat % 4096 < 2 ^ aPair.log2n
    ∧ 2 ^ aPair.log2n ≤ (64#32).toNat % 4096
    ∧ opened.life.dev ≠ .off ∧ ¬ (1 = 0 ∧ opened.life.dev = .tasting) ∧ opened.pairLive 1 = false
    ∧ ({ opened with life := { opened.life with dev := .tasting } } : State).life.dev = .tasting
    ∧ (pair0 fun p => { p with tail := 1 }).mayFetch 0 = true
    ∧ (pair0 fun p => { p with tail := 1, chead := 1, fetched := [⟨(side 0x0001 255 []).desc, 0⟩] }).nextPair.any (fun e => e.1 == 0 && e.2.fetched.length == 1) = true
    ∧ tmiCheck ⟨.pair 0, (side 0x0001 255 []).desc, .ok [], .ok⟩ (pair0 fun p => p.started []) = none
    ∧ 1 < ({ aPair with cls := 2 } : Pair).effective ∧ ({ aPair with tail := 1 } : Pair).chead ≠ 1
    ∧ 0 < ({ aPair with unsignalled := 1 } : Pair).unsignalled
    ∧ (pair0 id).noticeRoom = true ∧ ({ (pair0 id).tmi with held := [⟨8, 0, []⟩] } : Tmi).held = ⟨8, 0, []⟩ :: [] := by decide +kernel

/-! ## Tiers of memory -/

/-- Unit 0 backed in the near tier, no line in the rim caches. -/
def backed : State := withLines opened []

theorem witness_UnitAndHostTierCommandsComplete :
    (∃ c, c = side 0x0101 255 [(24, 0, 32, 1)] ∧ Accepted 0x0101 c opened ∧ Accepted 0x0101 c backed ∧ c.units = [0] ∧ opened.mem.entry 0 = none
        ∧ opened.leavesWith [0] ≤ 6143 ∧ 1 ≤ opened.roomFrom (fld c.desc 28 0 2) ∧ (backed.mem.entry 0).isSome)
    ∧ (∃ c, c = side 0x0102 255 [(24, 0, 32, 1)] ∧ Accepted 0x0102 c backed ∧ Accepted 0x0102 c opened ∧ c.units = [0]
        ∧ (backed.mem.entry 0).any (fun e => e.pin == false) = true
        ∧ (({ backed.mem with map := [(0, { newEntry 0 0 0 false with pin := true })] } : Memory).entry 0).any (fun e => e.pin) = true)
    ∧ Accepted 0x0103 (side 0x0103 255 [(24, 0, 32, 1), (28, 0, 32, 8)]) opened
    ∧ (∃ c, c = side 0x0104 255 [(24, 0, 32, 1)] ∧ Accepted 0x0104 c backed ∧ c.units = [0] ∧ (backed.mem.entry 0).any (fun e => !e.dfail) = true
        ∧ (backed.pinnedUnits ++ [0]).dedup.length ≤ 12582912 ∧ backed.cannotMove 0 = false ∧ ((backed.pinUnits [0]).allNear [0]).isSome)
    ∧ Accepted 0x0105 (side 0x0105 255 [(24, 0, 32, 1)]) backed := by
  (repeat' apply And.intro) <;>
    first
    | decide +kernel
    | exact ⟨_, rfl, by decide +kernel⟩
    | exact ⟨_, _, rfl, rfl, by decide +kernel⟩

/-- `backed` with CXL and an extent of host memory registered. -/
def hosted : State := { backed with cxl := { backed.cxl with cxl := true, up0 := true }, mem := { backed.mem with extents := [(0x40000000, 0x40000000)] } }

theorem witness_host_tier_and_copy :
    (∃ c, c = side 0x0106 255 [(16, 0, 64, 0x80000000), (24, 0, 64, 0x40000000)] ∧ Accepted 0x0106 c hosted ∧ hosted.cxl.cxl = true
        ∧ hosted.extentOk (fld c.desc 16 0 64) (fld c.desc 24 0 64) = true)
    ∧ hosted.extentOk 1 0x40000000 = false ∧ Accepted 0x0106 (side 0x0106 255 [(16, 0, 64, 1), (24, 0, 64, 0x40000000)]) hosted
    ∧ (∃ c, c = side 0x0107 255 [(16, 0, 64, 0x40000000)] ∧ Accepted 0x0107 c hosted
        ∧ (extentAt hosted.mem.extents (fld c.desc 16 0 64) 0).any (fun e => (hosted.unitsIn e.1 e.2).isEmpty) = true ∧ hosted.mem.decants = [])
    ∧ (∃ c, c = side 0x0107 255 [(16, 0, 64, 0)] ∧ Accepted 0x0107 c hosted ∧ extentAt hosted.mem.extents (fld c.desc 16 0 64) 0 = none)
    ∧ (∃ c, c = { side 0x0108 255 [(32, 0, 31, 64)] with data := .ok (List.replicate 64 5) } ∧ Accepted 0x0108 c hosted ∧ fld c.desc 32 0 31 = 64 ∧ fld c.desc 36 0 1 = 0
        ∧ fld c.desc 24 0 48 = 0 ∧ (∀ u, u * 65536 < 0 + 64 → 0 / 65536 ≤ u → (hosted.mem.entry u).isSome)
        ∧ (hosted.writeBytes .firmware 0 (List.replicate 64 5)).1 = true)
    ∧ (∃ c, c = side 0x0108 255 [(32, 0, 31, 64), (36, 0, 1, 1)] ∧ Accepted 0x0108 c hosted ∧ fld c.desc 32 0 31 = 64 ∧ fld c.desc 36 0 1 = 1 ∧ fld c.desc 24 0 48 = 0
        ∧ (hosted.readBytes .firmware 0 64).1.isSome) := by
  have h : ∀ u, u * 65536 < 0 + 64 → 0 / 65536 ≤ u → (hosted.mem.entry u).isSome := by
    intro u hu _
    have : u = 0 := by omega
    subst this; decide +kernel
  exact ⟨⟨_, rfl, by decide +kernel, by decide +kernel, by decide +kernel⟩, by decide +kernel, by decide +kernel, ⟨_, rfl, by decide +kernel, by decide +kernel, by decide +kernel⟩,
    ⟨_, rfl, by decide +kernel, by decide +kernel⟩,
    ⟨_, rfl, by decide +kernel, by decide +kernel, by decide +kernel, by decide +kernel, h, by decide +kernel⟩,
    ⟨_, rfl, by decide +kernel, by decide +kernel, by decide +kernel, by decide +kernel, by decide +kernel⟩⟩

/-- A read of the first line of unit 0 by tile 64, and the flit with which it asks. -/
def aRead : Access := ⟨.tile 64 0 0 5 3, 0, 0, .read⟩

/-- `s` with flits waiting at the attach link by which tile `t` leaves on an exit side. -/
def waits (s : State) (t exit : Nat) (fs : List Flit) : State :=
  { s with links := kput s.links (attachKey t exit) { Link.reset with buf := fs.map fun f => ⟨f, false, 0, false⟩ } }

def aReadFlit : Flit := mkFlit 64 (exitTile 64 3) 3 0 0 0 0 5 true (List.replicate 9 0)

/-- Near marks that make the near tier demote, over four units. -/
def demotes : State := { backed with
  cfg := { backed.cfg with nearHigh := 16646144 }
  mem := { backed.mem with map := (List.range 4).map (fun u => (u, newEntry 0 u 0 false)), demNear := true, lastNear := some 2, cellarFrames := 65536 } }

theorem witness_RimTierAndTimerRowsComplete :
    opened.life.dev = .opened ∧ opened.pwr.stopped = false ∧ opened.life.aux = true ∧ (waits backed 64 3 [aReadFlit]).mayBegin aRead = true ∧ backed.mayBegin aRead = false
    ∧ backed.mayBegin ⟨.firmware, 0, 0, .read⟩ = true ∧ demotes.demoting 0 = true
    ∧ (demotes.marks.victim 0).any (fun u => u % 4 == 3 && decide (demotes.mem.engineLoad u < 32)) = true ∧ 0 < demotes.mem.freeFrames (0 + 1)
    ∧ ({ backed with mem := { backed.mem with decants := [⟨0, 1, 5, []⟩] } } : State).decantOf 0 = some ⟨0, 1, 5, []⟩ ∧ backed.mem.biWait = []
    ∧ (backed.mem.entry 0).any (fun e => decide (8388607 < (9000000 % 2 ^ 24 + 2 ^ 24 - e.touch) % 2 ^ 24)) = true
    ∧ opened.mem.freeFrames 1 < opened.cfg.celLow ∧ opened.mem.freeFrames 2 = 0 ∧ opened.cellarFullDue = true
    ∧ 0 < nearFrames ∧ opened.mem.unitOf 0 0 = none ∧ opened.mem.lineBad 0 0 0 = false := by decide +kernel

theorem witness_near_tier :
    0 < unitSpace ∧ opened.mem.tierWithRoom 0 = some 0 ∧ opened.mem.cacheOf 0 = none
    ∧ (∃ u, u = backed.lookUp 0 .clean .clean ∧ (u.mem.entry 0).any (fun e => e.tier == 0 && !e.busy && !u.mem.lineBad 0 e.frame 0) = true ∧ 0 < deviceRegion
        ∧ u.mem.mapBad 0 = false ∧ u.mem.tracked 0 = false ∧ u.mem.rimLine 0 = none ∧ (u.mem.rimAt 0).find 0 = none ∧ u.mem.order = [] ∧ u.mem.input = [] ∧ u.mem.ctl = []
        ∧ u.mem.cacheWait = [] ∧ u.mem.biWait = [] ∧ u.mem.decants = [])
    ∧ (backed.access aRead .clean false).rimOut = [(exitTile 64 3, exitPort 3, mkFlit (exitTile 64 3) 64 0 0 0 2 0 5 true (List.replicate 64 0))] := by
  (repeat' apply And.intro) <;>
    first
    | decide +kernel
    | exact ⟨_, rfl, by decide +kernel⟩
    | exact ⟨_, _, rfl, rfl, by decide +kernel⟩

/-! ## Loading, partitions, configuration -/

/-- The cuvée itself is read and checked in `test_tiny_cuvee_passes`, the section of images in `test_tiny_casks_pass`. -/
theorem witness_loading_commands :
    (∃ c, c = side 0x0201 1 [(24, 0, 6, 10), (25, 0, 6, 10)] ∧ Accepted 0x0201 c loadable ∧ fld c.desc 16 0 48 = 0 ∧ fld c.desc 25 0 6 = 10 ∧ fld c.desc 24 0 6 = 10)
    ∧ (∃ c, c = side 0x0202 2 [(26, 0, 1, 1)] ∧ Accepted 0x0202 c loadable ∧ (loadable.part c.target).any (fun p => !p.faulted) = true ∧ fld c.desc 26 0 1 = 1)
    ∧ (∃ c, c = side 0x0202 2 [] ∧ Accepted 0x0202 c loadable ∧ fld c.desc 26 0 1 = 0)
    ∧ (∃ c, c = side 0x0203 2 [] ∧ Accepted 0x0203 c loadable ∧ (loadable.part c.target).any (fun p => !p.faulted) = true)
    ∧ (loadable.part 0).any (fun p => p.job.any fun j => j.emptied && !j.unload && j.image == 0) = true ∧ loadable.life.dev = .opened
    ∧ (∃ c, c = side 0x0204 2 [(24, 0, 32, 640), (28, 0, 2, 2)] ∧ Accepted 0x0204 c caskable ∧ (caskable.part c.target).any (fun p => slotBusy (p.slotAt (fld c.desc 28 0 2)) == none) = true)
    ∧ (∃ c, c = side 0x0205 2 [(28, 0, 2, 2)] ∧ Accepted 0x0205 c caskable ∧ (caskable.part c.target).any (fun p => slotBusy (p.slotAt (fld c.desc 28 0 2)) == none) = true)
    ∧ (∃ c d, c = side 0x0204 2 [(24, 0, 32, 640)] ∧ d = side 0x0205 2 [] ∧ Accepted 0x0204 c caskable ∧ Accepted 0x0205 d caskable
        ∧ (caskable.part c.target).any (fun p => (slotBusy (p.slotAt (fld c.desc 28 0 2))).isSome) = true
        ∧ (caskable.part d.target).any (fun p => (slotBusy (p.slotAt (fld d.desc 28 0 2))).isSome) = true)
    ∧ (({ aPart 2 2 with caskJob := some ⟨aRun, 2, 0, [(0, (0, 1))]⟩ } : Partition).caskJob).any (fun j => j.slot == 2 && kget j.lines 0 == some (0, 1)) = true := by
  (repeat' apply And.intro) <;>
    first
    | decide +kernel
    | exact ⟨_, rfl, by decide +kernel⟩
    | exact ⟨_, _, rfl, rfl, by decide +kernel⟩

/-- One partition, changed. -/
def withPart (f : Partition → Partition) : State := { opened with parts := [(2, f (aPart 2 2))] }

/-- A partition whose every tile has reported its idling. -/
def halted : Partition → Partition := fun p => { p with st := .stopped, idled := some p.tiles }

theorem witness_partition_commands :
    Accepted 0x0206 (side 0x0206 2 []) parted ∧ (parted.part (side 0x0206 2 []).target).isSome
    ∧ Accepted 0x0207 (side 0x0207 2 []) (withPart halted) ∧ (halted (aPart 2 2)).faulted = false ∧ (halted (aPart 2 2)).st = .stopped ∧ (halted (aPart 2 2)).stopDone = true
    ∧ (withPart halted).linkFailed = false
    ∧ Accepted 0x0207 (side 0x0207 2 []) (withPart fun p => { p with faulted := true })
    ∧ Accepted 0x0207 (side 0x0207 2 []) (withPart id) ∧ (aPart 2 2).st ≠ .stopped
    ∧ Accepted 0x0209 (side 0x0209 2 []) parted
    ∧ Accepted 0x0208 (side 0x0208 2 [(18, 0, 11, 64), (24, 0, 32, 64)]) (withPart halted)
    ∧ Accepted 0x0208 (side 0x0208 2 [(18, 0, 11, 64), (24, 0, 32, 64)]) (withPart id)
    ∧ (halted (aPart 2 2)).trapHold = false ∧ (withPart halted).life.dev = .opened ∧ (withPart halted).pwr.stopped = false := by decide +kernel

/-- A transaction that sets the trap mask. -/
def aTxn : Txn := ⟨9, [(2, [1#8])], 1⟩

theorem witness_ConfigurationRowsComplete :
    Accepted 0x0301 (side 0x0301 2 []) (withPart id) ∧ (withPart id).txnOf 2 = none
    ∧ Accepted 0x0301 (side 0x0301 255 []) opened ∧ opened.txnOf 255 = none ∧ opened.cfg.autoVintage = false
    ∧ Accepted 0x0301 (side 0x0301 2 []) (withPart fun p => { p with txn := some aTxn })
    ∧ (∃ c, c = side 0x0302 2 [(16, 0, 16, 9), (18, 0, 16, 2), (20, 0, 8, 1), (24, 0, 8, 3)] ∧ Accepted 0x0302 c (withPart fun p => { p with txn := some aTxn })
        ∧ (withPart fun p => { p with txn := some aTxn }).txnOf c.target = some aTxn ∧ aTxn.txid = fld c.desc 16 0 16
        ∧ (withPart fun p => { p with txn := some aTxn }).commitOf c.target = none ∧ aTxn.count < 256
        ∧ keyScope (fld c.desc 18 0 16) = some (c.target == 255) ∧ valueOk (fld c.desc 18 0 16) (slice c.desc 24 (fld c.desc 20 0 8)) = true)
    ∧ (∃ c, c = side 0x0302 2 [(16, 0, 16, 8), (18, 0, 16, 2), (20, 0, 8, 1)] ∧ Accepted 0x0302 c (withPart fun p => { p with txn := some aTxn }) ∧ aTxn.txid ≠ fld c.desc 16 0 16)
    ∧ (∃ c, c = side 0x0305 2 [(16, 0, 16, 2)] ∧ Accepted 0x0305 c (withPart id) ∧ keyScope (fld c.desc 16 0 16) = some (c.target == 255) ∧ fld c.desc 20 0 32 = 0)
    ∧ (∃ c, c = side 0x0305 2 [(16, 0, 16, 0x10)] ∧ Accepted 0x0305 c (withPart id) ∧ keyScope (fld c.desc 16 0 16) ≠ some (c.target == 255))
    ∧ (∃ c, c = side 0x0304 2 [(16, 0, 16, 9)] ∧ Accepted 0x0304 c (withPart fun p => { p with txn := some aTxn }) ∧ aTxn.txid = fld c.desc 16 0 16)
    ∧ (∃ c s, c = side 0x0303 255 [(16, 0, 16, 9), (20, 0, 32, 100)] ∧ s = { opened with cfg := { opened.cfg with txn := some ⟨9, [(0x20, [1#8])], 1⟩ } } ∧ Accepted 0x0303 c s ∧ s.txnOf c.target = some ⟨9, [(0x20, [1#8])], 1⟩
        ∧ s.commitOf c.target = none ∧ s.commitCheck c.target ⟨9, [(0x20, [1#8])], 1⟩ = none ∧ (⟨9, [(0x20, [1#8])], 1⟩ : Txn).needsNothing = true)
    ∧ (∃ t s, t = (⟨9, [(4, le 4 8)], 1⟩ : Txn) ∧ s = (withPart fun p => { p with txn := some t }) ∧ Accepted 0x0303 (side 0x0303 2 [(16, 0, 16, 9), (20, 0, 32, 100)]) s
        ∧ s.commitOf 2 = none ∧ s.commitCheck 2 t = none ∧ t.needsNothing = false)
    ∧ (∃ t s, t = (⟨9, [(1, schedBytes [⟨3, 256, 0⟩, ⟨2, 256, 0⟩])], 1⟩ : Txn) ∧ s = (withPart fun p => { p with txn := some t })
        ∧ Accepted 0x0303 (side 0x0303 2 [(16, 0, 16, 9), (20, 0, 32, 100)]) s ∧ s.commitOf 2 = none ∧ (s.commitCheck 2 t).isSome)
    ∧ (withPart fun p => { p with txn := some aTxn }).commitOf 2 = none
    ∧ (∃ s, s = { opened with cfg := { opened.cfg with txn := some aTxn, commit := some ⟨aRun, 9, false, 0, [], 0⟩ } }
        ∧ Accepted 0x0303 (side 0x0303 255 [(16, 0, 16, 9), (20, 0, 32, 100)]) s ∧ s.txnOf 255 = some aTxn ∧ (s.commitOf 255).isSome)
    ∧ (2 : Nat) ≠ 255 ∧ ((withPart fun p => { p with commit := some ⟨aRun, 9, false, 0, [], 0⟩ }).part 2).any (fun p => p.commit.isSome) = true := by
  (repeat' apply And.intro) <;>
    first
    | decide +kernel
    | exact ⟨_, rfl, by decide +kernel⟩
    | exact ⟨_, _, rfl, rfl, by decide +kernel⟩

/-! ## The fold sequencer, reports and stops -/

/-- Tile 64 with flits that its router has delivered. -/
def handed (s : State) (fs : List Flit) : State := s.modTile 64 fun x => { x with eject := fs }

/-- A partition with a step formed, of a shape that one candidate tiles. -/
def tiling (f : Step → Step) : Partition := { aPart 2 2 with
  shapes := [⟨0, 8, 4, 8, 0, 1, 1, 1, 1, 1, 1⟩]
  cands := [⟨0, 0, 1, 1, 1, 0, 1, 8, 1, 8, 1, 8, 0, 0, 0, 0, 0, 0⟩]
  formed := some (f ⟨0, 0, true, 1, 1, [⟨0, 0, 1, 0, 1⟩], none⟩) }

theorem witness_FoldSequencerRowsComplete :
    ((withPart id).part 2).any (fun p => (withPart id).paces p && decide (p.step + 1 < p.sched.length) && (p.sched[p.step]?).isSome && p.clockRuns && !p.heldClock) = true
    ∧ ((withPart fun p => { p with step := 1 }).part 2).any (fun p => (withPart id).paces p && decide (p.sched.length ≤ p.step + 1)) = true
    ∧ (∃ f, f = scheduleFlit 64 1 false true ∧ ((handed (withPart id) [f]).tile 64).eject = [f] ∧ f.kind = 8 ∧ f.exit = 0)
    ∧ (withPart id).partOf 64 = some 2 ∧ ((withPart id).tile 64).idle = false ∧ (withPart id).pwr.stopped = false
    ∧ (((withPart id).modTile 64 fun x => { x with switchTo := some 1 }).tile 64).switchTo = some 1
    ∧ (∀ b ∈ [[⟨0, 0, 1, 0, 1⟩], ([] : List Placed)], ∃ p st, p = tiling (fun x => { x with batch := b }) ∧ st = (⟨0, 0, true, 1, 1, b, none⟩ : Machine.Step) ∧ p.formed = some st
        ∧ (p.shape st.stepk).isSome ∧ p.tilerDone = false
        ∧ (chooseCandidate st.b st.s p.man.heads ((p.cands.zipIdx.map fun e => (e.2, e.1)).filter fun e => e.2.stepk == st.stepk)).isSome) := by
  refine ⟨by decide +kernel, by decide +kernel, ⟨_, rfl, by decide +kernel⟩, by decide +kernel, by decide +kernel, rfl, by decide +kernel, ?_⟩
  intro b hb
  refine ⟨_, _, rfl, rfl, rfl, ?_⟩
  simp only [List.mem_cons, List.not_mem_nil, or_false] at hb
  rcases hb with rfl | rfl <;> decide +kernel

/-- A trap, a graph fault and a memory error of tiles of partition 2. -/
def someReports : List Report := [.trap 64 0 0 0 0 0 0 0, .memory 65 0 0 8 3 false]

theorem witness_StopAndReportRowsComplete :
    (∀ r ∈ someReports, (waits (withPart id) 64 1 (someReports.map Report.flit)).reported r = true)
    ∧ (waits (withPart id) 64 1 (someReports.map Report.flit)).reported (.memory 65 0 0 8 3 false) = true
    ∧ (waits opened 0 1 [Report.flit (.memory 0 0 0 8 3 false)]).reported (.memory 0 0 0 8 3 false) = true ∧ opened.partOf 0 = none ∧ (withPart id).partOf 65 = some 2
    ∧ ((withPart fun p => { p with idled := some [] }).part 2).any (fun p => p.idled == some [] && p.owns 64 && decide (0 + 1 < 32 * p.cols)) = true ∧ 64 ∉ ([] : List Nat)
    ∧ ((waits (withPart fun p => { p with idled := some [] }) 64 1 [reportFlit 64 0 1]).atRim 64 1 (isReport8 1)).isSome = true
    ∧ (∃ l, l = (List.range 31).map (fun i => 65 + i) ∧ 64 ∉ l ∧ 32 * (aPart 2 2).cols ≤ l.length + 1)
    ∧ (∃ s, s = waits (withPart fun p => { p with cur := some ⟨0, 0, true, 1, 0, [], none⟩ }) 64 1 [reportFlit 64 0 0]
        ∧ (s.part 2).any (fun p => p.cur.isSome && p.owns 64 && !p.stepEnds.contains 64) = true ∧ (s.atRim 64 1 (isReport8 0)).isSome = true ∧ s.atRim 64 1 (isReport8 1) = none)
    ∧ (opened.atRim 64 1 (isReport8 0)) = none ∧ opened.life.aux = true ∧ opened.life.waiting = false ∧ opened.pwr.stopped = false
    ∧ (((opened.tile 64).noteErrs [(0, 0, 64)] [⟨0, 8, none⟩, ⟨1, 8, some 5⟩]).badIn [(0, 0, 64)]) = []
    ∧ ((withPart fun p => { p with capture := some ⟨.trap 64 0 0 0 0 0 0 0, 0, 0⟩ }).part 2).any (fun p => p.capture == some ⟨.trap 64 0 0 0 0 0 0 0, 0, 0⟩) = true := by
  (repeat' apply And.intro) <;>
    first
    | decide +kernel
    | exact ⟨_, rfl, by decide +kernel⟩
    | exact ⟨_, _, rfl, rfl, by decide +kernel⟩


/-! ## Tiles -/

/-- An image: a micro-operation of each class (0 press, 1 `END`, 2 a reserved opcode, 3 vat, 4 drain, 5 shaper, 6 token, 7 move, 8 `STEP_END`); two queues of
four slots; an edge with four credits; a pair. -/
def anImage : Bytes :=
  padTo 64 (pack 64 [(0, 0, 16, 6), (2, 0, 8, 1), (8, 0, 13, 9), (12, 0, 7, 2), (13, 0, 7, 1), (14, 0, 6, 1), (15, 0, 4, 3), (16, 0, 16, 1), (20, 0, 16, 3),
    (22, 0, 16, 4), (24, 0, 16, 5), (32, 0, 21, 65536), (38, 0, 11, 4)])
  ++ padTo 128 (([0x01, 0xFF, 0x90, 0x20, 0x30, 0x40, 0x60, 0x70, 0xF0] : Bytes).flatMap fun o => o :: List.replicate 7 0)
  ++ padTo 64 (pack 16 [(0, 0, 20, 0), (4, 0, 16, 4), (8, 0, 11, 65)] ++ pack 16 [(0, 0, 20, 256), (4, 0, 16, 4), (8, 0, 11, 65)])
  ++ padTo 64 (pack 8 [(0, 0, 11, 66), (4, 0, 9, 4)])
  ++ padTo 64 (pack 8 [(0, 0, 6, 0), (1, 0, 6, 1)])

/-- A read ring and a write ring of two slots of one line. -/
def readRing : Bytes := pack 64 [(0, 2, 1, 1), (4, 0, 20, 4096), (4, 20, 4, 1), (12, 0, 32, 2), (40, 0, 32, 2)]
def writeRing : Bytes := pack 64 [(0, 0, 1, 1), (0, 2, 1, 1), (4, 0, 20, 8192), (4, 20, 4, 1), (12, 0, 32, 2), (40, 0, 32, 2)]

def aStream (d : Bytes) : Stream where
  active := d
  shadow := List.replicate 64 0
  issue := 0
  iwrap := false
  head := 0
  hwrap := false
  remain := 4
  slots := []
  outstanding := 0
  seq := 0
  waits := []
  ahead := []

def aCtx : CaskCtx where
  image := anImage
  uptr := 0
  issued := none
  queues := [(0, ⟨0, [(0, 1, 0)], none, 1⟩), (1, ⟨0, [(0, 1, 1)], none, 0⟩)]
  edges := [(0, ⟨2, 3⟩)]
  steered := []
  streams := [(0, aStream readRing), (1, aStream writeRing)]
  bank := []
  stepDone := false

/-- Partition 2 runs, and tile 64 runs cask 0. -/
def tiled (f : CaskCtx → CaskCtx) (g : Tile → Tile) : State :=
  { withPart id with tiles := [(64, g { Tile.reset with casks := [(0, f aCtx)] })] }

/-- The same with micro-operation `u` issued. -/
def doing (u : Nat) (g : Tile → Tile) : State := tiled (fun k => { k with issued := some u }) g

def aPress : PressOp := ⟨0, 0, 1, 0, 0, [[some 5]], false, none, 0⟩

/-- Eight outputs of 32 elements each at an address, and their scale words behind them. -/
def anOperand (a : Nat) : OpRef := ⟨0x00, a, a + 256, 8, 32, 0⟩

theorem witness_press : (doing 0 id).opRuns 64 0 0 0x00 0x1F = true ∧ (doing 0 id).image 64 0 = some anImage ∧ inVat anImage 3 = true ∧ inVat anImage 4 = false
    ∧ rangesInside anImage (pressRanges (anOperand 0) (anOperand 1024) 0 32) = true ∧ rangesInside anImage (pressRanges (anOperand 65536) (anOperand 0) 0 32) = false
    ∧ (((doing 0 id).tile 64).noteErrs (pressRanges (anOperand 0) (anOperand 1024) 0 32) [⟨0, 0, none⟩]).badIn (pressRanges (anOperand 0) (anOperand 1024) 0 32) = []
    ∧ ((doing 0 fun x => { x with pipe := [aPress] }).tile 64).pipe = [aPress] ∧ aPress.bad = false ∧ aPress.adderBad ((doing 0 id).tile 64) = false
    ∧ (((doing 0 id).tile 64).noteErrs (vatRanges [1]) []).badIn (vatRanges [1]) = []
    ∧ (doing 3 id).classRuns 64 0 0x20 0x2F = true ∧ (((doing 3 id).tile 64).cask 0).isSome
    ∧ (∀ m ∈ [0, 3], ((doing 3 id).tile 64).pressPending m = false ∧ inVat anImage m = true) := by decide +kernel

theorem witness_shaper : (doing 4 id).opRuns 64 0 4 0x30 0x3F = true
    ∧ (∀ src ∈ [DrainSrc.vat [(3, 31)], .codes 2 0 32 64], (doing 4 id).vatReady 64 src.accs = true ∧ (doing 4 id).drainInside 64 0 src = true
        ∧ (((doing 4 id).tile 64).noteErrs src.ranges []).badIn src.ranges = [])
    ∧ (∀ src ∈ [DrainSrc.vat [(4, 0)], .codes 2 65536 32 64], (doing 4 id).vatReady 64 src.accs = true ∧ (doing 4 id).drainInside 64 0 src = false)
    ∧ (doing 5 id).opRuns 64 0 5 0x40 0x5F = true ∧ (doing 5 id).vatReady 64 (ShaperDst.vat [(0, 0)]).accs = true ∧ (doing 5 id).vatInside 64 0 (ShaperDst.vat [(0, 0)]).accs = true
    ∧ 2 ≤ (((doing 5 fun x => { x with shaperIn := [(0, some 1), (1, none), (0, none)] }).tile 64).inputsOf 0).length
    ∧ inWindow anImage 0 (blockBytes 2 (((doing 4 id).tile 64).sfInputs 0 (DrainSrc.vat [(3, 31)])).1.length) = true ∧ inWindow anImage 65534 2 = true := by
  decide +kernel

theorem witness_VatSumsAreExactOrNar :
    (140737488355327 : Nat) < Int.natAbs 140737488355328 ∧ Int.natAbs 140737488355327 ≤ 140737488355327 ∧ (140737488355327 : Nat) < Int.natAbs (140737488355327 + 1)
    ∧ Int.natAbs (-140737488355327) ≤ 140737488355327
    ∧ (∀ k ≤ [(-1 : Int), 1].length, accOver (140737488355327 + ([(-1 : Int), 1].take k).sum) = false) ∧ (∀ a ∈ [(-1 : Int), 1], accOver a = false) := by decide

theorem witness_RoundingIsHalfToEven :
    (∃ g : Segment, g = ⟨1, 1, [1], [1], 255, 255, 0, 0⟩ ∧ g.narIn = false ∧ g.sum none 0 * (g.ma * g.mb : Nat) ≠ 0)
    ∧ 2 * (6 - shiftEven 6 (-2) * 4 : Int).natAbs = 2 ^ 2 ∧ (-(2 ^ 54) : Int) ≤ -(2 ^ 54) ∧ (55 : Nat) < 56 :=
  ⟨⟨_, rfl, by decide +kernel, by decide +kernel⟩, by decide, by decide, by decide⟩

theorem witness_RequantisedBlockIsWellFormed : (3 : Nat) < 4 ∧ (∀ v ∈ [none, some (2 ^ 47 : Int)], ∀ y, v = some y → y.natAbs ≤ 2 ^ 47) ∧ (-128 : Int) ≤ -128 ∧ (-128 : Int) ≤ 127 :=
  ⟨by decide, by simp, by decide, by decide⟩

theorem witness_IssueRowsComplete :
    (tiled id id).canIssue 64 ((tiled id id).tile 64).running = true ∧ aCtx.inputsReady [0, 1] [0] = true ∧ aCtx.inputsReady [] [] = true
    ∧ (∀ u ∈ [0, 1], opcodeOk (imgOp anImage u) = true) ∧ opcodeOk (imgOp anImage 2) = false
    ∧ (((tiled id id).tile 64).noteErrs [uopRange anImage 0 0] []).badIn [uopRange anImage 0 0] = []
    ∧ (doing 1 id).canIssue 64 0 = true ∧ imgOp anImage 1 = 0xFF ∧ (doing 8 id).canIssue 64 0 = true ∧ imgOp anImage 8 = 0xF0 := by decide +kernel

theorem witness_issued : ((tiled id id).tile 64).cask ((tiled id id).tile 64).running = some aCtx ∧ ((doing 8 id).tile 64).cask 0 = some { aCtx with issued := some 8 } := ⟨rfl, rfl⟩

/-- A token for queue 0 of cask 0, and credits that come back for its edge 0. -/
def aToken : Flit := mkFlit 65 64 0 0 0 6 0 9 true []
def aCredit (n : Nat) : Flit := mkFlit 66 64 0 0 0 7 0 0 true (le 1 n)

/-- A rotation over a ring of which tile 64 is a part, its blocks two lines long, in micro-operation 7. -/
def rotating (g : Ring) : State :=
  { doing 7 fun x => { x with rings := [(0, g)] } with parts := [(2, { aPart 2 2 with plans := [⟨0, 1, false, 64, [0, 1], 0, 128⟩] })] }

theorem witness_TokenRowsComplete :
    (doing 0 id).anyRuns 64 0 = true ∧ ((tiled id id).queueAt 64 0 0).any (fun x => x.1.seqs != [] && decide (0 < x.1.uncounted)) = true
    ∧ (((doing 0 id).tile 64).noteErrs [(0, 0, 64)] []).badIn [(0, 0, 64)] = [] ∧ (doing 6 id).canIssue 64 0 = true ∧ imgOp anImage 6 = 0x60 ∧ kget aCtx.edges 0 = some ⟨2, 3⟩
    ∧ ((tiled id id).queueAt 64 0 1).any (fun x => x.1.uncounted == 0) = true
    ∧ (rotating ⟨false, true, none⟩).planAt 64 0 = some ⟨0, 1, false, 64, [0, 1], 0, 128⟩ ∧ (rotating ⟨false, true, none⟩).classRuns 64 0 0x70 0x7F = true
    ∧ ((rotating ⟨false, true, none⟩).tile 64).ring 0 = ⟨false, true, none⟩ ∧ blockTokens 64 (imgQueue anImage 0) ≤ (rotating ⟨false, true, none⟩).edgeCredits 64 0 0
    ∧ inWindow anImage (Ring.addr ⟨false, true, none⟩ ((rotating ⟨false, true, none⟩).planBase 64 0 anImage) 64 false) 64 = true
    ∧ ((handed (tiled id id) [aToken]).tile 64).eject.contains aToken = true ∧ aToken.kind = 6 ∧ (Tile.reset.refused.contains aToken.token = false) ∧ (tiled id id).tokenFault 64 aToken = none
    ∧ (tiled id id).tokenFault 64 { aToken with src := 66 } = some 3
    ∧ (tiled (fun k => { k with queues := [(0, ⟨0, List.replicate 4 (0, 1, 0), none, 0⟩)] }) id).tokenFault 64 aToken = some 4
    ∧ ({ Tile.reset with refused := [aToken.token] } : Tile).refused.contains aToken.token = true
    ∧ (aCredit 2).kind = 7 ∧ 2 + fld (aCredit 2).payload 0 0 5 ≤ eeCredits (imgEdge anImage 0) ∧ eeCredits (imgEdge anImage 0) < 2 + fld (aCredit 3).payload 0 0 5
    ∧ ((tiled id id).readyPair 64 0).isSome = true
    ∧ (([0] : List Nat).find? fun e => decide (0 < (tiled id id).edgeCredits 64 0 e)) = some 0 ∧ (tiled id id).pwr.stopped = false := by decide +kernel

/-- The steering unit holds a token for edge 0. -/
theorem witness_SteeredToken : ((tiled (fun k => { k with steered := [(0, ⟨[], [0]⟩)] }) id).tile 64).cask 0 = some { aCtx with steered := [(0, ⟨[], [0]⟩)] }
    ∧ kget ([(0, ⟨[], [0]⟩)] : KMap Steered) 0 = some ⟨[], [0]⟩ := ⟨rfl, rfl⟩

theorem witness_TokenSendSpendsOneCredit : ((tiled id id).tile 64).cask 0 = some aCtx ∧ kget aCtx.edges 0 = some ⟨2, 3⟩ ∧ 0 < 2 := ⟨rfl, by decide +kernel⟩

/-- Tile 64 with micro-operation 7 issued and stream `e` changed. -/
def streaming (e : Nat) (g : Stream) : State := tiled (fun k => { k with issued := some 7, streams := [(e, g)] }) id

/-- The answer to the request of `SEQ` 5 of stream `e`. -/
def anAnswer (kind e : Nat) : Flit := mkFlit 0 64 0 0 0 kind e 5 true (List.replicate 64 0)

/-- A slot of a ring in use. -/
def inUse (issued : Nat) (landed : List Nat) : RingSlot := ⟨issued, landed, true, 0, [0]⟩

theorem witness_StreamRowsComplete :
    (tiled id id).streamAt 64 0 0 = some (aStream readRing) ∧ (tiled id id).engineServes 64 0 = true ∧ sdDirn readRing = 0 ∧ (tiled id id).mayRead 64 0 (aStream readRing) = true
    ∧ ((tiled id id).tile 64).engineReads 0 < 64 ∧ (tiled id id).mayRead 64 0 { aStream readRing with remain := 0 } = false ∧ (tiled id id).closedSlot 64 0 = false
    ∧ (tiled id id).streamAt 64 0 1 = some (aStream writeRing) ∧ sdDirn writeRing = 1
    ∧ (handed (tiled id id) [anAnswer 2 0]).delivered 64 (fun f => f.kind == 2 && f.qid == 64 * 0 + 0 && f.payload == payload64 []
        && ({ aStream readRing with waits := [(5, 0, 0)] } : Stream).awaits f.seq 0 0) = some (anAnswer 2 0)
    ∧ (streaming 0 (aStream readRing)).anyRuns 64 0 = true ∧ (inUse 1 [0]).landed.length = sdLines readRing
    ∧ (((tiled id id).tile 64).noteErrs [(0, ringAddr readRing 0, 64 * sdLines readRing)] []).badIn [(0, ringAddr readRing 0, 64 * sdLines readRing)] = []
    ∧ (aStream writeRing).full = false ∧ 0 < (aStream writeRing).remain ∧ (List.replicate 64 (0 : Byte)).length = 64 * sdLines writeRing
    ∧ (handed (tiled id id) [anAnswer 3 1]).delivered 64 (fun f => f.kind == 3 && f.qid == 64 * 0 + 1
        && ([(5, 0, 0)] : List (Nat × Nat × Nat)).any fun w => w.1 == f.seq && w.2.1 == 0) = some (anAnswer 3 1)
    ∧ (inUse 1 []).acks + 1 = sdLines writeRing ∧ (inUse 1 []).acks + 1 < 2
    ∧ (streaming 0 (aStream readRing)).classRuns 64 0 0x70 0x7F = true ∧ sdValid (aStream readRing).shadow = false := by decide +kernel

theorem witness_EngineHoldsAtMost64Reads : (streaming 0 { aStream readRing with outstanding := 64 }).streamAt 64 0 0 = some { aStream readRing with outstanding := 64 }
    ∧ ((streaming 0 { aStream readRing with outstanding := 64 }).tile 64).engineReads 0 ≤ 64 := by decide +kernel

/-- A request of the tally port, and the grant that answers it. -/
def aTally : TallyReq := ⟨0, 5, 1024, 0, 256⟩
def aGrant : Grant := ⟨0, 0, 0, 16⟩

theorem witness_TallyRowsComplete : (doing 7 id).classRuns 64 ((doing 7 id).tile 64).running 0x70 0x7F = true ∧ ((doing 7 id).tile 64).tallyReq = none
    ∧ ((tiled id fun x => { x with tallyReq := some aTally }).tile 64).tallyReq = some aTally
    ∧ ((waits (tiled id id) 64 1 [tallyFlit 64 aTally]).atRim 64 1 (fun f => f.kind == 4 && f.seq == 5 && f.payload == tallyPayload 1024 0 256)).isSome
    ∧ (handed (tiled id id) [grantFlit 64 0 5 aGrant]).delivered 64 (fun f => f.kind == 5 && f.seq == 5 && f.payload == payload64 aGrant.bytes) = some (grantFlit 64 0 5 aGrant)
    ∧ aTally.seq = 5 := by decide +kernel

theorem witness_TallyUnitServesByItsRecords :
    (∃ y : Tally, y = { State.reset.tally with recs := [(64, (255, ⟨0, 0, 0, 4⟩))], counters := [(7, ⟨8, 0, 16, 1⟩)] }
      ∧ kget y.recs (4096 * (7 / 1024) + 64) = some (255, ⟨0, 0, 0, 4⟩) ∧ (7 : Nat) ≠ 255 ∧ 7 ≠ (255 + 1) % 256
      ∧ kget y.counters 7 = some ⟨8, 0, 16, 1⟩ ∧ (0 : Nat) ≠ 255 ∧ 0 = (255 + 1) % 256 ∧ (2 : Nat) ≠ 1 ∧ (8 : Nat) < 16 ∧ 8 ≤ 16 - 8 ∧ 16 - 8 < 9)
    ∧ (16 : Nat) ≤ 16 := by
  refine ⟨⟨_, rfl, by decide +kernel, by decide, by decide, by decide +kernel, by decide, by decide, by decide, by decide, by decide, by decide⟩, by decide⟩

/-- The link that leaves tile 64 by its south port, and what has happened on it. -/
def southLink (f : Link → Link) : State := { opened with links := [(linkKey 64 1, f Link.reset)] }

def onWire : Sent := ⟨0, { aToken with dst := 65 }, true⟩

theorem witness_MeshRowsComplete :
    farEnd 64 1 = some (65, 0) ∧ ((southLink fun l => { l with resend := [onWire] }).link (linkKey 64 1)).blocked = false
    ∧ ((southLink fun l => { l with resend := [onWire] }).link (linkKey 64 1)).resend = [onWire] ∧ opened.pwr.stopped = false
    ∧ ((((tiled id id).inject 64 [{ aToken with dst := 65 }]).atFc 7).winner 64 1 7).isSome
    ∧ ((((tiled id id).inject 64 [aToken]).atFc 7).winner 64 4 7).isSome ∧ (opened.link (linkKey 64 1)).resend = []
    ∧ attaches 64 0 = true ∧ (winnerOf 7 ((State.atFc { opened with rimOut := [(64, 0, aToken)] } 7).rimHeads 64 0)).isSome
    ∧ arriveKey 65 0 false = linkKey 64 1 ∧ ((southLink fun l => { l with wire := [onWire] }).link (linkKey 64 1)).wire = [onWire]
    ∧ (∀ a ∈ [([] : KMap Nat), [(2, 0)]], (Link.wants { Link.reset with awaited := a } onWire) = true)
    ∧ (0, true) ∈ ((southLink fun l => { l with back := [(0, true)] }).link (sendKey 64 1 false)).back
    ∧ ((southLink fun l => { l with awaited := [(2, 0)], fails := [0, 0, 8, 0] }).link (sendKey 64 1 false)).asks 2 = some 0
    ∧ ((southLink fun l => { l with awaited := [(2, 0)], fails := [0, 0, 9, 0] }).link (sendKey 64 1 false)).asks 2 = some 0 := by decide +kernel

theorem witness_RouteNeverLeadsAway : (2047 : Nat) < 2048 ∧ aToken.dst < 2048 ∧ aToken.exit = 0 ∧ 2047 ≠ aToken.dst ∧ 64 = aToken.dst := by decide +kernel

/-! ## Registers -/

theorem witness_RegisterRowsComplete :
    (∃ s : State, s = { opened with regs := { Regs.reset with p0c := 0x1000, p0q := 0x2000, p0s := 0x3000 } } ∧ (13#32 : BitVec 32).getLsbD 0 = true ∧ s.regs.arm = false
        ∧ (s.regs.p0Write 13).toNat / 2 % 16 = 6 ∧ (s.regs.p0Write 25).toNat / 2 % 16 = 12 ∧ (s.regs.p0Write 11).toNat / 2 % 16 < 6 ∧ 12 < (s.regs.p0Write 27).toNat / 2 % 16)
    ∧ (∃ s : State, s = { paired with regs := { paired.regs with p0ctl := 13 } } ∧ s.regs.arm = true ∧ (12#32 : BitVec 32).getLsbD 0 = false ∧ kget s.tmi.pairs 0 = some aPair)
    ∧ (∃ s : State, s = { opened with regs := { Regs.reset with intEnable := 1, msixMasked := [] } } ∧ (1#32 : BitVec 32) &&& 0xF &&& ~~~ s.regs.intStatus &&& s.regs.intEnable ≠ 0
        ∧ (2#32 : BitVec 32) &&& 0xF &&& ~~~ s.regs.intStatus &&& s.regs.intEnable = 0 ∧ s.regs.msixMasked.contains (s.regs.intVec.toNat % 64) = false)
    ∧ (∃ s : State, s = { opened with regs := { Regs.reset with intStatus := 1, msixMasked := [] } } ∧ (1#32 : BitVec 32) &&& 0xF &&& s.regs.intStatus ≠ 0
        ∧ (2#32 : BitVec 32) &&& 0xF &&& s.regs.intStatus = 0 ∧ s.regs.msixMasked.contains (s.regs.intVec.toNat % 64) = false) := by
  (repeat' apply And.intro) <;> exact ⟨_, rfl, by decide +kernel⟩

/-- A serving ring of 64 entries. -/
def aRing : SRing := ⟨6, 3, true, 0x10000, 0x20000, 0, 0, false, []⟩

/-- Both serving rings 0. -/
def ringed : State := { opened with srv := { opened.srv with subs := [(0, { aRing with db := 1 })], outs := [(0, aRing)] } }

def aRecord (n : Nat) : Record := ⟨n, 0, 0, 1, 1, false, 0, 0, []⟩

theorem witness_doorbells_and_window :
    false = (ringed.ringPort 0 == 1) ∧ kget ringed.srv.subs 0 = some { aRing with db := 1 } ∧ kget ringed.srv.outs 0 = some aRing
    ∧ (63#32 : BitVec 32).toNat % 65536 < 2 ^ aRing.log2n ∧ 2 ^ aRing.log2n ≤ (64#32 : BitVec 32).toNat % 65536 ∧ kget ringed.srv.subs 1 = none ∧ kget ringed.srv.outs 1 = none
    ∧ (∃ s : State, s = { opened with regs := { Regs.reset with winRec := some (aRecord 4) } } ∧ s.regs.winRec = some (aRecord 4) ∧ (1#32 : BitVec 32).getLsbD 0 = true)
    ∧ (∃ s : State, s = { opened with regs := { Regs.reset with winBusy := some 4 }, evr := { opened.evr with ring := [aRecord 3, aRecord 5] } } ∧ s.regs.winBusy = some 4
        ∧ s.evr.firstFrom 4 = some (aRecord 5))
    ∧ opened.life.dev ≠ .off ∧ opened.regs.armed = false ∧ (0x104 : Nat) < 0x108 ∧ 0x104 % 4 = 0 :=
  ⟨by decide +kernel, by decide +kernel, by decide +kernel, by decide, by decide, by decide +kernel, by decide +kernel, ⟨_, rfl, rfl, by decide⟩,
    ⟨_, rfl, rfl, by decide +kernel⟩, by decide, rfl, by decide, by decide⟩

/-! ## Serving -/

/-- A serving descriptor: `OP`, `RIDX` and `TAG` 77; model slot 2, tenant 1. -/
def aDesc (op ridx plen : Nat) : Bytes :=
  pack 64 ([(0, 0, 8, op), (4, 0, 32, 77), (34, 0, 13, ridx)] ++ if op = 1 then [(2, 0, 6, 2), (3, 0, 8, 1), (16, 0, 21, plen), (20, 0, 21, 4)] else [])

def aReq (st : ReqState) : Req where
  st := st
  cls := 1
  part := 2
  slot := 2
  tkey := 1
  tent := 0
  c := 4
  dlact := false
  nodl := false
  dlmiss := false
  rdec := false
  aborts := 0
  solo := false
  hrecv := false
  canreq := false
  paureq := false
  resreq := false
  phost := false
  pages := []
  deadline := 0
  pchain := 0
  tag := 77
  tokbud := 0
  limit := 8
  pfxlen := 0
  oring := 0
  wait := 0
  pnode := 0
  pridx := 9
  next := 0
  tokens := [1, 2, 3, 4]
  tents := []
  sparam := []
  elig := 0
  missed := none
  doom := none
  swapPaused := false
  room := 0
  standing := 4

/-- Partition 2 with entries 0 and 1 in its share, the rings, a key for tenant 1, and entry 0 taken by `r`. -/
def serving (r : Req) : State :=
  { withPart (fun p => { p with share := [0, 1] }) with srv := { ringed.srv with keys := [(1, 5)], reqs := [(0, r)] } }

def plain : State := serving (aReq .decode)

theorem witness_DescriptorRowsComplete :
    plain.running = true ∧ plain.nextRing = some 0 ∧ (aDesc 1 0 4).length = 64 ∧ kget plain.srv.outs (sdcOring (aDesc 1 0 4)) = some aRing ∧ aRing.stopped = false
    ∧ (∃ s : State, s = { plain with srv := { plain.srv with outs := [] } } ∧ s.nextRing = some 0 ∧ kget s.srv.outs (sdcOring (aDesc 1 0 4)) = none)
    ∧ plain.canProcess 0 (aDesc 1 0 4) = true ∧ sdcOp (aDesc 1 0 4) = 1
    ∧ (match submitCheck (plain.popTaken 0 (aDesc 1 0 4)) (aDesc 1 0 4) with | .ok x => x.1 == 2 | .error _ => false) = true ∧ plain.canProcess 0 (aDesc 1 0 64) = true
    ∧ (match submitCheck (plain.popTaken 0 (aDesc 1 0 64)) (aDesc 1 0 64) with | .ok _ => false | .error e => e == 0x0014) = true
    ∧ plain.canProcess 0 (aDesc 2 0 0) = true ∧ sdcOp (aDesc 2 0 0) = 2 ∧ sdcOp (aDesc 3 0 0) = 3 ∧ sdcOp (aDesc 4 0 0) = 4
    ∧ kget (plain.popTaken 0 (aDesc 2 0 0)).srv.reqs (sdcRidx (aDesc 2 0 0)) = some (aReq .decode) ∧ (aReq .decode).tag = sdcTag (aDesc 2 0 0)
    ∧ reservedZero (aDesc 2 0 0) sdcFields = true ∧ reservedZero (aDesc 3 0 0) sdcFields = true ∧ reservedZero (aDesc 4 0 0) sdcFields = true
    ∧ (serving (aReq .handoff)).canProcess 0 (aDesc 2 0 0) = true ∧ (serving { aReq .paused with phost := true }).canProcess 0 (aDesc 4 0 0) = true
    ∧ plain.life.corking = none := by
  (repeat' apply And.intro) <;>
    first
    | decide +kernel
    | exact ⟨_, rfl, by decide +kernel⟩
    | exact ⟨_, _, rfl, rfl, by decide +kernel⟩

/-- Each check of R202 fails on a submission that passes those before it; the last one passes. -/
theorem witness_SubmissionChecksRunInOrder :
    submitOk (aDesc 1 0 0) = false ∧ submitOk (aDesc 1 0 4) = true
    ∧ opened.partOfSlot (fld (aDesc 1 0 4) 2 0 6) = none ∧ (plain.partOfSlot (fld (aDesc 1 0 4) 2 0 6)).any (fun x => x.1 == 2 && x.2.man.role != 2 && x.2.st != .loading && x.2.man.shard == 0) = true
    ∧ ((withPart fun p => { p with st := .loading }).partOfSlot 2).any (fun x => x.2.st == .loading) = true
    ∧ ((withPart fun p => { p with man := { p.man with shard := 1 } }).partOfSlot 2).any (fun x => x.2.man.shard != 0 && x.2.man.role != 2 && x.2.st != .loading) = true
    ∧ kget opened.srv.keys (fld (aDesc 1 0 4) 3 0 8) = none ∧ (kget plain.srv.keys (fld (aDesc 1 0 4) 3 0 8)).isSome
    ∧ aManifest.ctxMax < sdcPlen (aDesc 1 0 61) + sdcMaxnew (aDesc 1 0 61) ∧ sdcPlen (aDesc 1 0 60) + sdcMaxnew (aDesc 1 0 60) ≤ aManifest.ctxMax
    ∧ (∃ i ∈ [0, 1], kget plain.srv.reqs i = none) ∧ (∀ i ∈ [0], (kget plain.srv.reqs i).isSome) := by
  (repeat' apply And.intro) <;> first | decide +kernel | exact ⟨1, by decide, by decide +kernel⟩

theorem witness_RecordIsWrittenBeforeItsStatusWord : kget ringed.srv.outs 0 = some aRing ∧ aRing.stopped = false ∧ ringed.ringLinked 0 = true
    ∧ kget [(0, { aRing with stopped := true })] 0 = some { aRing with stopped := true } := by decide +kernel

/-- An entry handed off to node 5. -/
def aHandoff : Handoff where
  ridx := 0
  source := true
  node := 5
  triedAlt := false
  alt := false
  shipped := 0
  peerPages := []
  unacked := []
  busyWait := false
  shards := []
  committed := false

/-- A packet of node 5 under tag 3, its payload `b`. -/
def aPacket (ptype : Nat) (b : Bytes) : Packet := ⟨ptype, 1, 0, true, 0, 0, 5, 3, 0, 0x40000000, 0, b⟩

/-- Port 2 with packets in its ingress buffer. -/
def entering (s : State) (l : List Packet) : State :=
  { s with fab := { s.fab with ports := [(2, { Port.reset with st := .opened, ingress := l.map fun p => (p, false) })] } }

/-- Entry 0 is in `HANDOFF`, its message with tag 3 outstanding and answered; a change of fabric partition is under way. -/
def handing (f : Handoff → Handoff) : State :=
  entering
    { serving (aReq .handoff) with
      fab := { opened.fab with txs := [⟨3, .serving 0, 0x08, 1, 5, 0, 4, 0, none, []⟩], change := some (aRun, []) }
      srv := { (serving (aReq .handoff)).srv with handoffs := [f aHandoff] } }
    [aPacket 0x15 []]

def anOpen (npages : Nat) : HoOpen := ⟨0, 3, 0, 0, 2, 1, 1, 4, 8, 0, 77, 0, 0, false, false, [], npages, 0⟩

/-- A partition of role 0 serves as a receiver. -/
def receiving : State :=
  { withPart (fun p => { p with share := [0, 1], man := { aManifest with role := 0 } }) with srv := ringed.srv }

/-- Entry 0 is the receiver's of entry 9 of the same chip. -/
def received : Req := { aReq .handoff with hrecv := true }

theorem witness_HandoffRowsComplete :
    receiving.running = true ∧ receiving.seHere 0x08 0 3 = true ∧ (match openCheck (receiving.takeSe 0x08 0 3) (anOpen 1) with | .ok x => x.1 == 2 | .error _ => false) = true
    ∧ (match openCheck (receiving.takeSe 0x08 0 3) (anOpen 2) with | .error e => e == none | .ok _ => false) = true
    ∧ (entering receiving [aPacket 0x08 []]).seHere 0x08 5 3 = true ∧ receiving.seHere 0x08 5 3 = false
    ∧ (handing id).running = true ∧ (handing id).sourceOf 0 = some aHandoff ∧ (handing id).answerHere 0 5 = true
    ∧ (∃ h, h = { aHandoff with busyWait := true } ∧ (handing fun _ => h).sourceOf 0 = some h ∧ (handing fun _ => h).manOf (aReq .handoff) = some aManifest
        ∧ ((handing fun _ => h).sendOpen 0 (aManifest.anode != 0xFFFF && !h.alt)).1 = false)
    ∧ (entering plain [aPacket 0x07 []]).inIngress (aPacket 0x07 []) = true
    ∧ (∃ x s, x = (⟨3, .serving 0, 0x07, 1, 5, 0x40000000, 4, 0, none, []⟩ : FabTx) ∧ s = entering { opened with fab := { opened.fab with txs := [x] } } [aPacket 0x14 []]
        ∧ s.inIngress (aPacket 0x14 []) = true ∧ (s.leaveIngress (aPacket 0x14 [])).txOf 3 = some x ∧ x.node = (aPacket 0x14 []).src)
    ∧ (∃ u, u = (serving received).takeSe 0x08 0 3 ∧ kget u.srv.reqs 0 = some received ∧ (u.part received.part).isSome ∧ u.staleRequest (seRequest u 0 3 0 received.cls) = false
        ∧ received.pnode = 0 ∧ u.recvOf 0 9 = some (0, received))
    ∧ (handing fun h => { h with committed := true }).sourceOf 0 = some { aHandoff with committed := true } := by
  refine ⟨?_, ?_, ?_, ?_, ?_, ?_, ?_, ?_, ?_, ⟨_, rfl, ?_⟩, ?_, ⟨_, _, rfl, rfl, ?_⟩, ⟨_, rfl, ?_⟩, ?_⟩ <;> decide +kernel

/-- No message of the chip's own is stale, of whatever class. -/
theorem witness_own_message (c : Nat) : (serving received).staleRequest (seRequest (serving received) 0 3 0 c) = false := rfl

theorem witness_ServingCommandsComplete :
    (∃ c, c = side 0x0401 255 [(16, 0, 4, 15), (16, 4, 1, 1), (17, 0, 5, 6), (24, 0, 64, 0x10000), (32, 0, 64, 0x20000)] ∧ Accepted 0x0401 c opened ∧ sringOk c.desc opened = true ∧ fld c.desc 16 4 1 = 1)
    ∧ (∃ c, c = side 0x0401 255 [(16, 0, 4, 0), (17, 0, 5, 6), (24, 0, 64, 0x10000), (32, 0, 64, 0x20000)] ∧ Accepted 0x0401 c opened ∧ sringOk c.desc opened = true ∧ fld c.desc 16 4 1 ≠ 1
        ∧ Accepted 0x0401 c ringed ∧ sringOk c.desc ringed = false)
    ∧ (∃ c, c = side 0x0402 255 [(16, 4, 1, 1)] ∧ Accepted 0x0402 c ringed ∧ fld c.desc 16 4 1 = 1 ∧ kget ringed.srv.outs (fld c.desc 16 0 4) = some aRing
        ∧ (∀ e ∈ ringed.srv.reqs, e.2.oring ≠ fld c.desc 16 0 4))
    ∧ (∃ c, c = side 0x0402 255 [] ∧ Accepted 0x0402 c ringed ∧ fld c.desc 16 4 1 ≠ 1 ∧ (kget ringed.srv.subs (fld c.desc 16 0 4)).isSome)
    ∧ (∃ c, c = side 0x0403 255 [(16, 0, 13, 0), (20, 0, 32, 64)] ∧ Accepted 0x0403 c plain ∧ kget plain.srv.reqs (fld c.desc 16 0 13) = some (aReq .decode) ∧ Accepted 0x0403 c opened
        ∧ kget opened.srv.reqs (fld c.desc 16 0 13) = none)
    ∧ Accepted 0x0404 (side 0x0404 255 [(16, 0, 8, 1), (24, 0, 64, 9)]) plain ∧ Accepted 0x0404 (side 0x0404 255 [(16, 0, 8, 1), (17, 0, 1, 1)]) plain := by
  (repeat' apply And.intro) <;> first | decide +kernel | exact ⟨_, rfl, by decide +kernel⟩


/-! ## Fabric -/

/-- A transaction of entry 0 to node 5. -/
def aTx (ptype : Nat) : FabTx := ⟨3, .serving 0, ptype, 1, 5, 0, 4, 5, some (0, 100), []⟩

/-- `OPEN` with changes of the fabric. -/
def fabbed (f : Fabric → Fabric) : State := { opened with fab := f opened.fab }

def aBarrier : Barrier := ⟨2, 1, 0, 100, 7, [(1, 4)], 0⟩

/-- A partition record of generation 1: slots 0 to 15, boards 0 to 1, rack 0 of two. -/
def aRec : Bytes := pack 16 [(0, 0, 16, 1), (2, 4, 4, 15), (5, 0, 6, 1), (8, 0, 7, 2), (9, 0, 7, 2)]

/-- A chip at board 1, rack 0, in slot 0, in a fabric partition of generation 1, its ports `OPEN`. -/
def joined (f : Fabric → Fabric) : State := fabbed fun x => f { x with
  yz := some (1, 0)
  gen := 1
  block := aRec
  ports := (List.range 18).map fun k => (k, { Port.reset with st := .opened }) }

/-- A request packet of node 17, which lies in that partition. -/
def aRequest (ptype len addr : Nat) (last : Bool) : Packet := { aPacket ptype (List.replicate 64 0) with src := 17, gen := 1, len := len, addr := addr, last := last }

/-- A read that firmware asks of a node. -/
def aFetch (node : Nat) : FabReq := ⟨.firmware, 0x01, 1, node, 0, 1, []⟩

theorem witness_FabricRequestRowsComplete :
    (joined id).running = true ∧ (joined id).fabricAsked (aFetch 17) = true ∧ (∀ n ∈ [17, 1040], ∃ u, u = (joined id).takeFabric (aFetch n) ∧ u.userWaits (aFetch n).user = false
        ∧ u.fab.change = none ∧ n ≠ u.nodeId ∧ u.tagAvailable 1 = true ∧ u.inMyBlock n = (n == 17)
        ∧ (n = 17 → (u.hopTo n).any (fun h => (kget u.fab.holds h).isNone && u.openPorts h != []) = true))
    ∧ (∀ p ∈ [aRequest 1 3 3840 true, aRequest 2 1 0 false, aRequest 2 4 3840 true, aRequest 3 1 4 true, aRequest 4 1 8 true, aRequest 5 1 4 true, aRequest 6 1 8 true,
        aRequest 9 0 (9 + 1024 * 7) true, aRequest 10 0 (9 + 1024 * 7) true, aRequest 7 0 0 true],
        ∃ u, u = (entering (joined id) [p]).leaveIngress p ∧ (entering (joined id) [p]).inIngress p = true ∧ u.staleRequest p = false
          ∧ (entering (joined id) [{ p with gen := 2 }]).inIngress { p with gen := 2 } = true
          ∧ ((entering (joined id) [{ p with gen := 2 }]).leaveIngress { p with gen := 2 }).staleRequest { p with gen := 2 } = true ∧ (∀ q ∈ u.fab.writes, q.src ≠ p.src ∨ q.tag ≠ p.tag))
    ∧ (3840 % 4096 + 64 * (3 + 1) ≤ 4096) ∧ kget [(9, { aBarrier with n := 3 })] 9 = some { aBarrier with n := 3 } ∧ (9 + 1024 * 7) / 1024 % 65536 = aBarrier.round
    ∧ (∀ e ∈ aBarrier.list, e.1 ≠ 17) ∧ aBarrier.list.length + 1 < 3
    ∧ ([⟨17, 9, 7, true, 1, .barrier 9⟩] : List Arrival).find? (fun a => a.home == 17 && a.id == (9 + 1024 * 7) % 1024 && a.round == (9 + 1024 * 7) / 1024 % 65536)
      = some ⟨17, 9, 7, true, 1, .barrier 9⟩ := by
  refine ⟨by decide +kernel, by decide +kernel, ?_, ?_, by decide +kernel⟩
  · intro n hn
    refine ⟨_, rfl, ?_⟩
    simp only [List.mem_cons, List.not_mem_nil, or_false] at hn
    rcases hn with rfl | rfl <;> decide +kernel
  · intro p hp
    refine ⟨_, rfl, ?_⟩
    simp only [List.mem_cons, List.not_mem_nil, or_false] at hp
    rcases hp with rfl | rfl | rfl | rfl | rfl | rfl | rfl | rfl | rfl | rfl <;> decide +kernel

theorem witness_FabricAnswerRowsComplete :
    (∀ e ∈ [(0x11, 0x01), (0x12, 0x02), (0x13, 0x05), (0x15, 0x08), (0x16, 0x01)], answersType (aTx e.2).ptype e.1 = true
        ∧ (entering (fabbed fun f => { f with txs := [aTx e.2] }) [aPacket e.1 []]).inIngress (aPacket e.1 []) = true
        ∧ ((entering (fabbed fun f => { f with txs := [aTx e.2] }) [aPacket e.1 []]).leaveIngress (aPacket e.1 [])).txOf 3 = some (aTx e.2) ∧ (aTx e.2).node = (aPacket e.1 []).src
        ∧ (entering opened [aPacket e.1 []]).inIngress (aPacket e.1 []) = true ∧ ((entering opened [aPacket e.1 []]).leaveIngress (aPacket e.1 [])).txOf 3 = none)
    ∧ (aTx 1).at_.isSome ∧ kget [(5, ([] : List FabReq))] 5 = some [] ∧ (∀ x ∈ opened.fab.txs, x.hop ≠ 5)
    ∧ (fabbed fun f => { f with genHeld := [(0, aFetch 5)] }).fab.genHeld = [(0, aFetch 5)] ∧ (fabbed fun f => { f with genHeld := [(0, aFetch 5)] }).hopTo 5 = some 5
    ∧ [(⟨5, 9, 0, true, 1, .barrier 9⟩ : Arrival)].find? (fun a => a.home == 5 && a.id == 9 && a.acked) = some ⟨5, 9, 0, true, 1, .barrier 9⟩
    ∧ kget [(9, aBarrier)] 9 = some aBarrier ∧ aBarrier.list ≠ [] := by decide +kernel

/-- Port 2 in a state, with changes. -/
def porting (st : PortState) (f : Port → Port) : State := fabbed fun x => { x with ports := [(2, f { Port.reset with st := st })] }

/-- A packet sent under the number 6. -/
def onLink : OnLink := ⟨6, aPacket 0x14 [], false⟩

theorem witness_PortRowsComplete :
    ((porting .opened id).port 2).st = .opened ∧ 0 = ((porting .opened id).port 2).rxSeq ∧ ((porting .opened id).port 2).ahead = []
    ∧ (4 < ((porting .opened fun p => { p with rxSeq := 5 }).port 2).rxSeq) ∧ (∀ n ∈ Port.reset.shared, n ≤ 96) ∧ (∀ n ∈ Port.reset.reserved, n ≤ 8)
    ∧ (∃ e ∈ ((porting .opened fun q => { q with replay := [onLink] }).port 2).replay, e.seq = 6)
    ∧ (∀ e ∈ [onLink], 6 ≤ e.seq → (kget [(6, 7)] e.seq).getD 0 < 8) ∧ (6 ≤ onLink.seq ∧ 8 ≤ (kget [(6, 8)] onLink.seq).getD 0)
    ∧ ((porting .opened fun q => { q with resend := [onLink] }).port 2).resend = [onLink] ∧ (Port.reset.hasCredit onLink.pkt = true) ∧ Port.reset.replay.length < 256
    ∧ Port.reset.resend = [] ∧ Port.reset.egress = [] ∧ ({ Port.reset with owed := [(0, true)] } : Port).owed ≠ []
    ∧ ((porting .down id).port 2).st = .down ∧ ((porting .down id).port 2).hot = false ∧ ((porting .training id).port 2).st = .training ∧ (3 : Nat) ≠ 4
    ∧ ((porting .charter id).port 2).st = .charter ∧ ((porting .quarantined id).port 2).st = .quarantined := by decide +kernel

/-- Trailers with a right and with a wrong CRC-32, whatever their bytes are. -/
theorem witness_trailers (t : Trailer) (p : Packet) :
    ({ t with crc := t.check (some p) } : Trailer).crc = ({ t with crc := t.check (some p) } : Trailer).check (some p)
    ∧ ({ t with crc := t.check (some p) + 1 } : Trailer).crc ≠ ({ t with crc := t.check (some p) + 1 } : Trailer).check (some p) :=
  ⟨rfl, Nat.succ_ne_self _⟩

/-- A chip at board 1, rack 0, in slot 0. -/
def placed : State := fabbed fun f => { f with yz := some (1, 0) }

theorem witness_cables :
    ((porting .opened fun p => { p with module := some [] }).port 2).managed = true ∧ (10 : Int) ≤ 20 ∧ (20 : Int) < 21 ∧ (20 : Int) < 25 ∧ (25 : Int) ≤ 30
    ∧ ((porting .opened fun p => { p with module := some [] }).port 2).warm = false ∧ ((porting .opened fun p => { p with module := some [], warm := true }).port 2).warm = true
    ∧ ((porting .down fun p => { p with hot := true }).port 2).hot = true ∧ ((porting .opened fun p => { p with module := some [] }).port 2).module = some []
    ∧ (opened.port (6 * 2)).silent = false := by decide +kernel

theorem witness_fabric_commands :
    opened.fabricOff = false ∧ opened.life.straps.slotId < opened.nslot ∧ Accepted 0x0501 (side 0x0501 255 [(16, 0, 6, 1)]) opened ∧ opened.fab.yz = none
    ∧ Accepted 0x0501 (side 0x0501 255 [(16, 0, 6, 1)]) placed ∧ placed.fab.yz = some (fld (side 0x0501 255 [(16, 0, 6, 1)]).desc 16 0 6, fld (side 0x0501 255 [(16, 0, 6, 1)]).desc 17 0 6)
    ∧ Accepted 0x0501 (side 0x0501 255 [(16, 0, 6, 2)]) placed ∧ ((1, 0) : Nat × Nat) ≠ (fld (side 0x0501 255 [(16, 0, 6, 2)]).desc 16 0 6, fld (side 0x0501 255 [(16, 0, 6, 2)]).desc 17 0 6)
    ∧ (∃ c, c = side 0x0502 255 [(16, 0, 128, ofLe aRec)] ∧ Accepted 0x0502 c placed ∧ placed.fab.change = none ∧ placed.partRecordOk (slice c.desc 16 16) = true
        ∧ fld (slice c.desc 16 16) 0 0 16 ≠ placed.fab.gen
        ∧ (∃ s, s = (fabbed fun f => { f with yz := some (1, 0), gen := 1, block := aRec }) ∧ Accepted 0x0502 c s ∧ s.partRecordOk (slice c.desc 16 16) = true ∧ fld (slice c.desc 16 16) 0 0 16 = s.fab.gen))
    ∧ (fabbed fun f => { f with change := some (Running.mk (.pair 0) 1 0x0502 0 255, aRec) }).fab.change = some (Running.mk (.pair 0) 1 0x0502 0 255, aRec)
    ∧ (fabbed fun f => { f with change := some (Running.mk (.pair 0) 1 0x0502 0 255, aRec) }).fab.txs = []
    ∧ (∃ c, c = side 0x0503 255 [(16, 0, 10, 9), (20, 0, 17, 2), (24, 0, 2, 1), (28, 0, 32, 1000)] ∧ Accepted 0x0503 c placed ∧ placed.barrierBusy (fld c.desc 16 0 10) = false ∧ fld c.desc 17 7 1 = 0)
    ∧ (∃ c s, c = side 0x0503 255 [(16, 0, 10, 9), (17, 7, 1, 1)] ∧ s = (fabbed fun f => { f with yz := some (1, 0), barriers := [(9, { aBarrier with list := [] })] }) ∧ Accepted 0x0503 c s
        ∧ s.barrierBusy (fld c.desc 16 0 10) = false ∧ fld c.desc 17 7 1 = 1 ∧ (kget s.fab.barriers (fld c.desc 16 0 10)).isSome)
    ∧ Accepted 0x0504 (side 0x0504 255 [(16, 0, 5, 17), (20, 0, 32, 4096)]) opened
    ∧ (∃ c s, c = side 0x0505 255 [(16, 0, 5, 2)] ∧ s = porting .failed id ∧ Accepted 0x0505 c s ∧ (s.port (fld c.desc 16 0 5)).st = .failed ∧ (s.port (fld c.desc 16 0 5)).hot = false
        ∧ Accepted 0x0505 c opened ∧ (opened.port (fld c.desc 16 0 5)).st ≠ .failed) := by
  (repeat' apply And.intro) <;>
    first
    | decide +kernel
    | exact ⟨_, rfl, by decide +kernel⟩
    | exact ⟨_, _, rfl, rfl, by decide +kernel⟩
    | exact ⟨_, rfl, by decide +kernel, by decide +kernel, by decide +kernel, by decide +kernel, _, rfl, by decide +kernel⟩

theorem witness_BarrierCountsEachParticipantOnce :
    ∃ s p b, b = { aBarrier with n := 3 } ∧ s = (fabbed fun f => { f with yz := some (1, 0), gen := 1, block := aRec, barriers := [(9, b)] })
      ∧ p = aRequest 9 0 (9 + 1024 * 7) true ∧ s.staleRequest p = false ∧ kget s.fab.barriers (p.addr % 1024) = some b ∧ p.src ≠ s.nodeId
      ∧ p.addr / 1024 % 65536 = b.round ∧ (∀ e ∈ b.list, e.1 ≠ p.src) ∧ b.list.length + 1 ≠ b.n
      ∧ (∃ q : Packet, q = { p with addr := 9 + 1024 * 8 } ∧ s.staleRequest q = false ∧ q.addr / 1024 % 65536 ≠ b.round)
      ∧ (∃ q : Packet, q = { p with src := 1 } ∧ s.staleRequest q = false ∧ (∃ e ∈ b.list, e.1 = q.src)) :=
  ⟨_, _, _, rfl, rfl, rfl, by decide +kernel, by decide +kernel, by decide +kernel, by decide +kernel, by decide +kernel, by decide +kernel,
    ⟨_, rfl, by decide +kernel, by decide +kernel⟩, ⟨_, rfl, by decide +kernel, by decide +kernel⟩⟩

/-! ## Power, life, attachment -/

def aSample (mv tj : Nat) : Sample := ⟨[mv, 1200, 900, 3300], [100, 100, 100, 100], tj :: List.replicate 63 400, List.replicate 16 400⟩

def aDip : DipReport where
  rails := 1
  lowMv := 1700
  lowRail := 0
  durUs := 0
  merged := 1

/-- `OPEN` with changes of the power controller. -/
def powered (f : Power → Power) : State := { opened with pwr := f opened.pwr }

theorem witness_PowerThermalAndAgeingRowsComplete :
    Accepted 0x0601 (side 0x0601 255 [(20, 0, 32, 4096)]) opened ∧ Accepted 0x0602 (side 0x0602 255 []) opened
    ∧ (∃ c, c = side 0x0603 255 [(16, 0, 32, 0), (20, 0, 32, 4096)] ∧ Accepted 0x0603 c opened ∧ (opened.mtz.find (fld c.desc 16 0 32)).isSome)
    ∧ (∃ c, c = side 0x0603 255 [(16, 0, 32, 7), (20, 0, 32, 4096)] ∧ Accepted 0x0603 c opened ∧ opened.mtz.find (fld c.desc 16 0 32) = none)
    ∧ opened.pwrActive = true ∧ (aSample 2100 1000).rated = true ∧ opened.life.aux = true ∧ opened.life.waiting = false ∧ 1709 < warningMv 0
    ∧ opened.pwr.low.contains 0 = false ∧ opened.pwr.episode = none ∧ (powered fun p => { p with episode := some aDip }).pwr.low.contains 1 = false
    ∧ (powered fun p => { p with tj := 800 :: List.replicate 63 0 }).pwr.hot = true ∧ (powered fun p => { p with cThm := 1 }).pwr.cool = true ∧ 0 < (powered fun p => { p with cThm := 1 }).pwr.cThm
    ∧ opened.pwr.trip = false ∧ (39 : Nat) < 40 ∧ opened.pwr.stopped = false ∧ opened.mtz.late = false ∧ opened.pwr.dip = false ∧ opened.pwr.throttle = false ∧ opened.pwr.target = none
    ∧ (∃ s : State, s = { opened with mtz := { opened.mtz with planned := some Vintage.factory } } ∧ s.mtz.planned.isSome ∧ s.cfg.txn = none ∧ s.cfg.commit = none) := by
  (repeat' apply And.intro) <;>
    first
    | decide +kernel
    | exact ⟨_, rfl, by decide +kernel⟩
    | exact ⟨_, _, rfl, rfl, by decide +kernel⟩

theorem witness_OnlySamplesBeyondTheRatingsFault : (aSample 2101 400).rated = false ∧ (aSample 2100 1001).rated = false ∧ (aSample 2100 1000).rated = true := by decide +kernel

/-- A ceiling that rises under load, one that falls when idle, and one at its end. -/
theorem witness_PowerCeilingMovesOneStateAtATime :
    (∃ p m, p = { Power.reset with cPow := 3, cur := 3 } ∧ m = aSample 1800 400 ∧ p.cPow ≤ 4 ∧ p.cur ≤ 4 ∧ ((p.read m).settleCeiling m.power).cPow < p.cPow)
    ∧ (∃ p m, p = { Power.reset with cPow := 0, cur := 0 } ∧ m = { aSample 2000 400 with railDa := [20000, 20000, 20000, 20000] } ∧ p.cPow ≤ 4 ∧ p.cur ≤ 4 ∧ 3300 * 10000 * 100 < m.power * 102
        ∧ p.cPow < ((p.read m).settleCeiling m.power).cPow) := by
  refine ⟨⟨_, _, rfl, rfl, ?_⟩, ⟨_, _, rfl, rfl, ?_⟩⟩ <;> decide +kernel

/-- The machine with changes of its life. -/
def living (f : Life → Life) : State := { State.reset with life := f Life.reset }

theorem witness_PowerUpAndResetRowsComplete :
    (living fun l => { l with aux := false }).life.aux = false
    ∧ (∃ s, s = (living fun l => { l with aux := true, dev := .off, pwrok := false, perstN := true }) ∧ s.life.aux = true ∧ s.life.pwrok = false ∧ s.life.dev = .off ∧ s.pwr.stopped = false ∧ s.life.perstN = true)
    ∧ (∃ s, s = (living fun l => { l with aux := true, dev := .off, pwrok := true, perstN := false }) ∧ s.life.aux = true ∧ s.life.pwrok = true ∧ s.life.dev = .off ∧ s.pwr.stopped = false ∧ s.life.perstN = false)
    ∧ (∃ s, s = (living fun l => { l with aux := true, dev := .tasting, pwrok := true, perstN := false, waiting := true }) ∧ s.life.waiting = true ∧ s.life.supplyReset = false ∧ s.life.dev = .tasting)
    ∧ (∃ s, s = { opened with life := { opened.life with perstN := true } } ∧ s.life.aux = true ∧ s.life.dev ≠ .off ∧ s.life.supplyReset = false ∧ s.life.perstN = true)
    ∧ (powered fun p => { p with stopped := true }).pwr.stopped = true ∧ (2 : Nat) < 3
    ∧ (∃ s, s = { opened with life := { opened.life with supplyReset := true, pwrok := true, perstN := true } } ∧ s.life.aux = true ∧ s.life.supplyReset = true ∧ s.pwr.stopped = false) := by
  (repeat' apply And.intro) <;> first | decide +kernel | exact ⟨_, rfl, by decide +kernel⟩

theorem witness_TastingRowsComplete :
    (∀ n ∈ [2, 3, 4, 5, 6, 7, 8, 9], (living fun l => { l with aux := true, dev := .tasting, waiting := false, stage := n }).tastes = true)
    ∧ (living fun l => { l with corking := some (4, 1, 2) }).life.corking = some (4, 1, 2) ∧ opened.life.straps.xcel = false := by decide +kernel

/-- `OPEN` with a committed HDM decoder, the link of port 0 up. -/
def linked : State := { hosted with cxl := { hosted.cxl with hdm := some (0x100000000, 0x10000000, 0) } }

/-- Port 0 up, its CXL IDE stream keyed, in use and insecure, a session open. -/
def keyed : State :=
  let e : IdeStream := ⟨0, .cacheMem, 9, false, [(0, List.replicate 32 7)], some 0⟩
  { hosted with cxl := { hosted.cxl with ide := [e], insecure := [9] }, ident := { hosted.ident with sessions := 1, negotiated := [0] } }

theorem witness_LinkAndAttachmentRowsComplete :
    hosted.hostUp = true ∧ hosted.life.dev = .opened ∧ hosted.running = true
    ∧ (∃ s, s = { hosted with life := { hosted.life with dev := .corked } } ∧ s.hostUp = true ∧ s.life.dev ≠ .opened)
    ∧ (∃ s, s = { hosted with life := { hosted.life with straps := { hosted.life.straps with cxlBif := true }, perstN := true }, cxl := { hosted.cxl with up1 := true } }
        ∧ s.life.straps.cxlBif = true ∧ s.cxl.up1 = true ∧ s.linksTrain = true ∧ s.fullWidth ≤ 8)
    ∧ hosted.mem.lineAtHost 0x40000000 = none
    ∧ (∃ s, s = { hosted with mem := { hosted.mem with map := [(0, newEntry 2 0 0 false)], rim := [(0, ⟨some ⟨0, false, false, false, List.replicate 64 0⟩ :: List.replicate 15 none, 0⟩)] } }
        ∧ s.mem.lineAtHost 0x40000000 = some 0 ∧ (s.mem.rimLine 0).isSome ∧ s.mem.snoopWaits (0 / 64) = 0)
    ∧ hosted.cacheMemUp = true ∧ hosted.cxl.dropsCacheMem = false ∧ keyed.hostUp = true ∧ keyed.running = true ∧ keyed.cxl.dropsCacheMem = true
    ∧ hosted.cxl.flushed = false ∧ hosted.hdmOk 0x100000000 0x10000000 0 1 true = true ∧ hosted.hdmOk 0x100000000 0 0 1 true = false
    ∧ linked.cacheMemUp = true ∧ linked.cxl.window 0x10FFFFFFF = some 0xFFFFFFF ∧ hosted.cxl.insecure.contains 1 = false := by
  (repeat' apply And.intro) <;>
    first
    | decide +kernel
    | exact ⟨_, rfl, by decide +kernel⟩
    | exact ⟨_, _, rfl, rfl, by decide +kernel⟩

theorem witness_FunctionLevelResetKeepsAndClears : hosted.hostUp = true ∧ hosted.life.dev = .opened ∧ ∃ t, exec .functionLevelReset hosted = .next t :=
  ⟨by decide +kernel, rfl, ⟨_, rfl⟩⟩

theorem witness_SupplyLossKeepsOnlyFlashAndFuses : opened.life.aux = true := rfl

/-- An image of the spare bank is under way, and the spare bank fails its check. -/
theorem witness_FirmwareRowsComplete :
    (∃ c, c = { side 0x0604 255 [(16, 0, 24, 8192)] with data := .ok (List.replicate 8192 0) } ∧ Accepted 0x0604 c opened ∧ opened.life.writing = none ∧ c.data = .ok (List.replicate 8192 0)
        ∧ fld c.desc 16 0 24 = 8192)
    ∧ (living fun l => { l with writing := some (aRun, 1, []) }).life.writing = some (aRun, 1, [])
    ∧ (∃ c, c = side 0x0605 255 [(16, 0, 1, opened.life.bank)] ∧ Accepted 0x0605 c opened ∧ fld c.desc 16 0 1 = opened.life.bank)
    ∧ (∃ c s, c = side 0x0605 255 [(16, 0, 1, 1)] ∧ s = { opened with life := { opened.life with bank := 0, writing := none, sel := ⟨0, 0, false, 0, true, true, 0⟩ } } ∧ Accepted 0x0605 c s
        ∧ fld c.desc 16 0 1 ≠ s.life.bank ∧ s.life.sel.ok 1 = true)
    ∧ (∃ c s, c = side 0x0605 255 [(16, 0, 1, 1)] ∧ s = { opened with life := { opened.life with bank := 0, writing := none, sel := ⟨0, 0, false, 0, true, false, 0⟩ } } ∧ Accepted 0x0605 c s
        ∧ s.life.sel.ok 1 = false) :=
  ⟨⟨_, rfl, by decide +kernel, by decide +kernel, rfl, by decide +kernel⟩, by decide +kernel, ⟨_, rfl, by decide +kernel, by decide +kernel⟩,
    ⟨_, _, rfl, rfl, by decide +kernel⟩, ⟨_, _, rfl, rfl, by decide +kernel⟩⟩

/-- An authorisation of the right length. -/
def anAuth : Bytes := List.replicate 3445 0

theorem witness_RecorderRowsComplete :
    Accepted 0x0606 (side 0x0606 255 [(16, 0, 32, 1), (20, 0, 16, 2), (24, 0, 32, 128)]) opened
    ∧ Accepted 0x0607 (onPair 0x0607 255 [(16, 0, 1, 1)]) paired ∧ (onPair 0x0607 255 [(16, 0, 1, 1)]).src = .pair 0
    ∧ Accepted 0x0608 (side 0x0608 255 [(20, 0, 32, 32)]) opened ∧ (side 0x0608 255 [(20, 0, 32, 32)]).wr = .ok
    ∧ (∃ c, c = { side 0x0609 255 [(16, 0, 32, 3445)] with data := .ok anAuth } ∧ Accepted 0x0609 c opened ∧ c.data = .ok anAuth ∧ anAuth.length = 3445)
    ∧ opened.life.aux = true ∧ opened.evr.frozenTmi = false ∧ opened.evr.frozenSide = false :=
  ⟨by decide +kernel, by decide +kernel, rfl, by decide +kernel, rfl, ⟨_, rfl, by decide +kernel, rfl, by decide +kernel⟩, rfl, rfl, rfl⟩

/-- `OPEN` with a session. -/
def owning : State := { opened with ident := { opened.ident with sessions := 1, negotiated := [2] }, life := { opened.life with sel := ⟨0, 0, false, 0, false, false, 0⟩ } }

theorem witness_OwnershipRowsComplete : owning.life.dev = .opened ∧ 0 < owning.ident.sessions ∧ owning.ident.owner = none ∧ anAuth.length = 3445
    ∧ ({ owning with ident := { owning.ident with nonce := none } } : State).cosignSafe = true ∧ ([] : Bytes).length ≠ 3445 := by decide +kernel

theorem witness_SidebandRowsComplete :
    owning.transportUp 2 = true ∧ owning.vendorServed = true ∧ owning.ident.negotiated.contains 2 = true ∧ owning.ident.sessions < 4 ∧ 0 < owning.ident.sessions
    ∧ (∃ s : State, s = { opened with life := { opened.life with dev := .tasting } } ∧ s.transportUp 2 = true ∧ s.vendorServed = false ∧ s.life.dev ≠ .off)
    ∧ hosted.transportUp 0 = true ∧ (cdatEntry 0).isSome ∧ (∀ r ∈ opened.tmi.running, r.src ≠ .sideband) ∧ sidebandAccepts 0x0101 = false
    ∧ (keyed.transportUp 0 = true ∧ keyed.vendorServed = true ∧ 0 < keyed.ident.sessions ∧ (∃ e, keyed.cxl.ideStream 0 .cacheMem = some e ∧ e.kind = .cacheMem ∧ (kget e.keys 0).isSome = true))
    ∧ Accepted 0x0601 (side 0x0601 255 [(20, 0, 32, 4096)]) opened := by
  (repeat' apply And.intro) <;>
    first
    | decide +kernel
    | exact ⟨_, rfl, by decide +kernel⟩
    | exact ⟨_, _, rfl, rfl, by decide +kernel⟩

theorem witness_StagingTakesAGroupWholeOrDropsIt :
    (∃ u, u = opened.stageSkipped.stageLost ∧ [((1, false, []) : RecSpec)] ≠ [] ∧ u.evr.nextSeq < 2 ^ 32 ∧ u.evr.staging.length + 1 ≤ 512)
    ∧ (∃ s u : State, s = { opened with evr := { opened.evr with staging := List.replicate 512 (aRecord 1) } } ∧ u = s.stageSkipped.stageLost ∧ u.evr.nextSeq < 2 ^ 32 ∧ 512 < u.evr.staging.length + 1)
    ∧ (∃ s : State, s = { opened with evr := { opened.evr with dropped := 2 } } ∧ 0 < s.evr.dropped ∧ s.evr.skipped = none ∧ s.evr.staging.length < 512) := by
  refine ⟨⟨_, rfl, ?_⟩, ⟨_, _, rfl, rfl, ?_⟩, ⟨_, rfl, ?_⟩⟩ <;> decide +kernel

theorem witness_NonceEndsByItsFourEvents :
    Accepted 0x0608 (side 0x0608 255 [(20, 0, 32, 32)]) opened ∧ 0 < owning.ident.sessions ∧ hosted.hostUp = true
    ∧ (∃ s, s = { opened with life := { opened.life with perstN := true } } ∧ s.life.aux = true ∧ s.life.perstN = true ∧ s.life.dev ≠ .off ∧ s.pwr.stopped = false ∧ s.life.supplyReset = false)
    ∧ (living fun l => { l with aux := true, dev := .tasting, waiting := false }).tastes = true := by
  refine ⟨?_, ?_, ?_, ⟨_, rfl, ?_⟩, ?_⟩ <;> decide +kernel

theorem witness_OnlyListedCommandsReachMemory : ∃ t, exec .managerHeartbeat opened = .next t := ⟨_, rfl⟩

/-! ## Ill-formed commands are refused: one for each check of WellFormed -/

/-- None of these is well formed. -/
def illFormed (l : List Instr) : Bool := l.all fun i => !i.wf

theorem test_wf_descriptor : (Instr.devInfo (side 0x0001 255 [])).wf = true
    ∧ illFormed [.devInfo { side 0x0001 255 [] with desc := List.replicate 63 0 }, .devInfo { side 0x0001 255 [] with src := .pair 16 }] = true := by decide +kernel

theorem test_wf_targets_and_pairs : (Instr.cfgAutoAbort 255).wf = true
    ∧ illFormed [.cfgAutoAbort 8, .commandDoorbell 16 0, .sringDb false false 16 0, .registerWrite 0 9 0] = true := by decide +kernel

/-- The press: its micro-operation, micro-tile, output coordinates, the planes and the run of its operands. -/
theorem test_wf_press :
    let a := anOperand 0
    let b := anOperand 4096
    (Instr.pressOperation 64 0 0 0 0 0 0 a b 0 8 none []).wf = true
    ∧ illFormed [.pressOperation 64 0 4096 0 0 0 0 a b 0 8 none [], .pressOperation 64 4 0 0 0 0 0 a b 0 8 none [], .pressOperation 64 0 0 1024 0 0 0 a b 0 8 none [],
        .pressOperation 64 0 0 0 65536 0 0 a b 0 8 none [], .pressOperation 64 0 0 0 0 0 0 { a with word := 24 } b 0 8 none [],
        .pressOperation 64 0 0 0 0 0 0 { a with codes := 2 ^ 20 } b 0 8 none [], .pressOperation 64 0 0 0 0 0 0 a b 1 8 none [],
        .pressOperation 64 0 0 0 0 0 0 a b 0 0 none [], .pressOperation 64 0 0 0 0 0 0 a b 0 16 none [], .pressOperation 64 0 0 0 0 0 0 a b 0 8 none [⟨3, 0, none⟩]] = true := by decide +kernel

theorem test_wf_tiles : (Instr.uopIssue 2047 [] [] [⟨2, 0, some 255⟩]).wf = true
    ∧ illFormed [.uopIssue 2048 [] [] [], .uopIssue 64 [] [] [⟨2, 0, some 256⟩], .endList 64 4, .vatClear 64 0 [1024] 0, .tallyResendTimer 2048,
        .scaleFinderDrain 64 0 0 0 0 (.shaper 32) 4 false 0 0 0 none [], .scaleFinderDrain 64 0 0 0 0 (.vat [(0, 32)]) 0 false 0 0 0 none [],
        .scaleFinderDrain 64 0 0 0 0 (.shaper 32) 0 false (2 ^ 20) 0 0 none [], .conversionDrain 64 0 0 0 0 (.shaper 32) 31 0 none [],
        .conversionDrain 64 0 0 0 0 (.codes 4 0 32 64) 0 0 none [], .shaperFunction 64 0 0 0 0 .exp 0 31 .finder 0 none, .smx 64 0 0 0 0 8 31 0 .finder 0 none] = true := by decide +kernel

theorem test_wf_partitions_and_mesh :
    (Instr.flitReceive 64 0 false 0 (some ⟨8, true⟩)).wf = true ∧ (Instr.tokenArrival 64 aToken).wf = true
    ∧ illFormed [.foldStepTimer 8, .tileIdleReport 7 2048, .flitForward 64 5 false 0, .hopCreditReturn 64 1 4 false false, .flitReceive 64 5 false 0 none,
        .flitReceive 64 0 false 0 (some ⟨9, true⟩), .tokenArrival 64 { aToken with payload := [] }, .tokenArrival 64 { aToken with vc := 4 }, .tokenArrival 64 { aToken with exit := 5 },
        .tokenArrival 64 { aToken with dst := 2048 }, .tokenArrival 64 { aToken with vc := 1 }] = true := by decide +kernel

theorem test_wf_memory : (Instr.rimAccess ⟨.firmware, 0, 64, .atomic 60 4 1 false⟩ .clean .clean .clean false).wf = true
    ∧ illFormed [.rimAccess ⟨.firmware, 0, 1, .read⟩ .clean .clean .clean false, .rimAccess ⟨.firmware, 0, 2 ^ 48, .read⟩ .clean .clean .clean false,
        .rimAccess ⟨.firmware, 4, 0, .read⟩ .clean .clean .clean false, .rimAccess ⟨.firmware, 0, 64, .write 63 [0, 0]⟩ .clean .clean .clean false,
        .rimAccess ⟨.firmware, 0, 64, .atomic 2 4 1 false⟩ .clean .clean .clean false, .demotionSelect 4 0, .demotionSelect 0 2, .mapSweep (2 ^ 32)] = true := by decide +kernel

theorem test_wf_serving_and_fabric : (Instr.ack 17 (aPacket 0x14 [])).wf = true ∧ (Instr.rddata 17 { aPacket 0x10 (List.replicate 256 0) with pidx := 7 }).wf = true
    ∧ illFormed [.cancel 16 [], .hoOpen { anOpen 1 with slot := 64 }, .hoOpen { anOpen 1 with node := 65536 }, .hoReceiverSilence 8192, .hoAbort 65536 0 0 0,
        .rd (aPacket 0x01 (List.replicate 320 0)), .rd (aPacket 0x01 (List.replicate 63 0)), .rd { aPacket 0x01 [] with cls := 4 }, .rd { aPacket 0x01 [] with addr := 2 ^ 48 },
        .ack 18 (aPacket 0x14 []), .dvqPacketReceive 0 ⟨0, 0, [(4, false)], none, false, 0⟩ (aPacket 0x14 []), .idleWordReceive 0 ⟨0, 0, [], none, false, 2 ^ 32⟩,
        .fabricRequest ⟨.firmware, 1, 4, 0, 0, 1, []⟩, .trainingComplete 0 5 [] true, .charterReceive 0 [], .cableHotJoinOrLoss 0 (some []), .cableBusSilent 3, .fabricTimeout 65536,
        .barrierRoundLimit 1024, .portHoldEnd 17] = true := by decide +kernel

theorem test_wf_power_and_attachment : (Instr.powerSample (aSample 1800 400)).wf = true
    ∧ illFormed [.powerSample { aSample 1800 400 with tj := [400] }, .railResetLevel 4, .pwrokRise ⟨16, 0, false, false⟩, .pwrokRise ⟨15, 4, false, false⟩, .thermalComparator105 4 0,
        .metrizorSample [], .cxlLinkTrained 2 16 64 true true, .hostSnoop 1 0, .cxlMemRequest 0 (some []) false .clean, .hdmDecoderCommit 0 0 0 0 true, .ideIntegrityFailure 256,
        .doeRequest 2 .discovery, .ownClaim true [], .ownTransfer true [] []] = true := by decide +kernel

/-! ## A few values of the spec's words -/

/-- A reserved descriptor bit is STATUS 0x0001 of R318; the completion of an accepted command carries status 0. -/
theorem test_dev_info_answers : (match exec (.devInfo (side 0x0001 255 [])) opened with | .next t => decide (t.out.sideband.length = 1) | _ => false) = true
    ∧ (match exec (.devInfo (side 0x0001 255 [(60, 0, 8, 1)])) opened with | .next t => decide (t.out.sideband ≠ []) | _ => false) = true := by decide +kernel

/-- R12: die in [10:9], column in [8:5], row in [4:0]. -/
theorem test_tile_id : tileDie 0x65F = 3 ∧ tileCol 0x65F = 50 ∧ tileRow 0x65F = 31 := by decide

/-- R40: round half to even of 5/2, 7/2, -5/2 and 6/4. -/
theorem test_rounding : shiftEven 5 (-1) = 2 ∧ shiftEven 7 (-1) = 4 ∧ shiftEven (-5) (-1) = -2 ∧ shiftEven 6 (-2) = 2 ∧ shiftEven 3 4 = 48 := by decide

/-- R151: of 8 items left a tile that asks for 9 gets 8; the next asks in vain. -/
theorem test_tally : (match ({ State.reset.tally with counters := [(7, ⟨8, 0, 16, 1⟩)] } : Tally).request 64 0 7 1 9 with
    | (g, y) => g == ⟨1, 1, 8, 8⟩ && (y.request 65 0 7 1 1).1 == ⟨2, 1, 0xFFFFFFFF, 0⟩ && (y.request 64 0 7 1 9).1 == g) = true := by decide +kernel

/-- R449, R450: the grid has 11,776 lands, as many as the groups of Table 17.2 hold; each control land is one of them and none is named twice. -/
theorem test_land_grid :
    landGroups.sum = 11776 ∧ ((List.range 109).map fun r => ((List.range 217).filter fun c => landExists (r + 1) (c + 1)).length).sum = 11776
    ∧ ((pinLands ++ busLands).all fun l => landExists l.row l.col) = true ∧ ((pinLands ++ busLands).map fun l => (l.row, l.col)).Nodup := by decide +kernel

/-- R400: the direct registers, the vector table and the pending bits stand in one BAR; reserved space reads 0. -/
theorem test_bar0 : State.reset.readBar0 0 = State.reset.readReg 0 ∧ State.reset.readBar0 msixBase = State.reset.readMsix 0 0 ∧ State.reset.readBar0 0x1FF000 = 0 := by decide +kernel

end Sys2Proof.Tests
end

/-!
# The tile ID (R12)

The model's `tileDie`, `tileCol` and `tileRow` divide numbers; R12 speaks of fields of an 11-bit word. The two meet in `toNat_tileId`.
-/
namespace Sys2Proof.Machine

/-- An ID below 2048 loses nothing as an 11-bit word. -/
theorem toNat_tileId {t : Nat} (h : t < 2048) : (BitVec.ofNat 11 t).toNat = t := by
  rw [BitVec.toNat_ofNat, Nat.mod_eq_of_lt h]

/-- The package has four dies. -/
theorem tileDie_lt_four {t : Nat} (h : t < 2048) : tileDie t < 4 := Nat.div_lt_of_lt_mul h

/-- The array column starts at bit 5 of the ID and the die at bit 9, four bits further up. -/
theorem tileCol_div_sixteen (t : Nat) : tileCol t / 16 = tileDie t := Nat.div_div_eq_div_mul t 32 16

/-- The second term is the column within the die, bits [8:5] of the ID (R12). -/
theorem tileCol_eq_die_add_column (t : Nat) : tileCol t = 16 * tileDie t + t / 2 ^ 5 % 2 ^ 4 := by
  rw [← tileCol_div_sixteen]
  exact (Nat.div_add_mod (tileCol t) 16).symm

/-- Settles O57: the array column splits into the die and the column within it, and the latter is below 16. -/
theorem tileIdFieldsAreDieColumnRow : Obligations.TileIdFieldsAreDieColumnRow := by
  intro t h
  have column := tileCol_eq_die_add_column t
  have within : t / 2 ^ 5 % 2 ^ 4 < 16 := Nat.mod_lt _ (by decide)
  rw [toNat_tileId h]
  exact ⟨rfl, rfl, column, tileDie_lt_four h, by omega, by omega⟩

end Sys2Proof.Machine

/-!
# The rounding of the press (R40)

What `roundEven` gives follows from its remainder; the shift by more than 55 bits then follows from the error bound alone.
-/
namespace Sys2Proof.Machine

/-- Half to even over a positive denominator: the error is at most half of it, and on a tie the result is even (R40). -/
theorem roundEven_error (num : Int) {den : Nat} (pos : 0 < den) :
    2 * (num - roundEven num den * den).natAbs ≤ den
      ∧ (2 * (num - roundEven num den * den).natAbs = den → roundEven num den % 2 = 0) := by
  have low : 0 ≤ num % (den : Int) := Int.emod_nonneg _ (by omega)
  have high : num % (den : Int) < den := Int.emod_lt_of_pos _ (by omega)
  have down : num - num / den * den = num % den := by rw [Int.emod_def, mul_comm]
  have up : num - (num / den + 1) * den = num % den - den := by rw [add_mul, one_mul, ← sub_sub, down]
  dsimp only [roundEven]
  split_ifs with below above even
  · rw [down]; omega
  · rw [up]; omega
  · rw [down]; omega
  · rw [up]; omega

/-- A quotient of magnitude below one half rounds to 0: any other integer is at least half of the denominator away. -/
theorem roundEven_eq_zero {num : Int} {den : Nat} (small : 2 * num.natAbs < den) : roundEven num den = 0 := by
  have error := (roundEven_error num (by omega : 0 < den)).1
  by_contra nonzero
  have far : den ≤ (roundEven num den * den).natAbs := by
    rw [Int.natAbs_mul, Int.natAbs_natCast]
    exact Nat.le_mul_of_pos_left den (Int.natAbs_pos.2 nonzero)
  omega

theorem shiftEven_of_nonneg (v : Int) {d : Int} (left : 0 ≤ d) : shiftEven v d = v * 2 ^ d.toNat := if_pos left

theorem shiftEven_neg (v : Int) {n : Nat} (right : 0 < n) : shiftEven v (-n) = roundEven v (2 ^ n) := by
  rw [shiftEven, if_neg (by omega), neg_neg, Int.toNat_natCast]

@[simp] theorem disturbed_none (st : Stage) (i w : Nat) (v : Int) : disturbed none st i w v = v := rfl

/-- Steps 5 to 8 of an undisturbed segment of finite codes (R39, R42). -/
theorem Segment.run_finite {g : Segment} (x : Int) (lane : Nat) (finite : g.narIn = false) (nonzero : g.sum none lane * (g.ma * g.mb : Nat) ≠ 0) :
    (g.run x none lane).1 = some (shiftEven (g.sum none lane * (g.ma * g.mb : Nat)) (g.shift x none lane)) := by
  simp only [Segment.run, disturbed_none, finite, nonzero, Bool.false_eq_true, if_false]

/-- Settles O23: the aligned value is the shifted product, and both halves of R40 follow from the error of `roundEven`. -/
theorem roundingIsHalfToEven : Obligations.RoundingIsHalfToEven := by
  refine ⟨?aligned, fun P d left => shiftEven_of_nonneg P left, ?halfToEven, ?beyond55⟩
  case aligned =>
    rintro g x P finite rfl nonzero
    exact g.run_finite x 0 finite nonzero
  case halfToEven =>
    intro P n right
    rw [shiftEven_neg P right]
    exact_mod_cast roundEven_error P (Nat.two_pow_pos n)
  case beyond55 =>
    intro P n low high far
    rw [shiftEven_neg P (by omega)]
    have unit : 2 ^ 55 < 2 ^ n := Nat.pow_lt_pow_right (by decide) (by omega)
    exact roundEven_eq_zero (by omega)

end Sys2Proof.Machine

/-!
# Service of a tally request (R151)

`Counter.serve` is the pseudocode of R151 after the record has been consulted, `Tally.request` the whole of it; one equation for each way through them.
-/
namespace Sys2Proof.Machine

theorem Counter.serve_stale {k : Counter} {epoch : Nat} (count : Nat) (stale : epoch ≠ k.epoch) :
    k.serve epoch count = (⟨3, k.epoch, 0xFFFFFFFF, 0⟩, k) := if_pos stale

theorem Counter.serve_exhausted {k : Counter} (count : Nat) (exhausted : k.limit ≤ k.value) :
    k.serve k.epoch count = (⟨2, k.epoch, 0xFFFFFFFF, 0⟩, k) := by
  rw [serve, if_neg (not_not_intro rfl), if_pos exhausted]

theorem Counter.serve_full {k : Counter} {count : Nat} (left : k.value < k.limit) (enough : count ≤ k.limit - k.value) :
    k.serve k.epoch count = (⟨0, k.epoch, k.value, count⟩, { k with value := k.value + count }) := by
  simp only [serve, ne_eq, not_true_eq_false, if_false, if_neg left.not_ge, min_eq_left enough, if_true]

theorem Counter.serve_partial {k : Counter} {count : Nat} (left : k.value < k.limit) (short : k.limit - k.value < count) :
    k.serve k.epoch count = (⟨1, k.epoch, k.value, k.limit - k.value⟩, { k with value := k.limit }) := by
  simp only [serve, ne_eq, not_true_eq_false, if_false, if_neg left.not_ge, min_eq_right short.le, if_neg short.ne, Nat.add_sub_cancel' left.le]

/-- Service moves nothing of a counter but its value, which passes over exactly what the grant hands out. -/
theorem Counter.serve_counter (k : Counter) (epoch count : Nat) :
    (k.serve epoch count).2 = { k with value := k.value + (k.serve epoch count).1.got } := by
  unfold serve
  split_ifs <;> rfl

theorem Counter.value_add_got_le_limit {k : Counter} (epoch count : Nat) (below : k.value ≤ k.limit) :
    k.value + (k.serve epoch count).1.got ≤ k.limit := by
  unfold serve
  split_ifs with stale exhausted
  · exact below
  · exact below
  · have within : min count (k.limit - k.value) ≤ k.limit - k.value := min_le_right _ _
    dsimp only
    omega

theorem Tally.request_replay {y : Tally} {t c seq : Nat} {g : Grant} (epoch n : Nat) (record : kget y.recs (4096 * (c / 1024) + t) = some (seq, g)) :
    y.request t seq c epoch n = (g, y) := by
  simp only [request, record, if_true]

theorem Tally.request_late {y : Tally} {t c seq last : Nat} {g : Grant} (epoch n : Nat)
    (record : kget y.recs (4096 * (c / 1024) + t) = some (last, g)) (other : seq ≠ last) (late : seq ≠ (last + 1) % 256) :
    y.request t seq c epoch n = (⟨4, g.epoch, 0xFFFFFFFF, 0⟩, y) := by
  simp only [request, record, if_neg other, if_pos late]

/-- A request numbered next after its tile's record, or the first of the tile, is served by its counter and becomes the record. -/
theorem Tally.request_new {y : Tally} {t c seq : Nat} {k : Counter} (epoch n : Nat) (counter : kget y.counters c = some k)
    (new : ∀ last g, kget y.recs (4096 * (c / 1024) + t) = some (last, g) → seq ≠ last ∧ seq = (last + 1) % 256) :
    y.request t seq c epoch n = ((k.serve epoch n).1, { y with
      counters := kput y.counters c (k.serve epoch n).2
      recs := kput y.recs (4096 * (c / 1024) + t) (seq, (k.serve epoch n).1) }) := by
  cases record : kget y.recs (4096 * (c / 1024) + t) with
  | none => simp only [request, record, counter, Option.getD_some, Option.isSome_some, if_true]
  | some r =>
    obtain ⟨other, next⟩ := new r.1 r.2 record
    simp only [request, record, counter, if_neg other, if_neg (not_not_intro next), Option.getD_some, Option.isSome_some, if_true]

/-- Settles O31: the record decides between replay, late copy and service, and the counter's epoch and value what service grants. -/
theorem tallyUnitServesByItsRecords : Obligations.TallyUnitServesByItsRecords := by
  refine ⟨fun y t seq c epoch n last g record => ⟨?replay, Tally.request_late epoch n record⟩, ?service⟩
  case replay =>
    rintro rfl
    exact Tally.request_replay epoch n record
  case service =>
    intro y t seq c epoch n k counter new
    have after := k.serve_counter epoch n
    refine ⟨_, _, Tally.request_new epoch n counter new, by rw [after], by rw [after], by rw [after], ?stale, ?exhausted, ?full, ?short,
      by rw [after]; exact Counter.value_add_got_le_limit epoch n, by rw [after]; exact Nat.le_add_right _ _⟩
    case stale =>
      intro stale
      rw [Counter.serve_stale n stale]
      exact ⟨rfl, rfl⟩
    case exhausted =>
      rintro rfl exhausted
      rw [Counter.serve_exhausted n exhausted]
      exact ⟨rfl, rfl⟩
    case full =>
      rintro rfl left enough
      rw [Counter.serve_full left enough]
      exact ⟨rfl, rfl⟩
    case short =>
      rintro rfl left short
      rw [Counter.serve_partial left short]
      exact ⟨rfl, rfl⟩

end Sys2Proof.Machine

/-!
# What one command can touch

`exec_effect` says once, for every command, what the laws of Sys2Proof/Laws say of each: the queue stands, the title moves under the four ownership
commands alone, the memory under the commands that reach it, and its canonical form stays. The invariants below follow from it.
-/
namespace Sys2Proof

/-- The commands that change who owns the part (R425). -/
def Instr.changesOwner : Instr → Bool
  | .ownClaim .. | .ownTransfer .. | .ownRelease .. | .ownCosign .. => true
  | _ => false

/-- The commands whose meaning reaches a tier of memory, the unit map or a cache of either. -/
def Instr.reachesMemory : Instr → Bool
  | .statsRead .. | .memMap .. | .memUnmap .. | .memPin .. | .memUnpin .. | .hostTierAdd .. | .hostTierRemove .. | .dmaCopy .. | .cuveeLoad ..
  | .cuveeSwap .. | .caskLoad .. | .partReset .. | .partResume .. | .partInspect .. | .fabricPartSwitch .. | .cfgCommit .. | .cfgCommitDeadline ..
  | .cfgAbort .. | .streamRingPush .. | .shadowWrite .. | .tileIdleReport .. | .partitionRestart .. | .meshReplayRequest .. | .foldStepTimer ..
  | .streamIssue .. | .readDataArrival .. | .writeAckArrival .. | .caskImageLineWrite .. | .rimAccess .. | .demotionSelect .. | .decantComplete ..
  | .cellarFullRecord .. | .mapSweep .. | .patrolScrub .. | .submit .. | .hoAccept .. | .hoRefusal .. | .hoBusyRetryTimer .. | .kvship .. | .kvack ..
  | .hoCommit .. | .hoCommitComplete .. | .hoAbort .. | .hoReceiverSilence .. | .fabricRequest .. | .dvqPacketReceive .. | .idleWordReceive ..
  | .dvqReplayRequest .. | .rd .. | .wr .. | .add32 .. | .add64 .. | .fadd32 .. | .fadd64 .. | .barArrive .. | .barRelease .. | .rddata .. | .ack ..
  | .atdata .. | .sereply .. | .err .. | .fabricTimeout .. | .tagWithholdExpiry .. | .barrierKeepalive .. | .portHoldEnd .. | .lossOfSignal ..
  | .charterReceive .. | .charterVerdict .. | .cableTemperaturePoll .. | .retimerLockPoll .. | .railResetLevel .. | .supplyResetRecovery ..
  | .pwrokRise .. | .perstNRise .. | .perstNFall .. | .vinAuxLoss .. | .tastingStageComplete .. | .watchdogExpiry .. | .functionLevelReset ..
  | .cxlLinkDown .. | .cxlLinkTrained .. | .gpfPhase1 .. | .hostSnoop .. | .cxlMemRequest .. | .birsp .. | .cxlCacheResponse ..
  | .sidebandTmiCommand .. | .loadCompletion .. | .generationHoldExpiry .. => true
  | _ => false

end Sys2Proof

namespace Sys2Proof.Machine

/-- What `i` may have touched where it leads from `s` to `t`. -/
structure Effect (i : Instr) (s t : State) : Prop where
  pending : t.pending = s.pending
  title : bif i.changesOwner then True else t.ident.title = s.ident.title
  mem : bif i.reachesMemory then True else t.mem = s.mem
  memOk : MemOk s.mem → MemOk t.mem

section
variable {i : Instr} {s t : State}

theorem bif_true_of {b : Bool} {p : Prop} (h : p) : bif b then True else p := by
  cases b with
  | false => exact h
  | true => trivial

theorem Effect.of_title (h : t.pending = s.pending ∧ t.ident.title = s.ident.title ∧ t.mem = s.mem) : Effect i s t :=
  ⟨h.1, bif_true_of h.2.1, bif_true_of h.2.2, fun ok => h.2.2 ▸ ok⟩

theorem Effect.of_keeps (h : t.pending = s.pending ∧ t.ident = s.ident ∧ t.mem = s.mem) : Effect i s t :=
  .of_title ⟨h.1, congrArg Ident.title h.2.1, h.2.2⟩

theorem Effect.of_title_memOk (reaches : i.reachesMemory = true) (h : t.pending = s.pending ∧ t.ident.title = s.ident.title)
    (ok : MemOk s.mem → MemOk t.mem) : Effect i s t :=
  ⟨h.1, bif_true_of h.2, by rw [reaches]; trivial, ok⟩

theorem Effect.of_ident_memOk (reaches : i.reachesMemory = true) (h : t.pending = s.pending ∧ t.ident = s.ident)
    (ok : MemOk s.mem → MemOk t.mem) : Effect i s t :=
  .of_title_memOk reaches ⟨h.1, congrArg Ident.title h.2⟩ ok

theorem Effect.of_owner (owns : i.changesOwner = true) (h : t.pending = s.pending ∧ t.mem = s.mem) : Effect i s t :=
  ⟨h.1, by rw [owns]; trivial, bif_true_of h.2, fun ok => h.2 ▸ ok⟩

end

/-- A device-wide commit that carries no transaction of its own applies the planned vintage alone (R371). -/
theorem settleDevice_mem_of_no_txn (s : State) (now : Option Nat) (none : s.cfg.txn = none) : (s.settleDevice now).mem = s.mem := by
  rw [State.settleDevice, none]
  split_ifs with due
  · cases s.cfg.commit <;> simp
  · rfl

theorem execVintageAutoCommit_mem (s t : State) (h : execVintageAutoCommit s = .next t) : t.mem = s.mem := by
  unfold execVintageAutoCommit at h
  split_ifs at h with due
  · cases h
    exact settleDevice_mem_of_no_txn _ _ (Option.isNone_iff_eq_none.1 due.2.2.2.1)
  · cases h
    rfl

theorem exec_effect {i : Instr} {s t : State} (h : exec i s = .next t) : Effect i s t := by
  cases i with
  | devInfo c => exact .of_keeps (execDevInfo_keeps c s t h)
  | ringCreate c => exact .of_keeps (execRingCreate_keeps c s t h)
  | ringDestroy c => exact .of_keeps (execRingDestroy_keeps c s t h)
  | noticeMask c => exact .of_keeps (execNoticeMask_keeps c s t h)
  | statsRead c => exact .of_ident_memOk rfl (execStatsRead_keeps c s t h) fun ok => execStatsRead_memOk c s ok t h
  | memMap c => exact .of_ident_memOk rfl (execMemMap_keeps c s t h) fun ok => execMemMap_memOk c s ok t h
  | memUnmap c => exact .of_ident_memOk rfl (execMemUnmap_keeps c s t h) fun ok => execMemUnmap_memOk c s ok t h
  | memQuery c => exact .of_keeps (execMemQuery_keeps c s t h)
  | memPin c => exact .of_ident_memOk rfl (execMemPin_keeps c s t h) fun ok => execMemPin_memOk c s ok t h
  | memUnpin c => exact .of_ident_memOk rfl (execMemUnpin_keeps c s t h) fun ok => execMemUnpin_memOk c s ok t h
  | hostTierAdd c => exact .of_ident_memOk rfl (execHostTierAdd_keeps c s t h) fun ok => execHostTierAdd_memOk c s ok t h
  | hostTierRemove c => exact .of_ident_memOk rfl (execHostTierRemove_keeps c s t h) fun ok => execHostTierRemove_memOk c s ok t h
  | dmaCopy c => exact .of_ident_memOk rfl (execDmaCopy_keeps c s t h) fun ok => execDmaCopy_memOk c s ok t h
  | cuveeLoad c => exact .of_ident_memOk rfl (execCuveeLoad_keeps c s t h) fun ok => execCuveeLoad_memOk c s ok t h
  | cuveeSwap c => exact .of_ident_memOk rfl (execCuveeSwap_keeps c s t h) fun ok => execCuveeSwap_memOk c s ok t h
  | cuveeUnload c => exact .of_keeps (execCuveeUnload_keeps c s t h)
  | caskLoad c => exact .of_ident_memOk rfl (execCaskLoad_keeps c s t h) fun ok => execCaskLoad_memOk c s ok t h
  | caskEvict c => exact .of_keeps (execCaskEvict_keeps c s t h)
  | partReset c => exact .of_ident_memOk rfl (execPartReset_keeps c s t h) fun ok => execPartReset_memOk c s ok t h
  | partResume c => exact .of_ident_memOk rfl (execPartResume_keeps c s t h) fun ok => execPartResume_memOk c s ok t h
  | partInspect c => exact .of_ident_memOk rfl (execPartInspect_keeps c s t h) fun ok => execPartInspect_memOk c s ok t h
  | partQuery c => exact .of_keeps (execPartQuery_keeps c s t h)
  | sringCreate c => exact .of_keeps (execSringCreate_keeps c s t h)
  | sringDestroy c => exact .of_keeps (execSringDestroy_keeps c s t h)
  | reqQuery c => exact .of_keeps (execReqQuery_keeps c s t h)
  | tenantKeySet c => exact .of_keeps (execTenantKeySet_keeps c s t h)
  | fabricSet c => exact .of_keeps (execFabricSet_keeps c s t h)
  | fabricPartSet c => exact .of_keeps (execFabricPartSet_keeps c s t h)
  | fabricPartSwitch => exact .of_ident_memOk rfl (execFabricPartSwitch_keeps s t h) fun ok => execFabricPartSwitch_memOk s ok t h
  | barrierSet c => exact .of_keeps (execBarrierSet_keeps c s t h)
  | dvqPortQuery c => exact .of_keeps (execDvqPortQuery_keeps c s t h)
  | dvqPortReset c => exact .of_keeps (execDvqPortReset_keeps c s t h)
  | pwrQuery c => exact .of_keeps (execPwrQuery_keeps c s t h)
  | mtzPlan c => exact .of_keeps (execMtzPlan_keeps c s t h)
  | mtzQuery c => exact .of_keeps (execMtzQuery_keeps c s t h)
  | fwBankWrite c => exact .of_keeps (execFwBankWrite_keeps c s t h)
  | fwBankSelect c => exact .of_keeps (execFwBankSelect_keeps c s t h)
  | evrRead c => exact .of_keeps (execEvrRead_keeps c s t h)
  | evrFreeze c => exact .of_keeps (execEvrFreeze_keeps c s t h)
  | evrNonce c => exact .of_title (execEvrNonce_keeps c s t h)
  | evrClear c => exact .of_title (execEvrClear_keeps c s t h)
  | cfgBegin c => exact .of_keeps (execCfgBegin_keeps c s t h)
  | cfgSet c => exact .of_keeps (execCfgSet_keeps c s t h)
  | cfgCommit c => exact .of_ident_memOk rfl (execCfgCommit_keeps c s t h) fun ok => execCfgCommit_memOk c s ok t h
  | cfgCommitDeadline target => exact .of_ident_memOk rfl (execCfgCommitDeadline_keeps target s t h) fun ok => execCfgCommitDeadline_memOk target s ok t h
  | cfgAbort c => exact .of_ident_memOk rfl (execCfgAbort_keeps c s t h) fun ok => execCfgAbort_memOk c s ok t h
  | cfgRead c => exact .of_keeps (execCfgRead_keeps c s t h)
  | cfgAutoAbort target => exact .of_keeps (execCfgAutoAbort_keeps target s t h)
  | commandDoorbell pair value => exact .of_keeps (execCommandDoorbell_keeps pair value s t h)
  | completionDoorbell pair value => exact .of_keeps (execCompletionDoorbell_keeps pair value s t h)
  | commandFetch pair r => exact .of_keeps (execCommandFetch_keeps pair r s t h)
  | commandStart => exact .of_keeps (execCommandStart_keeps s t h)
  | classPromotion pair => exact .of_keeps (execClassPromotion_keeps pair s t h)
  | vectorCoalesceTimer pair => exact .of_keeps (execVectorCoalesceTimer_keeps pair s t h)
  | noticeHeldDeliver => exact .of_keeps (execNoticeHeldDeliver_keeps s t h)
  | p0Arm value => exact .of_keeps (execP0Arm_keeps value s t h)
  | p0Disarm value => exact .of_keeps (execP0Disarm_keeps value s t h)
  | ctlIntStatusWrite value hwSet => exact .of_keeps (execCtlIntStatusWrite_keeps value hwSet s t h)
  | ctlIntEnableWrite value => exact .of_keeps (execCtlIntEnableWrite_keeps value s t h)
  | sringDb port1 output ring value => exact .of_keeps (execSringDb_keeps port1 output ring value s t h)
  | evrWinSeqWrite value => exact .of_keeps (execEvrWinSeqWrite_keeps value s t h)
  | evrWinNext value => exact .of_keeps (execEvrWinNext_keeps value s t h)
  | evrWinFetchDone => exact .of_keeps (execEvrWinFetchDone_keeps s t h)
  | ctlTickLowRead => exact .of_keeps (execCtlTickLowRead_keeps s t h)
  | registerWrite offset width value => exact .of_keeps (execRegisterWrite_keeps offset width value s t h)
  | managerHeartbeat => exact .of_keeps (execManagerHeartbeat_keeps s t h)
  | firmwareHeartbeat => exact .of_keeps (execFirmwareHeartbeat_keeps s t h)
  | uopIssue tile pops sends errs => exact .of_keeps (execUopIssue_keeps tile pops sends errs s t h)
  | pressOperation tile cask uop microTile orow ocol ac a b k0 n upset errs => exact .of_keeps (execPressOperation_keeps tile cask uop microTile orow ocol ac a b k0 n upset errs s t h)
  | pressVatWrite tile ac errs => exact .of_keeps (execPressVatWrite_keeps tile ac errs s t h)
  | vatClear tile cask microTiles x => exact .of_keeps (execVatClear_keeps tile cask microTiles x s t h)
  | scaleFinderDrain tile cask uop orow ocol src fmt stochastic codeAddr scaleAddr ac upset errs => exact .of_keeps (execScaleFinderDrain_keeps tile cask uop orow ocol src fmt stochastic codeAddr scaleAddr ac upset errs s t h)
  | conversionDrain tile cask uop orow ocol src f ac upset errs => exact .of_keeps (execConversionDrain_keeps tile cask uop orow ocol src f ac upset errs s t h)
  | shaperFunction tile cask uop orow ocol fn f g dst ac upset => exact .of_keeps (execShaperFunction_keeps tile cask uop orow ocol fn f g dst ac upset s t h)
  | smx tile cask uop orow ocol n f g dst ac upset => exact .of_keeps (execSmx_keeps tile cask uop orow ocol n f g dst ac upset s t h)
  | queuePop tile cask queue errs => exact .of_keeps (execQueuePop_keeps tile cask queue errs s t h)
  | tokenSend tile cask edge data => exact .of_keeps (execTokenSend_keeps tile cask edge data s t h)
  | streamRingPush tile cask engine data => exact .of_ident_memOk rfl (execStreamRingPush_keeps tile cask engine data s t h) fun ok => execStreamRingPush_memOk tile cask engine data s ok t h
  | streamRingPop tile cask engine errs => exact .of_keeps (execStreamRingPop_keeps tile cask engine errs s t h)
  | shadowWrite tile cask engine desc sameFc => exact .of_ident_memOk rfl (execShadowWrite_keeps tile cask engine desc sameFc s t h) fun ok => execShadowWrite_memOk tile cask engine desc sameFc s ok t h
  | rotate tile cask plan queue edge errs => exact .of_keeps (execRotate_keeps tile cask plan queue edge errs s t h)
  | stepEnd tile cask => exact .of_keeps (execStepEnd_keeps tile cask s t h)
  | endList tile cask => exact .of_keeps (execEndList_keeps tile cask s t h)
  | tallyRequestIssue tile counter count => exact .of_keeps (execTallyRequestIssue_keeps tile counter count s t h)
  | tallyRequest tile seq counter epoch count => exact .of_keeps (execTallyRequest_keeps tile seq counter epoch count s t h)
  | tallyGrant tile seq grant => exact .of_keeps (execTallyGrant_keeps tile seq grant s t h)
  | tallyResendTimer tile => exact .of_keeps (execTallyResendTimer_keeps tile s t h)
  | trapMessage part reports => exact .of_keeps (execTrapMessage_keeps part reports s t h)
  | memoryErrorReport tile cask store addr syn scrub => exact .of_keeps (execMemoryErrorReport_keeps tile cask store addr syn scrub s t h)
  | graphFault part reports => exact .of_keeps (execGraphFault_keeps part reports s t h)
  | tileIdleReport part tile => exact .of_ident_memOk rfl (execTileIdleReport_keeps part tile s t h) fun ok => execTileIdleReport_memOk part tile s ok t h
  | stepEndReport part tile => exact .of_keeps (execStepEndReport_keeps part tile s t h)
  | partitionRestart part => exact .of_ident_memOk rfl (execPartitionRestart_keeps part s t h) fun ok => execPartitionRestart_memOk part s ok t h
  | flitReceive tile port rim fc err => exact .of_keeps (execFlitReceive_keeps tile port rim fc err s t h)
  | flitForward tile port rim fc => exact .of_keeps (execFlitForward_keeps tile port rim fc s t h)
  | hopCreditReturn tile port vc rim reserved => exact .of_keeps (execHopCreditReturn_keeps tile port vc rim reserved s t h)
  | meshReplayRequest tile port vc rim => exact .of_ident_memOk rfl (execMeshReplayRequest_keeps tile port vc rim s t h) fun ok => execMeshReplayRequest_memOk tile port vc rim s ok t h
  | tokenArrival tile flit => exact .of_keeps (execTokenArrival_keeps tile flit s t h)
  | e2eCreditReturn tile flit => exact .of_keeps (execE2eCreditReturn_keeps tile flit s t h)
  | creditReturnTimer tile cask queue => exact .of_keeps (execCreditReturnTimer_keeps tile cask queue s t h)
  | steeringPairing tile cask errs => exact .of_keeps (execSteeringPairing_keeps tile cask errs s t h)
  | steeredTokenSend tile cask pair => exact .of_keeps (execSteeredTokenSend_keeps tile cask pair s t h)
  | scheduleClock tile => exact .of_keeps (execScheduleClock_keeps tile s t h)
  | caskSwitch tile => exact .of_keeps (execCaskSwitch_keeps tile s t h)
  | foldStepTimer part => exact .of_ident_memOk rfl (execFoldStepTimer_keeps part s t h) fun ok => execFoldStepTimer_memOk part s ok t h
  | foldLead part => exact .of_keeps (execFoldLead_keeps part s t h)
  | tilerDone part => exact .of_keeps (execTilerDone_keeps part s t h)
  | streamIssue tile cask engine errs => exact .of_ident_memOk rfl (execStreamIssue_keeps tile cask engine errs s t h) fun ok => execStreamIssue_memOk tile cask engine errs s ok t h
  | readDataArrival tile cask engine slot line data => exact .of_ident_memOk rfl (execReadDataArrival_keeps tile cask engine slot line data s t h) fun ok => execReadDataArrival_memOk tile cask engine slot line data s ok t h
  | writeAckArrival tile cask engine slot => exact .of_ident_memOk rfl (execWriteAckArrival_keeps tile cask engine slot s t h) fun ok => execWriteAckArrival_memOk tile cask engine slot s ok t h
  | tileScrub tile errs => exact .of_keeps (execTileScrub_keeps tile errs s t h)
  | caskImageLineWrite part slot tileIndex line data found => exact .of_ident_memOk rfl (execCaskImageLineWrite_keeps part slot tileIndex line data found s t h) fun ok => execCaskImageLineWrite_memOk part slot tileIndex line data found s ok t h
  | rimAccess a found mapA mapB held => exact .of_ident_memOk rfl (execRimAccess_keeps a found mapA mapB held s t h) fun ok => execRimAccess_memOk a found mapA mapB held s ok t h
  | demotionSelect die tier => exact .of_ident_memOk rfl (execDemotionSelect_keeps die tier s t h) fun ok => execDemotionSelect_memOk die tier s ok t h
  | decantComplete unit line found => exact .of_ident_memOk rfl (execDecantComplete_keeps unit line found s t h) fun ok => execDecantComplete_memOk unit line found s ok t h
  | cellarFullRecord => exact .of_ident_memOk rfl (execCellarFullRecord_keeps s t h) fun ok => execCellarFullRecord_memOk s ok t h
  | ageTick => exact .of_keeps (execAgeTick_keeps s t h)
  | mapSweep unit => exact .of_ident_memOk rfl (execMapSweep_keeps unit s t h) fun ok => execMapSweep_memOk unit s ok t h
  | patrolScrub tier frame line found => exact .of_ident_memOk rfl (execPatrolScrub_keeps tier frame line found s t h) fun ok => execPatrolScrub_memOk tier frame line found s ok t h
  | submissionFetch ring r => exact .of_keeps (execSubmissionFetch_keeps ring r s t h)
  | submit ring desc prompt => exact .of_ident_memOk rfl (execSubmit_keeps ring desc prompt s t h) fun ok => execSubmit_memOk ring desc prompt s ok t h
  | cancel ring desc => exact .of_keeps (execCancel_keeps ring desc s t h)
  | pause ring desc => exact .of_keeps (execPause_keeps ring desc s t h)
  | resume ring desc => exact .of_keeps (execResume_keeps ring desc s t h)
  | servingHostAccessFail what => exact .of_keeps (execServingHostAccessFail_keeps what s t h)
  | hoOpen m => exact .of_keeps (execHoOpen_keeps m s t h)
  | hoAccept ridx peerRidx pages => exact .of_ident_memOk rfl (execHoAccept_keeps ridx peerRidx pages s t h) fun ok => execHoAccept_memOk ridx peerRidx pages s ok t h
  | hoRefusal ridx status busy => exact .of_ident_memOk rfl (execHoRefusal_keeps ridx status busy s t h) fun ok => execHoRefusal_memOk ridx status busy s ok t h
  | hoBusyRetryTimer ridx => exact .of_ident_memOk rfl (execHoBusyRetryTimer_keeps ridx s t h) fun ok => execHoBusyRetryTimer_memOk ridx s ok t h
  | kvship p => exact .of_ident_memOk rfl (execKvship_keeps p s t h) fun ok => execKvship_memOk p s ok t h
  | kvack port p => exact .of_ident_memOk rfl (execKvack_keeps port p s t h) fun ok => execKvack_memOk port p s ok t h
  | hoCommit node ridx tag gen budget => exact .of_ident_memOk rfl (execHoCommit_keeps node ridx tag gen budget s t h) fun ok => execHoCommit_memOk node ridx tag gen budget s ok t h
  | hoCommitComplete ridx ok => exact .of_ident_memOk rfl (execHoCommitComplete_keeps ridx ok s t h) fun canonical => execHoCommitComplete_memOk ridx ok s canonical t h
  | hoAbort node ridx tag gen => exact .of_ident_memOk rfl (execHoAbort_keeps node ridx tag gen s t h) fun ok => execHoAbort_memOk node ridx tag gen s ok t h
  | hoReceiverSilence ridx => exact .of_ident_memOk rfl (execHoReceiverSilence_keeps ridx s t h) fun ok => execHoReceiverSilence_memOk ridx s ok t h
  | fabricRequest r => exact .of_ident_memOk rfl (execFabricRequest_keeps r s t h) fun ok => execFabricRequest_memOk r s ok t h
  | dvqPacketReceive port trailer p => exact .of_ident_memOk rfl (execDvqPacketReceive_keeps port trailer p s t h) fun ok => execDvqPacketReceive_memOk port trailer p s ok t h
  | dvqReplayRequest port seq => exact .of_ident_memOk rfl (execDvqReplayRequest_keeps port seq s t h) fun ok => execDvqReplayRequest_memOk port seq s ok t h
  | rd p => exact .of_ident_memOk rfl (execRd_keeps p s t h) fun ok => execRd_memOk p s ok t h
  | wr p => exact .of_ident_memOk rfl (execWr_keeps p s t h) fun ok => execWr_memOk p s ok t h
  | add32 p => exact .of_ident_memOk rfl (execAdd32_keeps p s t h) fun ok => execAdd32_memOk p s ok t h
  | add64 p => exact .of_ident_memOk rfl (execAdd64_keeps p s t h) fun ok => execAdd64_memOk p s ok t h
  | fadd32 p => exact .of_ident_memOk rfl (execFadd32_keeps p s t h) fun ok => execFadd32_memOk p s ok t h
  | fadd64 p => exact .of_ident_memOk rfl (execFadd64_keeps p s t h) fun ok => execFadd64_memOk p s ok t h
  | barArrive p => exact .of_ident_memOk rfl (execBarArrive_keeps p s t h) fun ok => execBarArrive_memOk p s ok t h
  | barRelease p => exact .of_ident_memOk rfl (execBarRelease_keeps p s t h) fun ok => execBarRelease_memOk p s ok t h
  | rddata port p => exact .of_ident_memOk rfl (execRddata_keeps port p s t h) fun ok => execRddata_memOk port p s ok t h
  | ack port p => exact .of_ident_memOk rfl (execAck_keeps port p s t h) fun ok => execAck_memOk port p s ok t h
  | atdata port p => exact .of_ident_memOk rfl (execAtdata_keeps port p s t h) fun ok => execAtdata_memOk port p s ok t h
  | sereply port p => exact .of_ident_memOk rfl (execSereply_keeps port p s t h) fun ok => execSereply_memOk port p s ok t h
  | err port p => exact .of_ident_memOk rfl (execErr_keeps port p s t h) fun ok => execErr_memOk port p s ok t h
  | fabricTimeout tag => exact .of_ident_memOk rfl (execFabricTimeout_keeps tag s t h) fun ok => execFabricTimeout_memOk tag s ok t h
  | tagWithholdExpiry tag => exact .of_ident_memOk rfl (execTagWithholdExpiry_keeps tag s t h) fun ok => execTagWithholdExpiry_memOk tag s ok t h
  | barrierKeepalive home id answer => exact .of_ident_memOk rfl (execBarrierKeepalive_keeps home id answer s t h) fun ok => execBarrierKeepalive_memOk home id answer s ok t h
  | barrierRoundLimit id => exact .of_keeps (execBarrierRoundLimit_keeps id s t h)
  | portHoldEnd hop => exact .of_ident_memOk rfl (execPortHoldEnd_keeps hop s t h) fun ok => execPortHoldEnd_memOk hop s ok t h
  | lossOfSignal port => exact .of_ident_memOk rfl (execLossOfSignal_keeps port s t h) fun ok => execLossOfSignal_memOk port s ok t h
  | trainingRetryTimer port => exact .of_keeps (execTrainingRetryTimer_keeps port s t h)
  | trainingNoSignal port => exact .of_keeps (execTrainingNoSignal_keeps port s t h)
  | trainingTimeout port => exact .of_keeps (execTrainingTimeout_keeps port s t h)
  | trainingComplete port lanes equal adapted => exact .of_keeps (execTrainingComplete_keeps port lanes equal adapted s t h)
  | charterReceive port charter => exact .of_ident_memOk rfl (execCharterReceive_keeps port charter s t h) fun ok => execCharterReceive_memOk port charter s ok t h
  | charterVerdict port accept => exact .of_ident_memOk rfl (execCharterVerdict_keeps port accept s t h) fun ok => execCharterVerdict_memOk port accept s ok t h
  | cableTemperaturePoll port warning alarm temp => exact .of_ident_memOk rfl (execCableTemperaturePoll_keeps port warning alarm temp s t h) fun ok => execCableTemperaturePoll_memOk port warning alarm temp s ok t h
  | cableCooldownExpiry port => exact .of_keeps (execCableCooldownExpiry_keeps port s t h)
  | retimerLockPoll port locked => exact .of_ident_memOk rfl (execRetimerLockPoll_keeps port locked s t h) fun ok => execRetimerLockPoll_memOk port locked s ok t h
  | cableHotJoinOrLoss port inventory => exact .of_keeps (execCableHotJoinOrLoss_keeps port inventory s t h)
  | cableBusSilent bus => exact .of_keeps (execCableBusSilent_keeps bus s t h)
  | powerSample m => exact .of_keeps (execPowerSample_keeps m s t h)
  | stateChangeComplete => exact .of_keeps (execStateChangeComplete_keeps s t h)
  | supplyWarningCrossing rail mv => exact .of_keeps (execSupplyWarningCrossing_keeps rail mv s t h)
  | supplyReturnTimer => exact .of_keeps (execSupplyReturnTimer_keeps s t h)
  | supplyDipReportTimer => exact .of_keeps (execSupplyDipReportTimer_keeps s t h)
  | railResetLevel rail => exact .of_title_memOk rfl (execRailResetLevel_keeps rail s t h) fun ok => execRailResetLevel_memOk rail s ok t h
  | supplyResetRecovery straps => exact .of_title_memOk rfl (execSupplyResetRecovery_keeps straps s t h) fun ok => execSupplyResetRecovery_memOk straps s ok t h
  | thermalComparator105 die temp => exact .of_keeps (execThermalComparator105_keeps die temp s t h)
  | thermalLowerTimer => exact .of_keeps (execThermalLowerTimer_keeps s t h)
  | thermalRaiseTimer => exact .of_keeps (execThermalRaiseTimer_keeps s t h)
  | thermalTrip temp => exact .of_keeps (execThermalTrip_keeps temp s t h)
  | pwrbrkNAssert ns => exact .of_keeps (execPwrbrkNAssert_keeps ns s t h)
  | pwrbrkReleaseTimer => exact .of_keeps (execPwrbrkReleaseTimer_keeps s t h)
  | epoN ns => exact .of_keeps (execEpoN_keeps ns s t h)
  | metrizorSample drifts => exact .of_keeps (execMetrizorSample_keeps drifts s t h)
  | vintagePlanTimer => exact .of_keeps (execVintagePlanTimer_keeps s t h)
  | vintageAutoCommit => exact .of_keeps (and_assoc.1 ⟨execVintageAutoCommit_keeps s t h, execVintageAutoCommit_mem s t h⟩)
  | vinAuxPowerUp => exact .of_keeps (execVinAuxPowerUp_keeps s t h)
  | pwrokRise straps => exact .of_title_memOk rfl (execPwrokRise_keeps straps s t h) fun ok => execPwrokRise_memOk straps s ok t h
  | perstNRise straps => exact .of_title_memOk rfl (execPerstNRise_keeps straps s t h) fun ok => execPerstNRise_memOk straps s ok t h
  | perstNFall => exact .of_title_memOk rfl (execPerstNFall_keeps s t h) fun ok => execPerstNFall_memOk s ok t h
  | vinAuxLoss held50ms => exact .of_title_memOk rfl (execVinAuxLoss_keeps held50ms s t h) fun ok => execVinAuxLoss_memOk held50ms s ok t h
  | tastingStageComplete r => exact .of_title_memOk rfl (execTastingStageComplete_keeps r s t h) fun ok => execTastingStageComplete_memOk r s ok t h
  | tastingStageTimeout => exact .of_keeps (execTastingStageTimeout_keeps s t h)
  | watchdogExpiry => exact .of_title_memOk rfl (execWatchdogExpiry_keeps s t h) fun ok => execWatchdogExpiry_memOk s ok t h
  | corkFinalTimer => exact .of_keeps (execCorkFinalTimer_keeps s t h)
  | functionLevelReset => exact .of_title_memOk rfl (execFunctionLevelReset_keeps s t h) fun ok => execFunctionLevelReset_memOk s ok t h
  | port1Flr => exact .of_keeps (execPort1Flr_keeps s t h)
  | cxlLinkDown => exact .of_title_memOk rfl (execCxlLinkDown_keeps s t h) fun ok => execCxlLinkDown_memOk s ok t h
  | cxlLinkTrained port width rate cxl flit256 => exact .of_title_memOk rfl (execCxlLinkTrained_keeps port width rate cxl flit256 s t h) fun ok => execCxlLinkTrained_memOk port width rate cxl flit256 s ok t h
  | gpfPhase1 => exact .of_ident_memOk rfl (execGpfPhase1_keeps s t h) fun ok => execGpfPhase1_memOk s ok t h
  | hostSnoop addr kind => exact .of_ident_memOk rfl (execHostSnoop_keeps addr kind s t h) fun ok => execHostSnoop_memOk addr kind s ok t h
  | cxlMemRequest hpa write metaShared found => exact .of_ident_memOk rfl (execCxlMemRequest_keeps hpa write metaShared found s t h) fun ok => execCxlMemRequest_memOk hpa write metaShared found s ok t h
  | birsp addr => exact .of_ident_memOk rfl (execBirsp_keeps addr s t h) fun ok => execBirsp_memOk addr s ok t h
  | cxlCacheResponse addr r => exact .of_ident_memOk rfl (execCxlCacheResponse_keeps addr r s t h) fun ok => execCxlCacheResponse_memOk addr r s ok t h
  | hdmDecoderCommit base size skip ways biEnable => exact .of_keeps (execHdmDecoderCommit_keeps base size skip ways biEnable s t h)
  | ideIntegrityFailure stream => exact .of_keeps (execIdeIntegrityFailure_keeps stream s t h)
  | spdmRequest transport r => exact .of_title (execSpdmRequest_keeps transport r s t h)
  | doeRequest port r => exact .of_keeps (execDoeRequest_keeps port r s t h)
  | authNonce secured => exact .of_title (execAuthNonce_keeps secured s t h)
  | ownClaim secured key => exact .of_owner rfl (execOwnClaim_keeps secured key s t h)
  | ownTransfer secured key auth => exact .of_owner rfl (execOwnTransfer_keeps secured key auth s t h)
  | ownRelease secured auth => exact .of_owner rfl (execOwnRelease_keeps secured auth s t h)
  | ownCosign secured cosign auth => exact .of_owner rfl (execOwnCosign_keeps secured cosign auth s t h)
  | nonceExpiry => exact .of_title (execNonceExpiry_keeps s t h)
  | sidebandTmiCommand c => exact .of_title_memOk rfl (execSidebandTmiCommand_keeps c s t h) fun ok => execSidebandTmiCommand_memOk c s ok t h
  | pldmRequest r => exact .of_keeps (execPldmRequest_keeps r s t h)
  | recordCommit => exact .of_keeps (execRecordCommit_keeps s t h)
  | freezeExpiry sideband => exact .of_keeps (execFreezeExpiry_keeps sideband s t h)
  | operatingTimeSave => exact .of_keeps (execOperatingTimeSave_keeps s t h)
  | loadCompletion part ok => exact .of_ident_memOk rfl (execLoadCompletion_keeps part ok s t h) fun canonical => execLoadCompletion_memOk part ok s canonical t h
  | bankWriteCompletion => exact .of_keeps (execBankWriteCompletion_keeps s t h)
  | generationHoldExpiry hop => exact .of_ident_memOk rfl (execGenerationHoldExpiry_keeps hop s t h) fun ok => execGenerationHoldExpiry_memOk hop s ok t h
  | egressPacketSend port => exact .of_keeps (execEgressPacketSend_keeps port s t h)
  | idleWordReceive port trailer => exact .of_ident_memOk rfl (execIdleWordReceive_keeps port trailer s t h) fun ok => execIdleWordReceive_memOk port trailer s ok t h
  | port1LinkDown => exact .of_keeps (execPort1LinkDown_keeps s t h)

/-- The effect of a step, on the state that it began with. -/
theorem step_cases {s t : State} (h : step s = .next t) :
    (s.pending = [] ∧ t = s.advanceTick) ∨ ∃ c rest, s.pending = c :: rest ∧ exec c { s with pending := rest } = .next t := by
  cases queue : s.pending with
  | nil =>
    rw [step, queue] at h
    cases h
    exact .inl ⟨rfl, rfl⟩
  | cons c rest =>
    rw [step, queue] at h
    exact .inr ⟨c, rest, rfl, h⟩

/-- Settles O3: no command's law lets it touch the queue. -/
theorem commandsLeaveTheQueue : Obligations.CommandsLeaveTheQueue :=
  fun _ _ _ h => (exec_effect h).pending

/-- Settles O4: a tick leaves the memory, and every command keeps the form by its law. -/
theorem stepKeepsMemoriesCanonical : Obligations.StepKeepsMemoriesCanonical := by
  intro s t ok h
  rw [memoriesWf, ← memOk_iff] at ok ⊢
  obtain ⟨-, rfl⟩ | ⟨c, rest, -, run⟩ := step_cases h
  · rwa [(State_advanceTick_keeps s).2.2]
  · exact (exec_effect run).memOk ok

/-- Settles O5. -/
theorem resetMemoriesCanonical : Obligations.ResetMemoriesCanonical := ⟨wf_reset, rfl, rfl, rfl, rfl⟩

theorem title_eq_iff (x y : Ident) : x.title = y.title ↔ x.owner = y.owner ∧ x.cosign = y.cosign ∧ x.epoch = y.epoch := by
  simp only [Ident.title, Prod.mk.injEq]

/-- Settles O6: outside the four commands the title stands, and the title is these three fields. -/
theorem onlyOwnershipCommandsChangeTheOwner : Obligations.OnlyOwnershipCommandsChangeTheOwner := by
  intro i s t h
  have title := (exec_effect h).title
  simp only [title_eq_iff] at title
  cases i <;> exact title

/-- Settles O60. -/
theorem onlyListedCommandsReachMemory : Obligations.OnlyListedCommandsReachMemory := by
  intro i s t h
  have mem := (exec_effect h).mem
  cases i <;> exact mem

/-! ## A part without an owner has COSIGN clear (R425) -/

/-- Nobody owns the part only while COSIGN is clear. -/
def Ident.UnownedClear (x : Ident) : Prop := x.owner = none → x.cosign = false

theorem Ident.UnownedClear.of_title {x y : Ident} (clear : x.UnownedClear) (same : y.title = x.title) : y.UnownedClear := by
  obtain ⟨owner, cosign, -⟩ := (title_eq_iff y x).1 same
  intro unowned
  exact cosign.trans (clear (owner ▸ unowned))

/-- What a change of ownership leaves, from the owner and COSIGN that it sets. -/
theorem changeOwner_unownedClear (s : State) (sub : Nat) {owner : Option Bytes} {cosign : Bool} (clear : owner = none → cosign = false) :
    (s.changeOwner sub owner cosign).ident.UnownedClear := by
  have title := changeOwner_title s sub owner cosign
  rw [Ident.title, Prod.mk.injEq, Prod.mk.injEq] at title
  intro unowned
  exact title.2.1.trans (clear (title.1 ▸ unowned))

/-- Check 2 of R426 fails for a part that nobody owns. -/
theorem Ident.owned_of_authorises {x : Ident} {a : Bytes} {purpose : Nat} (h : x.authorises a purpose = true) : x.owner ≠ none := by
  intro unowned
  rw [authorises, unowned] at h
  exact Bool.false_ne_true h

theorem vendor_unownedClear {s : State} (secured : Bool) {f : State → State} (clear : s.ident.UnownedClear) (h : (f s).ident.UnownedClear) :
    (s.vendor secured f).ident.UnownedClear := by
  unfold State.vendor
  split_ifs
  · exact clear
  · exact clear
  · exact h
  · exact clear

/-- A request under authorisation runs only on an owned part. -/
theorem authorised_unownedClear {s : State} (auth : Bytes) (purpose : Nat) (ok : Bool) {f : State → State} (clear : s.ident.UnownedClear)
    (h : s.ident.owner ≠ none → (f s.spendNonce).ident.UnownedClear) : (s.authorised auth purpose ok f).ident.UnownedClear := by
  unfold State.authorised
  split_ifs with length checks
  · exact clear
  · exact h (Ident.owned_of_authorises (Bool.and_eq_true_iff.1 checks).1)
  · exact clear

theorem exec_unownedClear {i : Instr} {s t : State} (clear : s.ident.UnownedClear) (h : exec i s = .next t) : t.ident.UnownedClear := by
  have title := (exec_effect h).title
  cases owns : i.changesOwner with
  | false =>
    rw [owns] at title
    exact clear.of_title title
  | true =>
    cases i <;> try contradiction
    case ownClaim secured key =>
      cases h
      refine vendor_unownedClear secured clear ?_
      split_ifs
      · exact changeOwner_unownedClear s 0 fun _ => rfl
      · exact clear
    case ownTransfer secured key auth =>
      cases h
      exact vendor_unownedClear secured clear (authorised_unownedClear _ _ _ clear fun _ => changeOwner_unownedClear _ 1 fun _ => rfl)
    case ownRelease secured auth =>
      cases h
      exact vendor_unownedClear secured clear (authorised_unownedClear _ _ _ clear fun _ => changeOwner_unownedClear _ 2 fun _ => rfl)
    case ownCosign secured cosign auth =>
      cases h
      refine vendor_unownedClear secured clear (authorised_unownedClear _ _ _ clear fun owned => ?_)
      split_ifs
      · exact clear
      · exact changeOwner_unownedClear _ 3 fun unowned => absurd unowned owned

/-- Settles O7: a tick leaves the ownership, and every command keeps the invariant. -/
theorem unownedPartHasCosignClear : Obligations.UnownedPartHasCosignClear := by
  refine ⟨fun s t clear h => ?kept, rfl, rfl⟩
  change t.ident.UnownedClear
  obtain ⟨-, rfl⟩ | ⟨c, rest, -, run⟩ := step_cases h
  · rwa [(State_advanceTick_keeps s).2.1]
  · exact exec_unownedClear (s := { s with pending := rest }) clear run

/-- Settles O1. -/
theorem stepRunsFrontCommand : Obligations.StepRunsFrontCommand := fun _ _ _ => rfl

end Sys2Proof.Machine

/-!
# The frame of a TMI command (R318)

Every row of a TMI command is `runCmd` of its opcode, and a completion moves nothing but the mailbox, what leaves for the host and the registers.
-/
namespace Sys2Proof.Machine

/-- From `s` to `t` only the mailbox, what left for the host and the direct registers moved. -/
def MailboxOnly (s t : State) : Prop := t = { s with tmi := t.tmi, out := t.out, regs := t.regs }

theorem MailboxOnly.refl (s : State) : MailboxOnly s s := rfl

theorem MailboxOnly.trans {s t u : State} (first : MailboxOnly s t) (second : MailboxOnly t u) : MailboxOnly s u := by
  rw [MailboxOnly, second, first]

theorem MailboxOnly.foldl {α : Type} {f : State → α → State} (each : ∀ s a, MailboxOnly s (f s a)) (l : List α) (s : State) :
    MailboxOnly s (l.foldl f s) := by
  induction l generalizing s with
  | nil => exact .refl s
  | cons a l ih => exact (each s a).trans (ih _)

theorem msix_mailboxOnly (s : State) (vec : Nat) : MailboxOnly s (s.msix vec) := by
  unfold State.msix
  split_ifs <;> rfl

theorem writeEntry_mailboxOnly (s : State) (n : Nat) (entry : Bytes) (notice : Bool) : MailboxOnly s (s.writeEntry n entry notice) := by
  rw [State.writeEntry]
  cases kget s.tmi.pairs n with
  | none => exact .refl s
  | some p =>
    dsimp only
    split_ifs
    · exact MailboxOnly.trans (by exact rfl) (msix_mailboxOnly _ p.vec)
    · rfl

theorem answerCmd_mailboxOnly (s : State) (src : CmdSrc) (cid op cls st evseq : Nat) (result : Bytes) :
    MailboxOnly s (s.answerCmd src cid op cls st evseq result) := by
  cases src with
  | pair n => exact writeEntry_mailboxOnly s n _ false
  | sideband => rfl

theorem settleDestroy_mailboxOnly (s : State) (d : Nat × Running) : MailboxOnly s (s.settleDestroy d) := by
  unfold State.settleDestroy
  split_ifs
  · exact MailboxOnly.trans (by exact rfl) (answerCmd_mailboxOnly _ _ _ _ _ _ _ _)
  · rfl

theorem settlePair0_mailboxOnly (s : State) : MailboxOnly s s.settlePair0 := by
  unfold State.settlePair0
  split
  · split_ifs <;> rfl
  · rfl

theorem settlePairs_mailboxOnly (s : State) : MailboxOnly s s.settlePairs :=
  (MailboxOnly.foldl settleDestroy_mailboxOnly _ s).trans (settlePair0_mailboxOnly _)

theorem finish_mailboxOnly (s : State) (src : CmdSrc) (cid op cls st evseq : Nat) (result : Bytes) :
    MailboxOnly s (s.finish src cid op cls st evseq result) :=
  MailboxOnly.trans (t := { s with tmi := { s.tmi with running := s.tmi.running.eraseP fun r => r.isCmd src cid op } }) rfl
    ((answerCmd_mailboxOnly _ _ _ _ _ _ _ _).trans (settlePairs_mailboxOnly _))

theorem complete_mailboxOnly (c : Cmd) (st evseq : Nat) (result : Bytes) (s : State) : MailboxOnly s (complete c st evseq result s) :=
  finish_mailboxOnly s _ _ _ _ _ _ _

/-- Each row of `tmiRows` carries out its opcode in the shared frame. -/
theorem exec_tmiRow : ∀ e ∈ tmiRows, ∃ body, ∀ (c : Cmd) (s : State), exec (e.2 c) s = .next (runCmd e.1 c body s) := by
  simp only [tmiRows, List.forall_mem_cons, List.not_mem_nil, false_imp_iff, implies_true, and_true]
  repeat' apply And.intro
  all_goals exact ⟨_, fun _ _ => rfl⟩

/-! ## The order of the checks -/

theorem tmiCheck_no_row {c : Cmd} (s : State) (row : catalogue c.op = none) :
    tmiCheck c s = some (if s.life.dev = .corked then stCorked else stOpcode) := by
  rw [tmiCheck, row]

section
variable {c : Cmd} {s : State} {e : Entry}

theorem tmiCheck_not_corked_row (row : catalogue c.op = some e) (corked : s.life.dev = .corked) (notServed : e.corked = false) :
    tmiCheck c s = some stCorked := by
  simp only [tmiCheck, row, corked, notServed, and_self, if_true]

/-- Check 3: reserved bits, the buffer's alignment, the ranges of the parameters. -/
def fieldsOk (e : Entry) (c : Cmd) (s : State) : Bool :=
  reservedZero c.desc (headerFields ++ e.params) && c.buf % 64 == 0 && paramsOk c.op c.desc s

variable (row : catalogue c.op = some e) (served : s.life.dev = .corked → e.corked = true)
include row served

theorem tmiCheck_from_fields : tmiCheck c s = if !fieldsOk e c s then some stParam
    else if !targetOk e.kind c.src c.target s then some stTarget
    else if targetBusy c.op c.target (c.src, c.cid) s then some stBusy else none := by
  have passed : ¬ (s.life.dev = .corked ∧ e.corked = false) := fun h => by simp [served h.1] at h
  rw [tmiCheck, row]
  exact if_neg passed

theorem tmiCheck_param (bad : fieldsOk e c s = false) : tmiCheck c s = some stParam := by
  rw [tmiCheck_from_fields row served, if_pos (by simp [bad])]

variable (fields : fieldsOk e c s = true)
include fields

theorem tmiCheck_target (bad : targetOk e.kind c.src c.target s = false) : tmiCheck c s = some stTarget := by
  rw [tmiCheck_from_fields row served, if_neg (by simp [fields]), if_pos (by simp [bad])]

variable (target : targetOk e.kind c.src c.target s = true)
include target

theorem tmiCheck_busy (busy : targetBusy c.op c.target (c.src, c.cid) s = true) : tmiCheck c s = some stBusy := by
  rw [tmiCheck_from_fields row served, if_neg (by simp [fields]), if_neg (by simp [target]), if_pos busy]

theorem tmiCheck_passes (idle : targetBusy c.op c.target (c.src, c.cid) s = false) : tmiCheck c s = none := by
  rw [tmiCheck_from_fields row served, if_neg (by simp [fields]), if_neg (by simp [target]), if_neg (by simp [idle])]

end

/-- Settles O8: the checks by the order of `tmiCheck`, refusal and silence by the shared frame of the rows. -/
theorem tmiCommandsAreCheckedInOrder : Obligations.TmiCommandsAreCheckedInOrder := by
  refine ⟨⟨fun c s row => tmiCheck_no_row s row, fun c s e row => ⟨fun corked notServed => tmiCheck_not_corked_row row corked notServed,
    fun served => ⟨?bad, ?good⟩⟩⟩, ⟨?refused, fun c s st => ⟨_, complete_mailboxOnly c st _ _ s⟩⟩, ?silent⟩
  case bad =>
    intro bad
    refine tmiCheck_param row served ?_
    simp only [fieldsOk, Bool.and_eq_false_iff, beq_eq_false_iff_ne, or_assoc]
    exact bad
  case good =>
    intro zero aligned params
    have fields : fieldsOk e c s = true := by simp [fieldsOk, zero, aligned, params]
    exact ⟨tmiCheck_target row served fields, fun target => ⟨tmiCheck_busy row served fields target, tmiCheck_passes row served fields target⟩⟩
  case refused =>
    intro e mem c s st refused
    obtain ⟨body, run⟩ := exec_tmiRow e mem
    rw [run, runCmd_refused body refused]
    rfl
  case silent =>
    intro e mem c s
    obtain ⟨body, run⟩ := exec_tmiRow e mem
    rw [run]
    rintro (notServed | other)
    · rw [runCmd_not_served body notServed]
    · rw [runCmd_other_op body other]

end Sys2Proof.Machine

/-!
# Ring pairs, doorbells and the commands on them (R308 to R315, R324, R325, R337, R345)
-/
namespace Sys2Proof.Machine

/-- An accepted command answers what its body gives. -/
theorem next_runCmd {op : Nat} {c : Cmd} {s t : State} {body : Cmd → State → State} (accepted : Accepted op c s) (gives : body c s = t) :
    (Host.Outcome.next (runCmd op c body s) : Host.Outcome State Fault Refusal) = .next t := by
  rw [runCmd_accepted body accepted, gives]

@[simp] theorem msix_tmi (s : State) (vec : Nat) : (s.msix vec).tmi = s.tmi := by
  unfold State.msix
  split_ifs <;> rfl

@[simp] theorem msix_writes (s : State) (vec : Nat) : (s.msix vec).out.writes = s.out.writes := by
  unfold State.msix
  split_ifs <;> rfl

theorem kmod_of_some {α : Type} {m : KMap α} {k : Nat} {v : α} (f : α → α) (h : kget m k = some v) : kmod m k f = kput m k (f v) := by
  rw [kmod, h]

/-- What a pair is once an entry stands at its completion tail; `fire` is whether its vector is raised. -/
def Pair.entered (p : Pair) (fire : Bool) : Pair :=
  { p with ctail := (p.ctail + 1) % p.n, unsignalled := if fire then 0 else p.unsignalled + 1 }

/-- Writing an entry is the entry, then the status word, then the vector where it fires (R310, R315). -/
theorem writeEntry_eq {s : State} {n : Nat} {p : Pair} (entry : Bytes) (notice : Bool) (pair : kget s.tmi.pairs n = some p) :
    ∃ (fire : Bool) (u : State), u = { s with
        out := { s.out with writes := s.out.writes ++ [(0, p.qbase + 32 * p.ctail, entry), (0, p.sbase, (p.entered fire).status)] }
        tmi := { s.tmi with pairs := kput s.tmi.pairs n (p.entered fire) } }
      ∧ s.writeEntry n entry notice = if fire then u.msix p.vec else u := by
  refine ⟨notice || p.coalCnt == 0 || p.coalCnt ≤ p.unsignalled + 1, _, rfl, ?_⟩
  simp only [State.writeEntry, pair, State.hostWrite, List.append_assoc, List.singleton_append]
  rfl

/-- Settles O9: by `writeEntry_eq`, and a vector moves neither the pairs nor the host writes. -/
theorem entryIsWrittenBeforeItsStatusWord : Obligations.EntryIsWrittenBeforeItsStatusWord := by
  intro s n p entry notice pair
  obtain ⟨fire, u, rfl, eq⟩ := writeEntry_eq entry notice pair
  refine ⟨p.entered fire, ?_, rfl, ?_⟩
  · rw [eq]
    cases fire <;> simp
  · rw [eq]
    cases fire <;> simp

/-! ## Device and ring commands -/

/-- The running list alone takes up a command that goes on after its row. -/
theorem keepRunning_eq (s : State) (c : Cmd) : s.keepRunning c = { s with tmi := { s.tmi with running := (s.keepRunning c).tmi.running } } := by
  unfold State.keepRunning
  split_ifs <;> rfl

theorem doRingDestroy_of_open {c : Cmd} {s : State} {p : Pair} (pair : kget s.tmi.pairs (fld c.desc 16 0 4) = some p) (isOpen : p.closing = false) :
    doRingDestroy c s = State.settlePairs { s with tmi := { s.tmi with
      running := (s.keepRunning c).tmi.running
      pairs := kput s.tmi.pairs (fld c.desc 16 0 4) { p with closing := true }
      destroying := s.tmi.destroying ++ [(fld c.desc 16 0 4, c.running s)] } } := by
  simp only [doRingDestroy, pair, isOpen, Bool.false_eq_true, if_false]
  rw [keepRunning_eq]

theorem doStatsRead_of_ok {c : Cmd} {s : State} {b : Bytes} (group : s.statsGroup (fld c.desc 16 0 8) (fld c.desc 18 0 3) = some b) (ok : c.wr = .ok) :
    doStatsRead c s = doneBuffer c b (le 4 b.length) (if fld c.desc 17 0 1 = 1 then s.clearStats (fld c.desc 16 0 8) (fld c.desc 18 0 3) else s) := by
  simp only [doStatsRead, group, ok, and_true]

/-- Settles O10: each row's body under its condition. -/
theorem deviceAndRingCommandsComplete : Obligations.DeviceAndRingCommandsComplete := by
  refine ⟨fun c s accepted => next_runCmd accepted rfl, fun c s accepted => ⟨fun absent => ?create, fun present => ?existing⟩,
    fun c s p accepted pair isOpen => next_runCmd accepted (doRingDestroy_of_open pair isOpen),
    fun c s accepted => next_runCmd accepted rfl, fun c s b accepted group ok => next_runCmd accepted (doStatsRead_of_ok group ok)⟩
  case create => exact next_runCmd accepted (if_neg (by simp [absent]))
  case existing => exact next_runCmd accepted (if_pos present)

/-! ## Doorbells -/

section
variable {s : State} {n : Nat} {p : Pair}

theorem not_off_of_live (live : s.life.dev = .opened ∨ s.life.dev = .corked) : s.life.dev ≠ .off := by
  rcases live with h | h <;> simp [h]

theorem not_held_of_live (live : s.life.dev = .opened ∨ s.life.dev = .corked) : ¬ (n = 0 ∧ s.life.dev = .tasting) := by
  rcases live with h | h <;> simp [h]

theorem execCommandDoorbell_eq (v : BitVec 32) (on : s.life.dev ≠ .off) (notHeld : ¬ (n = 0 ∧ s.life.dev = .tasting)) :
    exec (.commandDoorbell n v) s = .next (if s.pairLive n then s.ringCommand n (v.toNat % 4096) v.toNat else s.dropDoorbell) :=
  (if_neg on).trans (congrArg _ (if_neg notHeld))

theorem execCompletionDoorbell_eq (v : BitVec 32) (on : s.life.dev ≠ .off) (notHeld : ¬ (n = 0 ∧ s.life.dev = .tasting)) :
    exec (.completionDoorbell n v) s = .next (if s.pairLive n then s.ringCompletion n (v.toNat % 4096) v.toNat else s.dropDoorbell) :=
  (if_neg on).trans (congrArg _ (if_neg notHeld))

theorem exec_doorbell_not_live (v : BitVec 32) (on : s.life.dev ≠ .off) (notHeld : ¬ (n = 0 ∧ s.life.dev = .tasting)) (notLive : s.pairLive n = false) :
    exec (.commandDoorbell n v) s = .next s.dropDoorbell ∧ exec (.completionDoorbell n v) s = .next s.dropDoorbell := by
  rw [execCommandDoorbell_eq v on notHeld, execCompletionDoorbell_eq v on notHeld, notLive]
  exact ⟨rfl, rfl⟩

theorem exec_doorbell_held (v : BitVec 32) (tasting : s.life.dev = .tasting) :
    exec (.commandDoorbell 0 v) s = .next { s with regs := { s.regs with heldCdb := some v.toNat } }
      ∧ exec (.completionDoorbell 0 v) s = .next { s with regs := { s.regs with heldQdb := some v.toNat } } := by
  have on : s.life.dev ≠ .off := by simp [tasting]
  exact ⟨(if_neg on).trans (congrArg _ (if_pos ⟨rfl, tasting⟩)), (if_neg on).trans (congrArg _ (if_pos ⟨rfl, tasting⟩))⟩

variable (pair : kget s.tmi.pairs n = some p)
include pair

theorem ringCommand_in_range (value : Nat) {v : Nat} (range : v < 2 ^ p.log2n) :
    s.ringCommand n v value = { s with tmi := { s.tmi with pairs := kput s.tmi.pairs n (p.ring v s.tmi.order), order := s.tmi.order + 1 } } := by
  rw [State.ringCommand, pair]
  exact if_neg range.not_ge

theorem ringCommand_out_of_range (value : Nat) {v : Nat} (beyond : 2 ^ p.log2n ≤ v) : s.ringCommand n v value = s.ringError 0 n value := by
  rw [State.ringCommand, pair]
  exact if_pos beyond

theorem ringCompletion_in_range (value : Nat) {v : Nat} (range : v < 2 ^ p.log2n) :
    s.ringCompletion n v value = { s with tmi := { s.tmi with pairs := kput s.tmi.pairs n { p with qhead := v } } } := by
  rw [State.ringCompletion, pair]
  exact if_neg range.not_ge

theorem ringCompletion_out_of_range (value : Nat) {v : Nat} (beyond : 2 ^ p.log2n ≤ v) : s.ringCompletion n v value = s.ringError 1 n value := by
  rw [State.ringCompletion, pair]
  exact if_pos beyond

end

/-! ## Fetching, starting, promotion, moderation, held notices -/

section
variable {s : State} {n : Nat}

theorem execCommandFetch_ok (d : Bytes) (may : s.mayFetch n = true) : exec (.commandFetch n (.ok d)) s = .next (s.fetched n d) := if_pos may

theorem execCommandFetch_failed (may : s.mayFetch n = true) :
    exec (.commandFetch n .cxlError) s = .next (s.stopPair n) ∧ exec (.commandFetch n .poison) s = .next (s.stopPair n) :=
  ⟨if_pos may, if_pos may⟩

/-- A pair whose head has moved on over a fetched descriptor. -/
def Pair.take (p : Pair) (d : Bytes) : Pair :=
  { p with chead := (p.chead + 1) % p.n, fetched := p.fetched ++ [⟨(d ++ List.replicate 64 0).take 64, p.cls⟩] }

theorem fetched_eq {p : Pair} (d : Bytes) (pair : kget s.tmi.pairs n = some p) :
    s.fetched n d = { s with
      tmi := { s.tmi with pairs := kput s.tmi.pairs n (p.take d) }
      out := { s.out with writes := s.out.writes ++ [(0, p.sbase, (p.take d).status)] } } := by
  simp only [State.fetched, kmod_of_some _ pair, State.writeStatus, kget_kput]
  rfl

/-- A started command whose checks pass joins those in progress. -/
theorem startFetched_of_passes {f : Fetched} {rest : List Fetched}
    (passes : tmiCheck ⟨.pair n, f.desc, .ok [], .ok⟩ { s with tmi := { s.tmi with pairs := kmod s.tmi.pairs n fun p => p.started rest } } = none) :
    ∃ r : Running, r.src = .pair n ∧ r.cid = fld f.desc 4 0 32 ∧ r.opcode = fld f.desc 0 0 16 ∧ r.target = fld f.desc 3 0 8 ∧
      s.startFetched n f rest = { s with tmi := { s.tmi with
        pairs := kmod s.tmi.pairs n fun p => p.started rest
        running := s.tmi.running ++ [r] } } := by
  refine ⟨Cmd.running ⟨.pair n, f.desc, .ok [], .ok⟩ { s with tmi := { s.tmi with pairs := kmod s.tmi.pairs n fun p => p.started rest } },
    rfl, rfl, rfl, rfl, ?_⟩
  simp only [State.startFetched, passes]

theorem execCommandStart_eq {p : Pair} {f : Fetched} {rest : List Fetched} (next : s.nextPair = some (n, p)) (head : p.fetched = f :: rest)
    (free : s.coreFree p.effective = true) : exec .commandStart s = .next (s.startFetched n f rest) := by
  simp only [exec, execCommandStart, next, head, free, if_true]

end

/-- Settles O11: each row by its own equation, on the live pair or the condition it names. -/
theorem doorbellAndMailboxRowsComplete : Obligations.DoorbellAndMailboxRowsComplete := by
  refine ⟨⟨?inRange, ?outOfRange, fun n v s on notHeld notLive => exec_doorbell_not_live v on notHeld notLive,
    fun v s tasting => exec_doorbell_held v tasting⟩,
    ?fetch, fun n s may => execCommandFetch_failed may, ?start, ?promotion, ?coalesce, ?held⟩
  case inRange =>
    intro n v s p live pairLive pair range
    rw [execCommandDoorbell_eq v (not_off_of_live live) (not_held_of_live live), execCompletionDoorbell_eq v (not_off_of_live live) (not_held_of_live live),
      pairLive, ringCommand_in_range pair _ range, ringCompletion_in_range pair _ range]
    exact ⟨rfl, rfl⟩
  case outOfRange =>
    intro n v s p live pairLive pair beyond
    rw [execCommandDoorbell_eq v (not_off_of_live live) (not_held_of_live live), execCompletionDoorbell_eq v (not_off_of_live live) (not_held_of_live live),
      pairLive, ringCommand_out_of_range pair _ beyond, ringCompletion_out_of_range pair _ beyond]
    exact ⟨rfl, rfl⟩
  case fetch =>
    intro n d s p may pair
    refine ⟨_, p.take d, execCommandFetch_ok d may, ?_⟩
    rw [fetched_eq d pair]
    exact ⟨kget_kput _ _ _, rfl, rfl, rfl, rfl⟩
  case start =>
    intro n p f rest s next head cores passes
    obtain ⟨r, src, cid, opcode, target, eq⟩ := startFetched_of_passes passes
    exact ⟨r, src, cid, opcode, target, (execCommandStart_eq next head (decide_eq_true cores)).trans (congrArg _ eq)⟩
  case promotion =>
    intro n p s pair above waits
    simp only [exec, execClassPromotion, pair]
    exact if_pos ⟨above, waits⟩
  case coalesce =>
    intro n p s pair waits
    simp only [exec, execVectorCoalesceTimer, pair]
    exact if_pos waits
  case held =>
    intro nt rest s held room
    simp only [exec, execNoticeHeldDeliver, held]
    exact if_pos room

end Sys2Proof.Machine

/-!
# The vat's sums (R41) and the requantised block (R45 to R48)
-/
namespace Sys2Proof.Machine

/-! ## One addition and one lane -/

theorem accOver_eq_false_iff (v : Int) : accOver v = false ↔ v.natAbs ≤ 140737488355327 := by
  rw [accOver, accLimit, decide_eq_false_iff_not]
  omega

theorem accOver_eq_true_iff (v : Int) : accOver v = true ↔ 140737488355327 < v.natAbs := by
  rw [← Bool.not_eq_false, accOver_eq_false_iff, not_le]

theorem addTo_aligned_over {a : Int} (v : Int) (beyond : accOver a = true) : addTo false (.val v) (some a) = (.nar, some (1, 0)) := by
  simp only [addTo, beyond, if_true]

theorem addTo_sum_over {v a : Int} (aligned : accOver a = false) (beyond : accOver (v + a) = true) :
    addTo false (.val v) (some a) = (.nar, some (1, 1)) := by
  simp [addTo, aligned, beyond]

theorem addTo_exact {v a : Int} (aligned : accOver a = false) (within : accOver (v + a) = false) :
    addTo false (.val v) (some a) = (.val (v + a), none) := by
  simp [addTo, aligned, within]

/-- The lane adds its head first; the first source by which it became NaR stands. -/
theorem addLane_val_cons {v w : Int} {a : Option Int} (as : List (Option Int)) (head : addTo false (.val v) a = (.val w, none)) :
    addLane false (.val v) (a :: as) = addLane false (.val w) as := by
  simp only [addLane, List.foldl_cons, head]

theorem addLane_exact (as : List Int) (v : Int) (sums : ∀ k ≤ as.length, accOver (v + (as.take k).sum) = false)
    (aligned : ∀ a ∈ as, accOver a = false) : addLane false (.val v) (as.map some) = (.val (v + as.sum), none) := by
  induction as generalizing v with
  | nil => simp [addLane]
  | cons a as ih =>
    have first : accOver (v + a) = false := by simpa using sums 1 (by simp)
    rw [List.map_cons, addLane_val_cons _ (addTo_exact (aligned a (by simp)) first), List.sum_cons, ← add_assoc]
    refine ih (v + a) (fun k le => ?_) fun b mem => aligned b (by simp [mem])
    have next := sums (k + 1) (by simpa using le)
    rwa [List.take_succ_cons, List.sum_cons, ← add_assoc] at next

theorem addLane_fold_nar (as : List (Option Int)) (n : Option (Nat × Nat)) :
    (as.foldl (fun (r : Acc × Option (Nat × Nat)) a =>
      ((addTo false r.1 a).1, match r.2 with | some n => some n | none => (addTo false r.1 a).2)) (.nar, n)).1 = .nar := by
  induction as generalizing n with
  | nil => rfl
  | cons a as ih => exact ih _

/-- Settles O22: the cases of one addition by which limit is passed, a lane by induction over its segments. -/
theorem vatSumsAreExactOrNar : Obligations.VatSumsAreExactOrNar := by
  refine ⟨fun v a => ⟨rfl, rfl, rfl, ?beyond, ?sumOver, ?exact⟩, addLane_exact, fun as => addLane_fold_nar as none⟩
  case beyond =>
    intro beyond
    exact addTo_aligned_over v ((accOver_eq_true_iff a).2 beyond)
  case sumOver =>
    intro aligned beyond
    exact addTo_sum_over ((accOver_eq_false_iff a).2 aligned) ((accOver_eq_true_iff _).2 beyond)
  case exact =>
    intro aligned within
    exact addTo_exact ((accOver_eq_false_iff a).2 aligned) ((accOver_eq_false_iff _).2 within)

/-! ## Codes of the four formats -/

theorem fmt_cases {fmt : Nat} (four : fmt < 4) : fmt = 0 ∨ fmt = 1 ∨ fmt = 2 ∨ fmt = 3 := by omega

theorem decodeCode_fmtNar (fmt : Nat) : decodeCode fmt (fmtNar fmt) = none := by
  have below : fmtNar fmt < 2 ^ fmtBits fmt := Nat.pow_lt_pow_right (by decide) (by unfold fmtBits; split <;> decide)
  rw [decodeCode, Nat.mod_eq_of_lt below, if_pos rfl]

theorem decodeCode_zero (fmt : Nat) : decodeCode fmt 0 ≠ none := by
  have pos : fmtNar fmt ≠ 0 := Nat.ne_of_gt (Nat.two_pow_pos _)
  rw [decodeCode, Nat.zero_mod, if_neg pos.symm]
  exact Option.some_ne_none _

/-- A value is held within L before it is coded, so its code is not the most negative one. -/
theorem decodeCode_encodeCode_some {fmt : Nat} (four : fmt < 4) (q : Int) : decodeCode fmt (encodeCode fmt (some q)) ≠ none := by
  have other : encodeCode fmt (some q) % 2 ^ fmtBits fmt ≠ fmtNar fmt := by
    rcases fmt_cases four with rfl | rfl | rfl | rfl <;>
      simp only [encodeCode, toTwos, fmtBits, fmtLimit, fmtNar] <;> norm_num <;> omega
  rw [decodeCode, if_neg other]
  exact Option.some_ne_none _

theorem upsetBit_none (st : Stage) (i : Nat) : upsetBit none st i = none := rfl

theorem sfCodes_length (fmt m : Nat) (n : Int) (stoch : Bool) (vs : List (Option Int)) (i : Nat) (g : BitVec 64) :
    (sfCodes fmt m n stoch none vs i g).1.length = vs.length := by
  induction vs generalizing i g with
  | nil => rfl
  | cons v vs ih => simp only [sfCodes, List.length_cons, ih]

theorem sfCodes_decode {fmt : Nat} (four : fmt < 4) (m : Nat) (n : Int) (stoch : Bool) (vs : List (Option Int)) (k : Nat) (g : BitVec 64) (i : Nat)
    (h : i < vs.length) : decodeCode fmt ((sfCodes fmt m n stoch none vs k g).1.getD i 0) = none ↔ vs[i] = none := by
  induction vs generalizing k g i with
  | nil => simp at h
  | cons v vs ih =>
    cases i with
    | zero =>
      simp only [sfCodes, upsetBit_none, List.getD_cons_zero, List.getElem_cons_zero]
      cases v with
      | none => simp only [decodeCode_fmtNar]
      | some y => simp only [decodeCode_encodeCode_some four, reduceCtorEq]
    | succ i =>
      simp only [sfCodes, List.getD_cons_succ, List.getElem_cons_succ]
      exact ih _ _ i (by simpa using h)

/-! ## The multiplier: `t` fits under `255 L 2^n`, in rationals so that one statement serves both signs of `n` -/

/-- The block's largest magnitude is at most 255 L 2^n. -/
def SfFits (l t : Nat) (n : Int) : Prop := (t : ℚ) ≤ 255 * l * 2 ^ n

theorem SfFits.mono {l t : Nat} {n k : Int} (fits : SfFits l t n) (le : n ≤ k) : SfFits l t k :=
  fits.trans (by gcongr; norm_num)

theorem ceilDiv_le_of_le_mul {a b c : Nat} (pos : 0 < b) (h : a ≤ c * b) : ceilDiv a b ≤ c := by
  rw [ceilDiv, Nat.div_le_iff_le_mul_add_pred pos, mul_comm b c]
  omega

theorem sfMultiplier_le_of_fits {l t : Nat} {n : Int} (pos : 0 < l) (fits : SfFits l t n) : sfMultiplier l t n ≤ 255 := by
  rw [SfFits] at fits
  rw [sfMultiplier]
  split_ifs with sign
  · refine ceilDiv_le_of_le_mul (by positivity) ?_
    have whole : (2 : ℚ) ^ n = 2 ^ n.toNat := by rw [← zpow_natCast, Int.toNat_of_nonneg sign]
    rw [whole] at fits
    have cast : (t : ℚ) ≤ (255 * (l * 2 ^ n.toNat) : Nat) := by push_cast; linarith
    exact_mod_cast cast
  · refine ceilDiv_le_of_le_mul pos ?_
    have whole : (2 : ℚ) ^ n * 2 ^ (-n).toNat = 1 := by
      rw [← zpow_natCast, Int.toNat_of_nonneg (by omega), ← zpow_add₀ (by norm_num), add_neg_cancel, zpow_zero]
    have cast : (t * 2 ^ (-n).toNat : ℚ) ≤ (255 * l : ℚ) := by
      calc (t * 2 ^ (-n).toNat : ℚ) ≤ 255 * l * 2 ^ n * 2 ^ (-n).toNat := by gcongr
        _ = 255 * l := by rw [mul_assoc, whole, mul_one]
    exact_mod_cast cast

/-- The exponents that the scale finder tries: n = k − 35. -/
def sfTries (l t k : Nat) : Bool := decide (t * 2 ^ 35 ≤ 255 * l * 2 ^ k)

/-- The definition enters as a function, unapplied: the kernel would otherwise evaluate the search to compare the two sides. -/
theorem sfExponent_of_find {l t k : Nat} (first : (List.range 90).find? (sfTries l t) = some k) : sfExponent l t = (k : Int) - 35 := by
  have unfolded : ∀ f, sfExponent = f → f l t = (k : Int) - 35 := by
    intro f body
    delta sfExponent at body
    delta sfTries at first
    rw [← body]
    beta_reduce
    rw [first]
  exact unfolded _ rfl

/-- The last try fits every magnitude of at most 2^47. -/
theorem sfTries_last {l t : Nat} (pos : 0 < l) (bound : t ≤ 2 ^ 47) : sfTries l t 89 = true := by
  refine decide_eq_true ?_
  calc t * 2 ^ 35 ≤ 2 ^ 47 * 2 ^ 35 := Nat.mul_le_mul_right _ bound
    _ ≤ 255 * 1 * 2 ^ 89 := by norm_num
    _ ≤ 255 * l * 2 ^ 89 := Nat.mul_le_mul_right _ (Nat.mul_le_mul_left _ pos)

theorem SfFits.of_tries {l t k : Nat} (fits : sfTries l t k = true) : SfFits l t ((k : Int) - 35) := by
  have cast : (t : ℚ) * 2 ^ 35 ≤ 255 * l * 2 ^ k := by exact_mod_cast of_decide_eq_true fits
  rw [SfFits, zpow_sub₀ (by norm_num), zpow_natCast, ← mul_div_assoc, le_div_iff₀ (by positivity)]
  exact_mod_cast cast

/-- The exponent chosen is one under which the block fits. -/
theorem sfExponent_fits {l t : Nat} (pos : 0 < l) (bound : t ≤ 2 ^ 47) : SfFits l t (sfExponent l t) := by
  have found : ((List.range 90).find? (sfTries l t)).isSome :=
    List.find?_isSome.2 ⟨89, List.mem_range.2 (by decide), sfTries_last pos bound⟩
  obtain ⟨k, first⟩ := Option.isSome_iff_exists.1 found
  rw [sfExponent_of_find first]
  exact .of_tries (List.find?_some first)

theorem sfChoose_m_le {l t : Nat} (x : Int) (pos : 0 < l) (bound : t ≤ 2 ^ 47) : (sfChoose l t x).1 ≤ 255 := by
  have fits := sfExponent_fits pos bound
  simp only [sfChoose]
  split_ifs with low high
  · exact sfMultiplier_le_of_fits pos (fits.mono (by omega))
  · exact le_refl 255
  · exact sfMultiplier_le_of_fits pos fits

theorem fmtLimit_pos (fmt : Nat) : 0 < fmtLimit fmt := by
  unfold fmtLimit fmtBits
  split <;> decide

theorem foldl_max_le {l : List Nat} {a b : Nat} (start : a ≤ b) (each : ∀ x ∈ l, x ≤ b) : l.foldl max a ≤ b := by
  induction l generalizing a with
  | nil => exact start
  | cons x l ih => exact ih (max_le start (each x (by simp))) fun y mem => each y (by simp [mem])

/-- The largest magnitude of a block; a NaR counts 0. -/
def blockMax (vs : List (Option Int)) : Nat := (vs.map fun v => match v with | some v => v.natAbs | none => 0).foldl max 0

theorem blockMax_le {vs : List (Option Int)} (bound : ∀ v ∈ vs, ∀ y, v = some y → y.natAbs ≤ 2 ^ 47) : blockMax vs ≤ 2 ^ 47 := by
  refine foldl_max_le (Nat.zero_le _) fun x mem => ?_
  obtain ⟨v, inBlock, rfl⟩ := List.mem_map.1 mem
  cases v with
  | none => exact Nat.zero_le _
  | some y => exact bound _ inBlock y rfl

/-! ## The three ways through `requantise` -/

section
variable (fmt : Nat) (x : Int) {vs : List (Option Int)} (stoch : Bool) (g : BitVec 64)

theorem requantise_zero_nar (zero : blockMax vs = 0) (nar : vs.any Option.isNone = true) : ∃ g',
    requantise fmt x vs stoch none g = ⟨vs.map fun v => if v.isNone then fmtNar fmt else 0, 128, 0, false, g'⟩ :=
  ⟨_, (if_pos zero).trans (if_pos nar)⟩

theorem requantise_zero_finite (zero : blockMax vs = 0) (finite : ¬ vs.any Option.isNone = true) : ∃ g',
    requantise fmt x vs stoch none g = ⟨vs.map fun _ => 0, 0, 0, false, g'⟩ :=
  ⟨_, (if_pos zero).trans (if_neg finite)⟩

theorem requantise_nonzero (nonzero : blockMax vs ≠ 0) : ∃ n e clamped g', requantise fmt x vs stoch none g =
    ⟨(sfCodes fmt (sfChoose (fmtLimit fmt) (blockMax vs) x).1 n stoch none vs 0 g).1, (sfChoose (fmtLimit fmt) (blockMax vs) x).1, e, clamped, g'⟩ :=
  ⟨_, _, _, _, if_neg nonzero⟩

/-- A stored block has a code for every value, each of which tells NaR from a value, and a multiplier of 8 bits. -/
def BlockOk (fmt : Nat) (vs : List (Option Int)) (r : SfResult) : Prop :=
  r.codes.length = vs.length ∧ r.m ≤ 255 ∧ ∀ i, (h : i < vs.length) → (decodeCode fmt (r.codes.getD i 0) = none ↔ vs[i] = none)

/-- A block whose codes are made value by value. -/
theorem BlockOk.of_map {code : Option Int → Nat} {m : Nat} {e : Int} {clamped : Bool} {g' : BitVec 64} (small : m ≤ 255)
    (each : ∀ v ∈ vs, (decodeCode fmt (code v) = none ↔ v = none)) : BlockOk fmt vs ⟨vs.map code, m, e, clamped, g'⟩ := by
  refine ⟨List.length_map .., small, fun i h => ?_⟩
  rw [List.getD_eq_getElem _ _ (by simpa using h), List.getElem_map]
  exact each _ (List.getElem_mem h)

end

theorem requantise_blockOk {fmt : Nat} (four : fmt < 4) (x : Int) {vs : List (Option Int)} (stoch : Bool) (g : BitVec 64)
    (bound : ∀ v ∈ vs, ∀ y, v = some y → y.natAbs ≤ 2 ^ 47) : BlockOk fmt vs (requantise fmt x vs stoch none g) := by
  by_cases zero : blockMax vs = 0
  · by_cases nar : vs.any Option.isNone = true
    · obtain ⟨g', eq⟩ := requantise_zero_nar fmt x stoch g zero nar
      rw [eq]
      refine .of_map fmt (by decide) fun v _ => ?_
      cases v with
      | none => simp [decodeCode_fmtNar]
      | some y => simp [decodeCode_zero]
    · obtain ⟨g', eq⟩ := requantise_zero_finite fmt x stoch g zero nar
      rw [eq]
      exact .of_map fmt (by decide) fun v mem => iff_of_false (decodeCode_zero fmt) fun isNar => nar (List.any_eq_true.2 ⟨v, mem, by simp [isNar]⟩)
  · obtain ⟨n, e, clamped, g', eq⟩ := requantise_nonzero fmt x stoch g zero
    rw [eq]
    exact ⟨sfCodes_length .., sfChoose_m_le x (fmtLimit_pos fmt) (blockMax_le bound), sfCodes_decode four _ _ stoch vs 0 g⟩

/-- Settles O24: each way through `requantise` stores a block that is in order. -/
theorem requantisedBlockIsWellFormed : Obligations.RequantisedBlockIsWellFormed :=
  fun _ x _ stoch g four bound _ _ => requantise_blockOk four x stoch g bound

end Sys2Proof.Machine

/-!
# Where the model stops, the idle tick, staging, submissions, arrivals at a barrier
-/
namespace Sys2Proof.Machine

/-! ## Every command but a sample answers a next state (R459) -/

/-- Each of these meanings branches on its conditions, and every branch ends in a next state; the others are one `.next`. -/
theorem exec_safe {i : Instr} (other : ∀ m, i ≠ .powerSample m) (s : State) : Safe (exec i s) := by
  cases i with
  | powerSample m => exact absurd rfl (other m)
  | _ =>
    simp only [exec,
      execBankWriteCompletion, execCommandDoorbell, execCompletionDoorbell, execCommandFetch, execCommandStart, execClassPromotion,
      execVectorCoalesceTimer, execNoticeHeldDeliver, execRimAccess, execDemotionSelect, execCellarFullRecord, execDecantComplete, execAgeTick,
      execMapSweep, execPatrolScrub, execSubmissionFetch, execSubmit, execCancel, execPause, execResume, execServingHostAccessFail, execHoOpen,
      execHoCommit, execHoAbort, execHoReceiverSilence, execKvship, execHoAccept, execHoRefusal, execHoBusyRetryTimer, execKvack,
      execHoCommitComplete, execP0Arm, execP0Disarm, execEvrWinFetchDone, execManagerHeartbeat, execFirmwareHeartbeat, execRegisterWrite,
      execVinAuxPowerUp, execPwrokRise, execPerstNRise, execPerstNFall, execVinAuxLoss, execRailResetLevel, execSupplyResetRecovery,
      execTastingStageComplete, execTastingStageTimeout, execWatchdogExpiry, execCorkFinalTimer, execFunctionLevelReset, execCxlLinkDown,
      execPort1Flr, execCxlLinkTrained, execCxlCacheResponse, execHostSnoop, execGpfPhase1, execHdmDecoderCommit, execCxlMemRequest, execBirsp,
      execIdeIntegrityFailure, execUopIssue, execEndList, execStepEnd, execQueuePop, execTokenSend, execRotate, execTokenArrival, execE2eCreditReturn,
      execSteeringPairing, execSteeredTokenSend, execPressOperation, execVatClear, execConversionDrain, execShaperFunction, execSmx,
      execScaleFinderDrain, execStreamIssue, execReadDataArrival, execStreamRingPop, execStreamRingPush, execWriteAckArrival, execShadowWrite,
      execTallyRequestIssue, execTallyResendTimer, execTallyRequest, execTallyGrant, execLoadCompletion, execCaskImageLineWrite,
      execCfgCommitDeadline, execCfgAutoAbort, execFabricRequest, execFabricTimeout, execPortHoldEnd, execGenerationHoldExpiry, execBarrierKeepalive,
      execBarrierRoundLimit, execDvqReplayRequest, execDvqPacketReceive, execEgressPacketSend, execIdleWordReceive, execLossOfSignal,
      execTrainingRetryTimer, execTrainingNoSignal, execTrainingTimeout, execTrainingComplete, execCharterReceive, execCharterVerdict,
      execCableTemperaturePoll, execCableCooldownExpiry, execRetimerLockPoll, execCableHotJoinOrLoss, execCableBusSilent, execFabricPartSwitch,
      execMemoryErrorReport, execTileScrub, execTileIdleReport, execStepEndReport, execTilerDone, execFoldStepTimer, execFoldLead, execScheduleClock,
      execCaskSwitch, execPartitionRestart, execRecordCommit, execOperatingTimeSave, execFlitForward, execFlitReceive, execHopCreditReturn,
      execMeshReplayRequest, execStateChangeComplete, execSupplyWarningCrossing, execSupplyReturnTimer, execSupplyDipReportTimer,
      execThermalComparator105, execThermalLowerTimer, execThermalRaiseTimer, execThermalTrip, execPwrbrkNAssert, execPwrbrkReleaseTimer, execEpoN,
      execMetrizorSample, execVintagePlanTimer, execVintageAutoCommit, execSpdmRequest, execDoeRequest, execPldmRequest, execSidebandTmiCommand]
    repeat' split
    all_goals exact ⟨_, rfl⟩

theorem Sample.rated_iff (m : Sample) : m.rated = true ↔
    (m.railMv.getD 0 0 ≤ 2100 ∧ m.railMv.getD 1 0 ≤ 1400 ∧ m.railMv.getD 2 0 ≤ 1050 ∧ m.railMv.getD 3 0 ≤ 3700 ∧ ∀ x ∈ m.tj, x ≤ 1000) := by
  simp only [rated, Bool.and_eq_true, decide_eq_true_eq, List.all_eq_true, and_assoc]

theorem execPowerSample_unrated {m : Sample} (s : State) (unrated : m.rated = false) : execPowerSample m s = .fault .beyondRatings :=
  if_neg (by simp [unrated])

theorem execPowerSample_rated {m : Sample} (s : State) (rated : m.rated = true) :
    execPowerSample m s = .next (if s.pwrActive then State.follow { s with pwr := (s.pwr.read m).settleCeiling m.power } else s) := by
  rw [execPowerSample, if_pos rated]
  split_ifs <;> rfl

/-- Settles O46. -/
theorem onlySamplesBeyondTheRatingsFault : Obligations.OnlySamplesBeyondTheRatingsFault := by
  refine ⟨fun m s unrated => execPowerSample_unrated s unrated, Sample.rated_iff, fun i s => ?_⟩
  by_cases sample : ∃ m, i = .powerSample m
  · obtain ⟨m, rfl⟩ := sample
    cases rated : m.rated with
    | true => exact .inl ⟨_, execPowerSample_rated s rated⟩
    | false => exact .inr ⟨m, rfl, rated⟩
  · exact .inl (exec_safe (fun m eq => sample ⟨m, eq⟩) s)

/-- Settles O2: a tick with VIN_AUX moves these three parts, without it none. -/
theorem idleStepIsOneChipTick : Obligations.IdleStepIsOneChipTick := by
  intro s idle
  refine ⟨s.advanceTick, by rw [step, idle], ?_⟩
  unfold State.advanceTick
  cases aux : s.life.aux with
  | true => exact ⟨rfl, fun off => absurd off (by decide), rfl⟩
  | false => exact ⟨rfl, fun _ => rfl, rfl⟩

/-! ## Staging (R432, R466) -/

/-- Records staged one after the other are numbered on by 1. -/
theorem foldl_stageOne (rs : List RecSpec) (s : State) (low : s.evr.nextSeq < 2 ^ 32) :
    ∃ l : List Record, (rs.foldl State.stageOne s).evr.staging = s.evr.staging ++ l
      ∧ l.map Record.seq = (List.range rs.length).map (fun i => (s.evr.nextSeq + i) % 2 ^ 32)
      ∧ l.map (fun r => (r.rtype, r.cont, r.body)) = rs
      ∧ (rs.foldl State.stageOne s).evr.nextSeq = (s.evr.nextSeq + rs.length) % 2 ^ 32
      ∧ (rs.foldl State.stageOne s).evr.overflow = s.evr.overflow := by
  induction rs generalizing s with
  | nil => exact ⟨[], by simp, rfl, rfl, (Nat.mod_eq_of_lt low).symm, rfl⟩
  | cons r rs ih =>
    obtain ⟨l, staging, seqs, specs, next, overflow⟩ := ih (s.stageOne r) (Nat.mod_lt _ (by decide))
    have moved : (s.stageOne r).evr.nextSeq = (s.evr.nextSeq + 1) % 2 ^ 32 := rfl
    refine ⟨s.mkRecord r :: l, ?_, ?_, ?_, ?_, overflow⟩
    · rw [List.foldl_cons, staging]
      exact List.append_assoc ..
    · rw [List.map_cons, seqs, moved, List.length_cons, List.range_succ_eq_map, List.map_cons, List.map_map, add_zero, Nat.mod_eq_of_lt low]
      refine congrArg _ (List.map_congr_left fun i _ => ?_)
      simp only [Function.comp, Nat.mod_add_mod, Nat.succ_eq_add_one, Nat.add_right_comm, Nat.add_assoc]
    · rw [List.map_cons, specs]
      rfl
    · rw [List.foldl_cons, next, moved, Nat.mod_add_mod, List.length_cons, Nat.add_assoc, Nat.add_comm 1]

/-- After `stageLost` drops are owed only where there is no room. -/
theorem stageLost_dropped (s : State) (room : s.stageLost.evr.staging.length < 512) : s.stageLost.evr.dropped = 0 := by
  by_cases owed : 0 < s.evr.dropped ∧ s.evr.staging.length < stagingSize
  · rw [State.stageLost, if_pos owed]
  · rw [State.stageLost, if_neg owed] at room ⊢
    rw [stagingSize] at owed
    omega

section
variable {s : State} {rs : List RecSpec}

theorem stageGroup_of_room (room : s.stageSkipped.stageLost.evr.staging.length + rs.length ≤ 512) (some : rs ≠ []) :
    s.stageGroup rs = rs.foldl State.stageOne s.stageSkipped.stageLost := by
  have pos := List.length_pos_of_ne_nil some
  exact if_pos ⟨room, stageLost_dropped _ (by omega)⟩

theorem stageGroup_of_no_room (full : 512 < s.stageSkipped.stageLost.evr.staging.length + rs.length) :
    s.stageGroup rs = { s.stageSkipped.stageLost with evr := { s.stageSkipped.stageLost.evr with
      overflow := satAdd 32 s.stageSkipped.stageLost.evr.overflow rs.length
      dropAfter := (s.stageGroup rs).evr.dropAfter
      dropped := s.stageSkipped.stageLost.evr.dropped + rs.length } } := by
  have no : ¬ (s.stageSkipped.stageLost.evr.staging.length + rs.length ≤ stagingSize ∧ s.stageSkipped.stageLost.evr.dropped = 0) :=
    fun h => absurd h.1 (by rw [stagingSize]; omega)
  simp only [State.stageGroup, if_neg no]

end

theorem stageLost_of_owed {s : State} (owed : 0 < s.evr.dropped) (room : s.evr.staging.length < 512) :
    s.stageLost.evr.staging = s.evr.staging ++ [s.mkRecord (0x0013, false, lostBody 0 s.evr.dropped s.evr.dropAfter)] ∧ s.stageLost.evr.dropped = 0 := by
  rw [State.stageLost, if_pos ⟨owed, room⟩]
  exact ⟨rfl, rfl⟩

/-- Settles O58. -/
theorem stagingTakesAGroupWholeOrDropsIt : Obligations.StagingTakesAGroupWholeOrDropsIt := by
  rintro s u rs rfl some low
  refine ⟨fun room => ?whole, fun full => ?dropped, fun owed none room => ?lost⟩
  case whole =>
    rw [stageGroup_of_room room some]
    exact foldl_stageOne rs _ low
  case dropped =>
    rw [stageGroup_of_no_room full]
    exact ⟨rfl, rfl, rfl, rfl⟩
  case lost =>
    have asIs : s.stageSkipped = s := by rw [State.stageSkipped, none]
    rw [asIs]
    exact stageLost_of_owed owed room

/-! ## The checks of a submission (R202) -/

section
variable {s : State} {d : Bytes} {pn : Nat} {p : Partition}

theorem submitCheck_fields (bad : submitOk d = false) : submitCheck s d = .error svDesc := if_pos bad

variable (fields : submitOk d = true)
include fields

theorem submitCheck_no_slot (none : s.partOfSlot (fld d 2 0 6) = none) : submitCheck s d = .error svSlotEmpty := by
  rw [submitCheck, if_neg (by simp [fields]), none]

variable (slot : s.partOfSlot (fld d 2 0 6) = some (pn, p))
include slot

/-- The checks that remain once the slot has a partition. -/
theorem submitCheck_of_slot : submitCheck s d =
    if p.man.role = 2 ∨ p.st = .loading then .error svSlotEmpty
    else if p.man.shard ≠ 0 then .error svNotLeader
    else if (kget s.srv.keys (fld d 3 0 8)).isNone then .error svKey
    else if p.man.ctxMax < sdcPlen d + sdcMaxnew d then .error svShape
    else if (s.freeEntriesOf p).isEmpty then .error svTable
    else .ok (pn, p) := by
  rw [submitCheck, if_neg (by simp [fields]), slot]

end

theorem freeEntriesOf_isEmpty_iff (s : State) (p : Partition) : (s.freeEntriesOf p).isEmpty = true ↔ ∀ i ∈ p.share, (kget s.srv.reqs i).isSome := by
  simp [State.freeEntriesOf, List.isEmpty_iff, List.filter_eq_nil_iff, Option.isSome_iff_ne_none]

/-- Settles O36. -/
theorem submissionChecksRunInOrder : Obligations.SubmissionChecksRunInOrder := by
  refine ⟨fun s d bad => submitCheck_fields bad, fun s d fields none => submitCheck_no_slot fields none, ?_⟩
  intro s d pn p fields slot
  rw [submitCheck_of_slot fields slot]
  refine ⟨fun closed => if_pos closed, fun prefills loaded => ?_⟩
  rw [if_neg (not_or.2 ⟨prefills, loaded⟩)]
  refine ⟨fun follower => if_pos follower, fun leader noKey => ?_, fun leader key => ?_⟩
  · rw [if_neg (not_not.2 leader), if_pos (by simp [noKey])]
    rfl
  · rw [if_neg (not_not.2 leader), if_neg (by simpa [Option.isSome_iff_ne_none] using key)]
    refine ⟨fun long => if_pos long, fun fits => ?_⟩
    rw [if_neg fits.not_gt]
    refine ⟨fun full => if_pos ((freeEntriesOf_isEmpty_iff s p).2 full), ?_⟩
    rintro ⟨i, shared, free⟩
    exact if_neg fun empty => by simpa [free] using (freeEntriesOf_isEmpty_iff s p).1 empty i shared

/-! ## Arrivals at a barrier (R251, R269) -/

/-- A response to another node stands at most in an egress. -/
theorem respond_barriers {s : State} {req : Packet} (remote : req.src ≠ s.nodeId) (ptype st pidx : Nat) (last : Bool) (payload : Bytes) :
    (s.respond req ptype st pidx last payload).fab.barriers = s.fab.barriers := by
  unfold State.respond
  rw [if_neg remote]
  split <;> rfl

/-- R251: a BAR_ARRIVE carries nothing, so one with a length is refused before its round is looked at. -/
theorem serveArrive_of_length {s : State} {p : Packet} (fresh : s.staleRequest p = false) (length : p.len ≠ 0) :
    s.serveArrive p = s.respondErr p fsType := by
  simp only [State.serveArrive, fresh, Bool.false_eq_true, if_false, if_pos length]

/-- An awaited barrier of three nodes, none of them listed. -/
def emptyBarrier : Barrier := ⟨3, 1, 0, 1000, 0, [], 0⟩

/-- A chip at board 1 of rack 0, slot 0, in a fabric partition of generation 1 (slots 0 to 15, boards 0 and 1), home of barrier 0. -/
def barrierHome : State := { State.reset with fab := { Fabric.reset with
  yz := some (1, 0)
  gen := 1
  block := pack 16 [(0, 0, 16, 1), (2, 4, 4, 15), (5, 0, 6, 1), (8, 0, 7, 2), (9, 0, 7, 2)]
  barriers := [(0, emptyBarrier)] } }

/-- An arrival at barrier 0, round 0, from node 17 with a length of 1, where R251 asks for 0. -/
def longArrival : Packet := ⟨0x09, 1, 1, true, 0, 16, 17, 0, 1, 0, 0, []⟩

/-- Refutes O44: `longArrival` is of the round awaited and its node is not listed, but its length makes it a refused packet, so nothing is added.
The statement leaves out the condition that the packet's length is 0. -/
theorem not_barrierCountsEachParticipantOnce : ¬ Obligations.BarrierCountsEachParticipantOnce := by
  intro h
  have fresh : barrierHome.staleRequest longArrival = false := by decide +kernel
  have remote : longArrival.src ≠ barrierHome.nodeId := by decide +kernel
  obtain ⟨b, stands, listed, -⟩ := (h.1 barrierHome longArrival emptyBarrier fresh rfl remote).1 rfl (fun e mem => absurd mem List.not_mem_nil) (by decide)
  rw [serveArrive_of_length fresh (by decide), State.respondErr, respond_barriers remote] at stands
  cases stands
  exact absurd listed (by decide)

end Sys2Proof.Machine

/-!
# Routing, and what the stream engines hold (R74 to R86, R105, R125, R137)
-/
namespace Sys2Proof.Machine

/-! ## Routing (R79) -/

/-- The way along the row comes first, then the one along the column, then the tile itself. -/
theorem route_cases {t : Nat} {f : Flit} (bound : f.exit = 0) :
    (tileCol t < tileCol f.dst ∧ route t f = 2) ∨ (tileCol f.dst < tileCol t ∧ route t f = 3)
      ∨ (tileCol t = tileCol f.dst ∧ tileRow t < tileRow f.dst ∧ route t f = 1) ∨ (tileCol t = tileCol f.dst ∧ tileRow f.dst < tileRow t ∧ route t f = 0)
      ∨ (tileCol t = tileCol f.dst ∧ tileRow t = tileRow f.dst ∧ route t f = 4) := by
  rw [route, bound]
  split_ifs with east west south north
  · exact .inl ⟨east, rfl⟩
  · exact .inr (.inl ⟨west, rfl⟩)
  · exact .inr (.inr (.inl ⟨by omega, south, rfl⟩))
  · exact .inr (.inr (.inr (.inl ⟨by omega, north, rfl⟩)))
  · exact .inr (.inr (.inr (.inr ⟨by omega, by omega, rfl⟩)))

theorem farEnd_east {t : Nat} (inside : tileCol t ≠ 63) : farEnd t 2 = some (t + 32, 3) := if_neg inside
theorem farEnd_west {t : Nat} (inside : tileCol t ≠ 0) : farEnd t 3 = some (t - 32, 2) := if_neg inside
theorem farEnd_south {t : Nat} (inside : tileRow t ≠ 31) : farEnd t 1 = some (t + 1, 0) := if_neg inside
theorem farEnd_north {t : Nat} (inside : tileRow t ≠ 0) : farEnd t 0 = some (t - 1, 1) := if_neg inside

/-- Settles O33: in each direction that `route_cases` leaves, the neighbour exists and one coordinate comes one nearer. -/
theorem routeNeverLeadsAway : Obligations.RouteNeverLeadsAway := by
  intro t f inArray dstInArray bound
  have colT : tileCol t = t / 32 := rfl
  have rowT : tileRow t = t % 32 := rfl
  have colD : tileCol f.dst = f.dst / 32 := rfl
  have rowD : tileRow f.dst = f.dst % 32 := rfl
  refine ⟨fun here => ?_, fun away => ?_⟩
  · subst here
    have stays := route_cases (t := f.dst) bound
    omega
  · simp only [Nat.dist]
    obtain ⟨east, eq⟩ | ⟨west, eq⟩ | ⟨col, south, eq⟩ | ⟨col, north, eq⟩ | ⟨col, row, -⟩ := route_cases (t := t) bound
    · exact ⟨t + 32, 3, by rw [eq, farEnd_east (by omega)], by unfold tileCol tileRow; omega, fun _ => by unfold tileRow; omega⟩
    · exact ⟨t - 32, 2, by rw [eq, farEnd_west (by omega)], by unfold tileCol tileRow; omega, fun _ => by unfold tileRow; omega⟩
    · exact ⟨t + 1, 0, by rw [eq, farEnd_south (by omega)], by unfold tileCol tileRow; omega, fun other => absurd col other⟩
    · exact ⟨t - 1, 1, by rw [eq, farEnd_north (by omega)], by unfold tileCol tileRow; omega, fun other => absurd col other⟩
    · omega

/-! ## The local injection port leaves the casks alone -/

theorem modTile_casks (s : State) (t u : Nat) {f : Tile → Tile} (keeps : ∀ x, (f x).casks = x.casks) : ((s.modTile t f).tile u).casks = (s.tile u).casks := by
  by_cases same : u = t
  · subst same
    rw [State.modTile, setTile_tile, keeps]
  · rw [State.modTile, setTile_tile_ne _ _ _ _ same]

theorem enterLocal_casks (s : State) (t u e : Nat) (f : Flit) (r : Bool) : ((s.enterLocal t e f r).tile u).casks = (s.tile u).casks :=
  modTile_casks s t u (f := fun x => { x with inject := x.inject.erase (e, f), served := if e < 4 then e else x.served }) fun _ => rfl

theorem fillLocal_casks (s : State) (t u n : Nat) : ((s.fillLocal t n).tile u).casks = (s.tile u).casks := by
  induction n generalizing s with
  | zero => rfl
  | succ n ih =>
    rw [State.fillLocal]
    split
    · rw [ih, enterLocal_casks]
    · rfl

@[simp] theorem injectBy_casks (s : State) (t u e : Nat) (fs : List Flit) : ((s.injectBy t e fs).tile u).casks = (s.tile u).casks := by
  rw [State.injectBy, fillLocal_casks]
  exact modTile_casks s t u fun _ => rfl

@[simp] theorem injectBy_cask (s : State) (t u e c : Nat) (fs : List Flit) : ((s.injectBy t e fs).tile u).cask c = (s.tile u).cask c := by
  rw [Tile.cask, injectBy_casks, Tile.cask]

theorem modCask_of_some {s : State} {t c : Nat} {k : CaskCtx} (f : CaskCtx → CaskCtx) (resident : (s.tile t).cask c = some k) :
    s.modCask t c f = s.setTile t ((s.tile t).setCask c (f k)) := by
  rw [State.modCask, resident]

@[simp] theorem setCask_cask (x : Tile) (c : Nat) (k : CaskCtx) : (x.setCask c k).cask c = some k := kget_kput _ _ _

/-! ## Tokens (R75, R86, R105) -/

theorem moved_tiles (s : State) (t c : Nat) : (s.moved t c).tiles = s.tiles := by
  unfold State.moved
  split <;> rfl

@[simp] theorem moved_tile (s : State) (t c u : Nat) : (s.moved t c).tile u = s.tile u := by rw [State.tile, moved_tiles, State.tile]

theorem payload64_length (b : Bytes) : (payload64 b).length = 64 := by
  rw [payload64, List.length_take, List.length_append, List.length_replicate]
  omega

theorem payloads_ne_nil (b : Bytes) : payloads b ≠ [] := by
  rw [payloads, Ne, List.map_eq_nil_iff, List.range_eq_nil]
  omega

section
variable (src dst cls cask qid seq : Nat) (data : Bytes)

theorem tokenFlits_length : (tokenFlits src dst cls cask qid seq data).length = (payloads data).length := by
  rw [tokenFlits, List.length_map, List.length_zipIdx]

theorem tokenFlits_ne_nil : tokenFlits src dst cls cask qid seq data ≠ [] := by
  rw [← List.length_pos_iff, tokenFlits_length]
  exact List.length_pos_of_ne_nil (payloads_ne_nil data)

/-- Flit i of a token is of its number, and the last one alone says so (R86). -/
theorem tokenFlits_getElem {i : Nat} (h : i < (tokenFlits src dst cls cask qid seq data).length) :
    ∃ b, (tokenFlits src dst cls cask qid seq data)[i] = mkFlit src dst 0 cls cask 6 qid seq (i + 1 == (tokenFlits src dst cls cask qid seq data).length) b := by
  refine ⟨(payloads data)[i]'(by rwa [← tokenFlits_length src dst cls cask qid seq data]), ?_⟩
  simp only [tokenFlits_length]
  simp only [tokenFlits, List.getElem_map, List.getElem_zipIdx, Nat.zero_add]

theorem tokenFlits_fields (f : Flit) (mem : f ∈ tokenFlits src dst cls cask qid seq data) :
    f.seq = seq ∧ f.kind = 6 ∧ f.vc = 2 ∧ f.payload.length = 64 := by
  obtain ⟨i, h, rfl⟩ := List.mem_iff_getElem.1 mem
  obtain ⟨b, eq⟩ := tokenFlits_getElem src dst cls cask qid seq data h
  rw [eq]
  exact ⟨rfl, rfl, rfl, payload64_length b⟩

theorem tokenFlits_dropLast (f : Flit) (mem : f ∈ (tokenFlits src dst cls cask qid seq data).dropLast) : f.last = false := by
  obtain ⟨i, h, rfl⟩ := List.mem_iff_getElem.1 mem
  rw [List.length_dropLast] at h
  obtain ⟨b, eq⟩ := tokenFlits_getElem src dst cls cask qid seq data (i := i) (by omega)
  rw [List.getElem_dropLast, eq]
  exact beq_false_of_ne (by omega)

theorem tokenFlits_getLast (f : Flit) (mem : f ∈ (tokenFlits src dst cls cask qid seq data).getLast?) : f.last = true := by
  have pos := List.length_pos_of_ne_nil (tokenFlits_ne_nil src dst cls cask qid seq data)
  obtain ⟨b, eq⟩ := tokenFlits_getElem src dst cls cask qid seq data (i := _ - 1) (Nat.sub_one_lt_of_lt pos)
  rw [List.getLast?_eq_getElem?, List.getElem?_eq_getElem (Nat.sub_one_lt_of_lt pos), Option.mem_some_iff, eq] at mem
  subst mem
  exact beq_iff_eq.2 (by omega)

end

/-- The context of a cask that has sent a token on edge `n`. -/
def CaskCtx.spend (k : CaskCtx) (n : Nat) (ed : Edge) : CaskCtx := { k with edges := kput k.edges n ⟨ed.credits - 1, (ed.seq + 1) % 256⟩ }

theorem sendToken_eq {s : State} {t c n : Nat} {k : CaskCtx} {ed : Edge} (d : Bytes) (resident : (s.tile t).cask c = some k) (edge : kget k.edges n = some ed) :
    s.sendToken t c n d = ((s.setTile t ((s.tile t).setCask c (k.spend n ed))).moved t c).injectBy t (eeEng (imgEdge k.image n))
      (tokenFlits t (eeTile (imgEdge k.image n)) (eeCls (imgEdge k.image n)) c (eeQid (imgEdge k.image n)) ed.seq d) := by
  simp only [State.sendToken, resident, edge, modCask_of_some _ resident]
  rfl

/-- Settles O27. -/
theorem tokenSendSpendsOneCredit : Obligations.TokenSendSpendsOneCredit := by
  intro s t c n d k ed resident edge _
  refine ⟨k.spend n ed, _, _, sendToken_eq d resident edge, ?cask, kget_kput _ _ _, fun m other => kget_kput_ne _ _ _ _ other, moved_tiles _ _ _,
    tokenFlits_ne_nil _ _ _ _ _ _ _, fun f => tokenFlits_fields _ _ _ _ _ _ _ f, fun f => tokenFlits_dropLast _ _ _ _ _ _ _ f,
    fun f => tokenFlits_getLast _ _ _ _ _ _ _ f⟩
  case cask =>
    rw [sendToken_eq d resident edge, injectBy_cask, moved_tile, setTile_tile, setCask_cask]

/-! ## Reads outstanding (R74) -/

/-- Storing under a key that holds a value puts the new one in its place. -/
theorem kput_of_some {α : Type} {m : KMap α} {k : Nat} {v : α} (w : α) (held : kget m k = some v) :
    ∃ front back, m = front ++ (k, v) :: back ∧ kput m k w = front ++ (k, w) :: back := by
  induction m with
  | nil => simp [kget] at held
  | cons e m ih =>
    obtain ⟨j, x⟩ := e
    rw [kget] at held
    split_ifs at held with same below
    · cases held
      subst same
      exact ⟨[], m, rfl, by simp [kput]⟩
    · obtain ⟨front, back, was, is⟩ := ih held
      exact ⟨(j, x) :: front, back, by rw [was, List.cons_append], by rw [kput, if_neg below, if_neg same, is, List.cons_append]⟩

/-- Reads that a cask's stream of engine `e` holds outstanding. -/
def CaskCtx.reads (k : CaskCtx) (e : Nat) : Nat := match kget k.streams e with | some g => g.outstanding | none => 0

theorem engineReads_eq (x : Tile) (e : Nat) : x.engineReads e = (x.casks.map fun k => k.2.reads e).sum := rfl

theorem engineReads_of_casks {x y : Tile} (e : Nat) (same : x.casks = y.casks) : x.engineReads e = y.engineReads e := by
  rw [engineReads_eq, engineReads_eq, same]

/-- A cask whose stream gains at most one read adds at most one to the engine's. -/
theorem engineReads_setCask_le {x : Tile} {c e : Nat} {k k' : CaskCtx} (resident : x.cask c = some k) (gain : k'.reads e ≤ k.reads e + 1) :
    (x.setCask c k').engineReads e ≤ x.engineReads e + 1 := by
  obtain ⟨front, back, was, is⟩ := kput_of_some k' resident
  have casks : (x.setCask c k').casks = front ++ (c, k') :: back := is
  rw [engineReads_eq, engineReads_eq, casks, was]
  simp only [List.map_append, List.map_cons, List.sum_append, List.sum_cons]
  omega

@[simp] theorem await_outstanding (g : Stream) (slot line : Nat) : (g.await slot line).outstanding = g.outstanding := rfl

@[simp] theorem issueNext_outstanding (g : Stream) : g.issueNext.outstanding = g.outstanding := by
  simp only [Stream.issueNext, Stream.rearm]
  split_ifs <;> rfl

/-- An issue is refused at 64, or sets one stream, which gains one read, and hands its request to the engine. -/
theorem issueRead_cases (s : State) (t c e : Nat) (g : Stream) :
    (64 ≤ (s.tile t).engineReads e ∧ s.issueRead t c e g = s)
      ∨ ((s.tile t).engineReads e < 64 ∧ ∃ g' f, g'.outstanding = g.outstanding + 1 ∧ s.issueRead t c e g = (s.setStream t c e g').injectBy t e [f]) := by
  simp only [State.issueRead]
  split_ifs with full
  · exact .inl ⟨full, rfl⟩
  · exact .inr ⟨not_le.1 full, _, _, by rw [issueNext_outstanding]; rfl, rfl⟩
  · exact .inr ⟨not_le.1 full, _, _, rfl, rfl⟩

theorem setStream_of_streamAt {s : State} {t c e : Nat} {g : Stream} (g' : Stream) (stream : s.streamAt t c e = some g) :
    ∃ k, (s.tile t).cask c = some k ∧ kget k.streams e = some g
      ∧ s.setStream t c e g' = s.setTile t ((s.tile t).setCask c { k with streams := kput k.streams e g' }) := by
  obtain ⟨k, resident, held⟩ := Option.bind_eq_some_iff.1 stream
  exact ⟨k, resident, held, modCask_of_some _ resident⟩

/-- Settles O29: an issue below 64 adds one read, an issue at 64 none. -/
theorem engineHoldsAtMost64Reads : Obligations.EngineHoldsAtMost64Reads := by
  intro s t c e g stream most
  obtain ⟨-, eq⟩ | ⟨room, g', f, one, eq⟩ := issueRead_cases s t c e g
  · rwa [eq]
  · obtain ⟨k, resident, held, set⟩ := setStream_of_streamAt g' stream
    have gain : CaskCtx.reads { k with streams := kput k.streams e g' } e ≤ k.reads e + 1 := by
      rw [CaskCtx.reads, CaskCtx.reads, kget_kput, held]
      exact one.le
    rw [eq, engineReads_of_casks e (injectBy_casks ..), set, setTile_tile]
    exact (engineReads_setCask_le resident gain).trans room

end Sys2Proof.Machine

/-! # The power ceiling -/
namespace Sys2Proof.Machine

theorem max_cPow_cur_le {p : Power} (pow : p.cPow ≤ 4) (cur : p.cur ≤ 4) : max p.cPow p.cur ≤ 4 := max_le pow cur

/-- A lowering at P4 changes nothing; below it the ceiling falls one state below the lower of ceiling and present state. -/
theorem lower_cases (p : Power) :
    (4 ≤ max p.cPow p.cur ∧ p.lower = p)
      ∨ (max p.cPow p.cur < 4 ∧ p.lower = { p with cPow := max p.cPow p.cur + 1, nLim := satAdd 32 p.nLim 1, sinceLower := 0 }) := by
  unfold Power.lower
  split_ifs with least
  · exact .inl ⟨least, rfl⟩
  · exact .inr ⟨not_le.1 least, rfl⟩

/-- What a raise needs (R353), of its conditions those the statement names. -/
theorem mayRaise_needs {p : Power} (raises : p.mayRaise = true) : 0 < p.cPow ∧ p.dip = false ∧ 1000 ≤ p.sinceLower ∧ p.projects = true := by
  simp only [Power.mayRaise, Bool.and_eq_true, decide_eq_true_eq, Bool.not_eq_true'] at raises
  obtain ⟨⟨⟨⟨⟨above, dip⟩, -⟩, projects⟩, since⟩, -⟩ := raises
  exact ⟨above, dip, since, projects⟩

/-- A sample above 3,300 W lowers the ceiling at once. -/
theorem lowers_of_3300 {power : Nat} (run : Nat) (above : 3300 * 10000 * 100 < power * 102) : lowers power run = true := by
  rw [lowers, overLimit, decide_eq_true above, Bool.true_or]

/-- Settles O47, by the three cases of a sample: it lowers the ceiling, it raises it, or it leaves it. -/
theorem powerCeilingMovesOneStateAtATime : Obligations.PowerCeilingMovesOneStateAtATime := by
  intro p m pow cur q
  have most := max_cPow_cur_le pow cur
  by_cases lower : lowers m.power (p.read m).overRun = true
  · have q_eq : q = (p.read m).lower := if_pos lower
    rcases lower_cases (p.read m) with ⟨least, same⟩ | ⟨room, fell⟩
    · have least : max p.cPow p.cur = 4 := le_antisymm most least
      rw [q_eq, same]
      exact ⟨pow, Nat.le_succ _, fun h => absurd h (lt_irrefl _), fun h => absurd h (lt_irrefl _), fun _ => .inr ⟨least, rfl⟩, rfl, rfl, rfl, rfl, rfl⟩
    · have room : max p.cPow p.cur < 4 := room
      have above : p.cPow < max p.cPow p.cur + 1 := by omega
      rw [q_eq, fell]
      exact ⟨room, by simp only [Power.read]; omega, fun h => absurd h (Nat.lt_asymm above), fun _ => ⟨rfl, rfl⟩,
        fun _ => .inl (min_eq_right room).symm, rfl, rfl, rfl, rfl, rfl⟩
  · have at_most : m.power * 102 ≤ 3300 * 10000 * 100 := not_lt.1 fun above => lower (lowers_of_3300 _ above)
    by_cases raises : (p.read m).mayRaise = true
    · have q_eq : q = { p.read m with cPow := p.cPow - 1 } := (if_neg lower).trans (if_pos raises)
      obtain ⟨above, dip, since, projects⟩ := mayRaise_needs raises
      have above : 0 < p.cPow := above
      have falls : p.cPow - 1 + 1 = p.cPow := Nat.sub_add_cancel above
      rw [q_eq]
      exact ⟨(Nat.sub_le _ _).trans pow, falls.ge, fun _ => ⟨falls, dip, since, at_most, projects⟩, fun h => absurd h (Nat.sub_le _ _).not_gt,
        fun h => absurd h at_most.not_gt, rfl, rfl, rfl, rfl, rfl⟩
    · have q_eq : q = p.read m := (if_neg lower).trans (if_neg raises)
      rw [q_eq]
      exact ⟨pow, Nat.le_succ _, fun h => absurd h (lt_irrefl _), fun h => absurd h (lt_irrefl _), fun h => absurd h at_most.not_gt, rfl, rfl, rfl, rfl, rfl⟩

/-! ## What a function-level reset keeps (R392) -/

/-- The components that no answer of the chip reaches: the tiers, the clocks, the power controller, the device state, the recorder's ring and the chip's
place in the fabric. -/
def State.lasting (s : State) := (s.mem, s.clk, s.pwr, s.life.dev, s.evr.ring, s.fab.yz, s.fab.gen, s.fab.block)

theorem MailboxOnly.lasting {s t : State} (only : MailboxOnly s t) : t.lasting = s.lasting := by
  rw [MailboxOnly] at only
  rw [only]
  rfl

/-! ### The tiles' own reports -/

@[simp] theorem modTile_lasting (s : State) (t : Nat) (f : Tile → Tile) : (s.modTile t f).lasting = s.lasting := rfl

@[simp] theorem modPart_lasting (s : State) (n : Nat) (f : Partition → Partition) : (s.modPart n f).lasting = s.lasting := rfl

@[simp] theorem fillLocal_lasting (s : State) (t n : Nat) : (s.fillLocal t n).lasting = s.lasting := by
  induction n generalizing s with
  | zero => rfl
  | succ n ih =>
    rw [State.fillLocal]
    split
    · exact ih _
    · rfl

@[simp] theorem inject_lasting (s : State) (t : Nat) (fs : List Flit) : (s.inject t fs).lasting = s.lasting := fillLocal_lasting ..

@[simp] theorem idleReport_lasting (s : State) (t : Nat) : (s.idleReport t).lasting = s.lasting := by
  simp only [State.idleReport]
  split_ifs <;> simp

@[simp] theorem modTiles_lasting (s : State) (ts : List Nat) (f : Nat → Tile → Tile) : (s.modTiles ts f).lasting = s.lasting :=
  foldl_keeps State.lasting (fun s t => s.modTile t (f t)) (fun _ _ => rfl) ts s

@[simp] theorem stopClock_lasting (s : State) (pn : Nat) : (s.stopClock pn).lasting = s.lasting := by
  unfold State.stopClock
  split
  · split_ifs
    · simp [foldl_keeps State.lasting]
    · rfl
  · rfl

/-! ### The recorder's staging and the mailbox's notices -/

@[simp] theorem stageSkipped_lasting (s : State) : s.stageSkipped.lasting = s.lasting := by
  unfold State.stageSkipped
  split <;> rfl

@[simp] theorem stageLost_lasting (s : State) : s.stageLost.lasting = s.lasting := by
  unfold State.stageLost
  split_ifs <;> rfl

@[simp] theorem stageGroup_lasting (s : State) (rs : List RecSpec) : (s.stageGroup rs).lasting = s.lasting := by
  have kept (s : State) : s.stageSkipped.stageLost.lasting = s.lasting := (stageLost_lasting _).trans (stageSkipped_lasting s)
  simp only [State.stageGroup]
  split_ifs
  · exact (foldl_keeps State.lasting State.stageOne (fun _ _ => rfl) _ _).trans (kept s)
  all_goals exact kept s

@[simp] theorem stage_lasting (s : State) (rtype : Nat) (body : Bytes) : (s.stage rtype body).lasting = s.lasting := stageGroup_lasting ..

theorem notice_mailboxOnly (s : State) (code evseq : Nat) (result : Bytes) : MailboxOnly s (s.notice code evseq result) := by
  unfold State.notice State.deliverNotice
  split_ifs
  · rfl
  · split
    · exact writeEntry_mailboxOnly ..
    · rfl
  all_goals rfl

@[simp] theorem notice_lasting (s : State) (code evseq : Nat) (result : Bytes) : (s.notice code evseq result).lasting = s.lasting :=
  (notice_mailboxOnly ..).lasting

@[simp] theorem ringError_lasting (s : State) (src ring value : Nat) : (s.ringError src ring value).lasting = s.lasting := notice_lasting ..

@[simp] theorem msix_lasting (s : State) (vec : Nat) : (s.msix vec).lasting = s.lasting := (msix_mailboxOnly s vec).lasting

@[simp] theorem finish_lasting (s : State) (src : CmdSrc) (cid op cls st evseq : Nat) (result : Bytes) :
    (s.finish src cid op cls st evseq result).lasting = s.lasting := (finish_mailboxOnly ..).lasting

/-! ### Requests that end -/

@[simp] theorem ringVector_lasting (s : State) (ring vec : Nat) : (s.ringVector ring vec).lasting = s.lasting := by
  unfold State.ringVector
  split_ifs
  · rfl
  · exact msix_lasting s vec

@[simp] theorem freeReq_lasting (s : State) (ridx : Nat) : (s.freeReq ridx).lasting = s.lasting := by
  unfold State.freeReq
  split <;> rfl

@[simp] theorem stopOutRing_lasting (s : State) (ring : Nat) : (s.stopOutRing ring).lasting = s.lasting := by
  unfold State.stopOutRing
  split
  · next r _ =>
    let t : State := { s with srv := { s.srv with outs := kput s.srv.outs ring { r with stopped := true } } }
    have freed (l : List Nat) : (l.foldl State.freeReq (t.ringError 6 ring 0)).lasting = s.lasting :=
      (foldl_keeps State.lasting _ (fun _ _ => by simp) _ _).trans (by simp; rfl)
    rw [stage_lasting, ← freed (((t.ringError 6 ring 0).srv.reqs.filter fun e => e.2.oring == ring).map Prod.fst)]
    simp only [State.lasting]
    split_ifs <;> rfl
  · rfl

@[simp] theorem writeRecord_lasting (s : State) (ring : Nat) (rec : Bytes) : (s.writeRecord ring rec).lasting = s.lasting := by
  unfold State.writeRecord
  split
  · dsimp only
    split_ifs
    · rfl
    · exact stopOutRing_lasting s ring
    · exact ringVector_lasting ..
    · rfl
  · rfl

@[simp] theorem modReq_lasting (s : State) (ridx : Nat) (f : Req → Req) : (s.modReq ridx f).lasting = s.lasting := rfl

@[simp] theorem endReq_lasting (s : State) (ridx st : Nat) : (s.endReq ridx st).lasting = s.lasting := by
  unfold State.endReq
  split <;> simp

@[simp] theorem abortReq_lasting (s : State) (ridx : Nat) : (s.abortReq ridx).lasting = s.lasting := by
  unfold State.abortReq
  split
  · split_ifs <;> simp
  · rfl

@[simp] theorem abortStep_lasting (s : State) (pn : Nat) : (s.abortStep pn).lasting = s.lasting := by
  unfold State.abortStep
  split
  · split
    · simp [foldl_keeps State.lasting]
    · rfl
  · rfl

/-! ### Answers over the fabric -/

@[simp] theorem tileFailed_lasting (s : State) (t c e seq : Nat) (read : Bool) : (s.tileFailed t c e seq read).lasting = s.lasting := by
  simp only [State.tileFailed]
  split <;> simp

@[simp] theorem forward_lasting (s : State) (u : FabUser) (cls : Nat) (data : Option Bytes) : (s.forward u cls data).lasting = s.lasting := by
  cases u with
  | stream t c e seq exit =>
    cases data with
    | some b => exact foldl_keeps State.lasting (fun s p => s.rimSend t exit _) (fun _ _ => rfl) (payloads b) s
    | none => rfl
  | _ => rfl

@[simp] theorem endTx_lasting (s : State) (t : FabTx) (st : Nat) (data : Bytes) : (s.endTx t st data).lasting = s.lasting := by
  simp only [State.endTx]
  split
  · split_ifs
    · exact forward_lasting ..
    · exact forward_lasting ..
    · exact tileFailed_lasting ..
  all_goals rfl

@[simp] theorem forwardArrival_lasting (s : State) (u : FabUser) (cls st : Nat) : (s.forwardArrival u cls st).lasting = s.lasting := by
  unfold State.forwardArrival
  split
  · split_ifs <;> simp
  all_goals rfl

@[simp] theorem endArrival_lasting (s : State) (a : Arrival) (st : Nat) : (s.endArrival a st).lasting = s.lasting := forwardArrival_lasting ..

@[simp] theorem arrivalAnswer_lasting (s : State) (a : Arrival) (st : Nat) : (s.arrivalAnswer a st).lasting = s.lasting := by
  unfold State.arrivalAnswer
  split_ifs
  · rfl
  · rfl
  all_goals exact endArrival_lasting ..

@[simp] theorem closeTx_lasting (s : State) (t : FabTx) (st : Nat) (data : Bytes) : (s.closeTx t st data).lasting = s.lasting := by
  unfold State.closeTx State.endArrive
  split_ifs
  · split
    · exact arrivalAnswer_lasting ..
    · rfl
  · rfl
  · exact endTx_lasting ..

@[simp] theorem takeResponse_lasting (s : State) (t : FabTx) (p : Packet) : (s.takeResponse t p).lasting = s.lasting := by
  simp only [State.takeResponse]
  split_ifs
  · exact closeTx_lasting ..
  · rfl
  · exact closeTx_lasting ..
  · rfl
  all_goals exact closeTx_lasting ..

@[simp] theorem respond_lasting (s : State) (req : Packet) (ptype st pidx : Nat) (last : Bool) (payload : Bytes) :
    (s.respond req ptype st pidx last payload).lasting = s.lasting := by
  unfold State.respond
  split_ifs
  · split
    · exact takeResponse_lasting ..
    · rfl
  all_goals split <;> rfl

@[simp] theorem respondErr_lasting (s : State) (req : Packet) (st : Nat) : (s.respondErr req st).lasting = s.lasting := respond_lasting ..

@[simp] theorem endSideband_lasting (s : State) : s.endSideband.lasting = s.lasting :=
  foldl_keeps State.lasting (fun s r => s.finishRun r stAbortedReset []) (fun _ _ => finish_lasting ..) _ s

/-! ### Host-tier lines written back (R392 step 3) -/

/-- What a write to the host tier leaves of the memory: the near tier and the unit map. -/
def Memory.nearAndMap (m : Memory) := (m.near, m.badNear, m.map)

theorem storeBelow_nearAndMap (m : Memory) (a : Nat) {e : UnitEntry} (b : Bytes) (host : e.tier = 2) : (m.storeBelow a e b).nearAndMap = m.nearAndMap := by
  simp [Memory.storeBelow, Memory.source, host, Memory.tierWrite, Memory.setLineBad, Memory.nearAndMap]

/-- A line of `hostLines` is of a unit on the host tier. -/
theorem tier_of_mem_hostLines {m : Memory} {l : RimLine} (mem : l ∈ m.hostLines) {e : UnitEntry} (entry : m.entry (l.line / 1024) = some e) : e.tier = 2 := by
  simp only [Memory.hostLines, List.mem_flatMap, List.mem_filterMap] at mem
  obtain ⟨r, -, w, -, held⟩ := mem
  cases w with
  | none => cases held
  | some l' =>
    dsimp only at held
    split at held
    · next e' entry' =>
      split_ifs at held with host
      cases held
      rw [entry] at entry'
      cases entry'
      exact host
    · cases held

/-- One line written back where it is dirty and the host has not taken it (the step of `releaseHostLines`). -/
def Memory.writeBack (m : Memory) (l : RimLine) : Memory :=
  match m.entry (l.line / 1024) with
  | some e => if l.dirty && !l.held then m.storeBelow (64 * l.line) e l.data else m
  | none => m

theorem foldl_writeBack_nearAndMap (m : Memory) : (m.hostLines.foldl Memory.writeBack m).nearAndMap = m.nearAndMap := by
  refine List.foldlRecOn (motive := fun n => Memory.nearAndMap n = m.nearAndMap) m.hostLines Memory.writeBack rfl fun n same l mem => ?_
  have entry : n.entry (l.line / 1024) = m.entry (l.line / 1024) := congrArg (fun (x : _ × _ × _) => kget x.2.2 (l.line / 1024)) same
  unfold Memory.writeBack
  split
  · next e held =>
    split_ifs
    · exact (storeBelow_nearAndMap n _ _ (tier_of_mem_hostLines mem (entry ▸ held))).trans same
    · exact same
  · exact same

/-- `lasting` with the near tier in place of the whole memory: what a release of the host-tier lines keeps too. -/
def State.lastingNear (s : State) := (s.mem.near, s.mem.badNear, s.lasting.2)

theorem releaseHostLines_lastingNear (s : State) : s.releaseHostLines.lastingNear = s.lastingNear := by
  unfold State.releaseHostLines
  split_ifs
  · rfl
  · have near := foldl_writeBack_nearAndMap s.mem
    exact congrArg (fun (x : _ × _ × _) => (x.1, x.2.1, s.lasting.2)) near

theorem lastingNear_of_lasting {s t : State} (same : t.lasting = s.lasting) : t.lastingNear = s.lastingNear :=
  congrArg (fun x => (x.1.near, x.1.badNear, x.2)) same

/-! ### The notices of loads cut off -/

/-- No ring pair exists and no command is in progress: a notice then changes neither. -/
theorem notice_of_no_pairs {s : State} (code evseq : Nat) (result : Bytes) (none : s.tmi.pairs = []) :
    (s.notice code evseq result).tmi.pairs = [] ∧ (s.notice code evseq result).tmi.running = s.tmi.running := by
  have room : s.noticeRoom = false := by simp [State.noticeRoom, none, kget]
  unfold State.notice
  rw [room]
  split_ifs <;> simp_all [kmod, kget]

theorem tellInterrupted_mailboxOnly (s : State) : MailboxOnly { s with life := { s.life with interrupted := [] } } s.tellInterrupted :=
  MailboxOnly.foldl (fun _ _ => notice_mailboxOnly ..) _ _

theorem tellInterrupted_of_no_pairs {s : State} (none : s.tmi.pairs = []) :
    s.tellInterrupted.tmi.pairs = [] ∧ s.tellInterrupted.tmi.running = s.tmi.running := by
  refine List.foldlRecOn (motive := fun t : State => t.tmi.pairs = [] ∧ t.tmi.running = s.tmi.running) _ _ ⟨none, rfl⟩ fun t ⟨pairs, running⟩ e _ => ?_
  have told := notice_of_no_pairs (s := t) 0x000D 0xFFFFFFFF (interruptedBytes e.1 e.2) pairs
  exact ⟨told.1, told.2.trans running⟩

/-! ### The reset itself -/

/-- The state of a function-level reset in OPEN once every host-tier line and every peer's request has its answer (R392 steps 1 to 4). -/
def State.flrAnswered (s : State) : State :=
  s.endSideband.releaseHostLines.callBackAll.fab.ops.foldl (fun s o => s.respondErr o.req fsUnbacked) s.endSideband.releaseHostLines.callBackAll

theorem flrAnswered_lastingNear (s : State) : s.flrAnswered.lastingNear = s.lastingNear :=
  calc s.flrAnswered.lastingNear
    _ = s.endSideband.releaseHostLines.callBackAll.lastingNear :=
      lastingNear_of_lasting (foldl_keeps State.lasting (fun s (o : PeerOp) => s.respondErr o.req fsUnbacked) (fun _ _ => respondErr_lasting ..) _ _)
    _ = s.endSideband.releaseHostLines.lastingNear := rfl
    _ = s.endSideband.lastingNear := releaseHostLines_lastingNear _
    _ = s.lastingNear := lastingNear_of_lasting (endSideband_lasting s)

/-- Settles O51: what is cleared is set by the reset's last step, which nothing but notices follows; what is kept, every step of it keeps. -/
theorem functionLevelResetKeepsAndClears : Obligations.FunctionLevelResetKeepsAndClears := by
  intro s t up opened ends
  have next : exec .functionLevelReset s = .next (s.flrOpen false) := (if_pos up).trans (congrArg _ (if_pos opened))
  obtain rfl : s.flrOpen false = t := Host.Outcome.next.inj (next.symm.trans ends)
  have kept := flrAnswered_lastingNear s
  simp only [State.lastingNear, State.lasting, Prod.mk.injEq] at kept
  obtain ⟨near, badNear, clk, pwr, dev, ring, yz, gen, block⟩ := kept
  obtain ⟨pairs, running⟩ : (s.flrOpen false).tmi.pairs = [] ∧ (s.flrOpen false).tmi.running = [] := tellInterrupted_of_no_pairs rfl
  have only : MailboxOnly _ (s.flrOpen false) := tellInterrupted_mailboxOnly _
  refine ⟨congrArg State.parts only, congrArg State.cfg only, congrArg State.srv only, pairs, running, congrArg (·.mem.map) only,
    congrArg (·.mem.extents) only, congrArg (·.fab.txs) only, congrArg (·.fab.barriers) only, congrArg (·.cxl.hdm) only, congrArg (·.ident.nonce) only,
    congrArg (·.evr.frozenTmi) only, congrArg (·.evr.frozenSide) only, (congrArg (·.fab.yz) only).trans yz, (congrArg (·.fab.gen) only).trans gen,
    (congrArg (·.fab.block) only).trans block, (congrArg (·.evr.ring) only).trans ring, (State_flrOpen_keeps s false).2, (congrArg State.pwr only).trans pwr,
    (congrArg (·.life.dev) only).trans (dev.trans opened), (congrArg State.clk only).trans clk, (congrArg (·.mem.near) only).trans near,
    (congrArg (·.mem.badNear) only).trans badNear⟩

end Sys2Proof.Machine

/-! # Resets: what each clears, keeps and starts -/
namespace Sys2Proof.Machine

/-! ## The loss of VIN_AUX (R377) -/

theorem commitRecords_life_clk (s : State) : s.commitRecords.life = s.life ∧ s.commitRecords.clk = s.clk := by
  unfold State.commitRecords State.stageLost
  split_ifs <;> exact ⟨rfl, rfl⟩

/-- What a loss of VIN_AUX with the 50 ms takes over of the state in which everything staged is committed. -/
theorem powerOff_true (s : State) :
    (s.powerOff true).life.banks = s.commitRecords.commitRecords.life.banks ∧ (s.powerOff true).life.sel = s.commitRecords.commitRecords.life.sel
      ∧ (s.powerOff true).life.svnFloor = s.commitRecords.commitRecords.life.svnFloor
      ∧ (s.powerOff true).clk.opSec = s.commitRecords.commitRecords.clk.opSec ∧ (s.powerOff true).evr.staging = []
      ∧ (s.powerOff true).evr.nextSeq = (s.powerOff true).evr.mark ∧ (s.powerOff true).evr.skipped = none := by
  simp only [State.powerOff, State.recorderOff, if_true]
  generalize s.commitRecords.commitRecords = u
  exact ⟨rfl, rfl, rfl, rfl, rfl, rfl, rfl⟩

/-- Settles O52: a loss of VIN_AUX is the recorder's part, which reaches the recorder and the clock alone, and then a wipe. -/
theorem supplyLossKeepsOnlyFlashAndFuses : Obligations.SupplyLossKeepsOnlyFlashAndFuses := by
  intro held s aux
  refine ⟨s.powerOff held, if_pos aux, rfl, rfl, rfl, rfl, rfl, rfl, rfl, rfl, rfl, rfl, rfl, (State_powerOff_keeps s held).2, rfl, rfl, ?_⟩
  cases held with
  | false => exact ⟨rfl, rfl, rfl, rfl, rfl, fun _ => ⟨rfl, rfl, rfl⟩, nofun⟩
  | true =>
    obtain ⟨life, clk⟩ := commitRecords_life_clk s.commitRecords
    obtain ⟨life', clk'⟩ := commitRecords_life_clk s
    have flash := powerOff_true s
    rw [life, clk, life', clk'] at flash
    obtain ⟨banks, sel, svn, op, staging, mark, skipped⟩ := flash
    exact ⟨banks, sel, svn, staging, mark, nofun, fun _ => ⟨skipped, op⟩⟩

/-! ## Power-up, pins and rails (R357, R375, R391) -/

theorem perstNRise_off {s : State} {x : Straps} (aux : s.life.aux = true) (low : s.life.perstN = false) (off : s.life.dev = .off)
    (pwrok : s.life.pwrok = true) (clocks : s.pwr.stopped = false) :
    exec (.perstNRise x) s = .next (State.beginTasting { s with life := { s.life with perstN := true } }) := by
  simp [exec, execPerstNRise, aux, low, off, pwrok, clocks]

theorem perstNRise_waiting {s : State} {x : Straps} (aux : s.life.aux = true) (low : s.life.perstN = false) (dev : s.life.dev = .tasting)
    (waits : s.life.waiting = true) (pwrok : s.life.pwrok = true) (rails : s.life.supplyReset = false) (clocks : s.pwr.stopped = false) :
    exec (.perstNRise x) s = .next (State.beginTasting (State.sampleStraps { s with life := { s.life with perstN := true } } x)) := by
  simp [exec, execPerstNRise, State.sampleStraps, aux, low, dev, waits, clocks, pwrok, rails]

theorem perstNFall_resets {s : State} (aux : s.life.aux = true) (high : s.life.perstN = true) (on : s.life.dev ≠ .off)
    (clocks : s.pwr.stopped = false) (rails : s.life.supplyReset = false) :
    exec .perstNFall s = .next (State.warmReset { s with life := { s.life with perstN := false } } 1) := by
  simp [exec, execPerstNFall, aux, high, on, clocks, rails]

theorem railResetLevel_resets {s : State} {rail : Nat} (aux : s.life.aux = true) (below : rail < 3) (on : s.life.dev ≠ .off)
    (clocks : s.pwr.stopped = false) : exec (.railResetLevel rail) s = .next (s.supplyReset rail) := by
  simp [exec, execRailResetLevel, aux, below.ne, on, clocks]

/-- Settles O48, a pin or a rail at a time. -/
theorem powerUpAndResetRowsComplete : Obligations.PowerUpAndResetRowsComplete := by
  refine ⟨?powerUp, ?pwrok, ?perstRise, ?perstFall, ?loss, ?rail, ?recovery⟩
  case powerUp =>
    intro s aux
    simp [exec, execVinAuxPowerUp, aux]
  case pwrok =>
    intro x s aux low off clocks
    constructor <;> intro perst <;> simp [exec, execPwrokRise, aux, low, off, clocks, perst]
  case perstRise =>
    intro x s aux low clocks
    exact ⟨fun off pwrok => perstNRise_off aux low off pwrok clocks, fun dev waits pwrok rails => perstNRise_waiting aux low dev waits pwrok rails clocks⟩
  case perstFall =>
    intro s aux high
    refine ⟨fun on clocks rails => perstNFall_resets aux high on clocks rails, fun stopped => ?_⟩
    simp [exec, execPerstNFall, aux, high, stopped]
  case loss =>
    intro held s aux
    exact if_pos aux
  case rail =>
    intro rail s aux
    refine ⟨?_, fun below on clocks => railResetLevel_resets aux below on clocks⟩
    simp [exec, execRailResetLevel, aux]
  case recovery =>
    intro x s aux reset clocks pwrok perst
    exact (if_pos ⟨aux, reset, clocks⟩).trans (if_pos ⟨pwrok, perst⟩)

/-! ## Tasting (R378 to R389) -/

theorem commandDoorbell_mailboxOnly (s : State) (n value : Nat) : MailboxOnly s (s.commandDoorbell n value) := by
  unfold State.commandDoorbell State.ringCommand
  split_ifs
  · rfl
  · split
    · split_ifs
      · exact notice_mailboxOnly ..
      · rfl
    · rfl
  · rfl

theorem completionDoorbell_mailboxOnly (s : State) (n value : Nat) : MailboxOnly s (s.completionDoorbell n value) := by
  unfold State.completionDoorbell State.ringCompletion
  split_ifs
  · rfl
  · split
    · split_ifs
      · exact notice_mailboxOnly ..
      · rfl
    · rfl
  · rfl

theorem heldDoorbells_mailboxOnly (s : State) : MailboxOnly s s.heldDoorbells := by
  have cleared : MailboxOnly s { s with regs := { s.regs with heldQdb := none, heldCdb := none } } := rfl
  simp only [State.heldDoorbells]
  cases s.regs.heldQdb <;> cases s.regs.heldCdb
  · exact cleared
  · exact cleared.trans (commandDoorbell_mailboxOnly ..)
  · exact cleared.trans (completionDoorbell_mailboxOnly ..)
  · exact cleared.trans ((completionDoorbell_mailboxOnly ..).trans (commandDoorbell_mailboxOnly ..))

theorem endTrial_dev (s : State) : s.endTrial.life.dev = s.life.dev := by
  unfold State.endTrial
  split_ifs <;> rfl

theorem failTasting_dev (s : State) (cause unit ukind detail : Nat) : (s.failTasting cause unit ukind detail).life.dev = .corked := by
  have held := congrArg (·.dev) (congrArg State.life (heldDoorbells_mailboxOnly (State.endTrial (s.sayVerdict (s.tasteBody s.life.stage cause unit ukind detail) 3).cork)))
  exact held.trans (endTrial_dev _)

theorem toNextStage_of {s : State} {n : Nat} (next : s.nextStage = n) (plain : n ≠ 10) : s.toNextStage = { s with life := { s.life with stage := n } } := by
  simp [State.toNextStage, next, plain]

theorem nextStage_succ {s : State} (seven : s.life.stage = 7 → s.life.straps.xcel = false) (ten : s.life.stage ≠ 10) : s.nextStage = s.life.stage + 1 := by
  rw [State.nextStage, if_neg (by simpa using seven), if_neg ten]

/-- A stage other than 7 with the extended test and other than 9 and 10 is followed by the next number. -/
theorem toNextStage_succ {s : State} {n : Nat} (stage : s.life.stage = n) (seven : n = 7 → s.life.straps.xcel = false) (below : n < 9) :
    s.toNextStage = { s with life := { s.life with stage := n + 1 } } := by
  subst stage
  exact toNextStage_of (nextStage_succ seven (by omega)) (by omega)

/-- Stages whose passing only starts the next one. -/
theorem passStage_plain {s : State} (plain : s.life.stage = 4 ∨ s.life.stage = 5 ∨ s.life.stage = 6 ∨ s.life.stage = 8) :
    s.passStage = { s with life := { s.life with stage := s.life.stage + 1 } } := by
  have next : s.passStage = s.toNextStage := by
    rcases plain with h | h | h | h <;> simp only [State.passStage, h]
  exact next.trans (toNextStage_succ rfl (by omega) (by omega))

theorem tastingStageComplete_pass {s : State} (tastes : s.tastes = true) : exec (.tastingStageComplete .pass) s = .next s.passStage := if_pos tastes

/-- Settles O49, a stage at a time. -/
theorem tastingRowsComplete : Obligations.TastingRowsComplete := by
  refine ⟨?_, ?_, fun cause unit ukind detail s => failTasting_dev s cause unit ukind detail⟩
  · intro s tastes
    rw [tastingStageComplete_pass tastes]
    refine ⟨?verdict, fun plain => congrArg _ (passStage_plain plain), ?identity, ?vintage, ?cellar, ?fail, if_pos tastes, if_pos tastes⟩
    case verdict =>
      intro stage
      simp only [State.passStage, stage]
    case identity =>
      intro stage
      have keyed : s.passStage = s.deriveKeys.toNextStage := by simp only [State.passStage, stage]
      exact congrArg _ (keyed.trans (toNextStage_succ (n := 2) stage nofun (by decide)))
    case vintage =>
      intro stage
      have planned : s.passStage = s.toNextStage.applyVintage := by simp only [State.passStage, stage]
      rw [planned, toNextStage_succ stage nofun (by decide)]
    case cellar =>
      intro stage plain
      have sized : s.passStage = State.toNextStage { s with mem := { s.mem with cellarFrames := cellarSize } } := by simp only [State.passStage, stage]
      exact congrArg _ (sized.trans (toNextStage_succ (n := 7) stage (fun _ => plain) (by decide)))
    case fail => exact fun cause unit ukind detail => if_pos tastes
  · intro st u k s corking
    simp only [exec, execCorkFinalTimer, corking]

/-! ## Links and the attachment (R392 to R412, R415) -/

/-- A training at full width and 64 GT/s leaves no record. -/
theorem slowLink_of_full {s : State} {port width rate : Nat} (full : s.fullWidth ≤ width) (fast : 64 ≤ rate) : s.slowLink port width rate = s :=
  if_neg (by omega)

theorem port0Trained_full {s : State} {width rate : Nat} (full : s.fullWidth ≤ width) (fast : 64 ≤ rate) :
    s.port0Trained width rate true true = { s with cxl := { s.cxl with up0 := true, cxl := true, width := width, rate := rate } } := by
  have on : decide (32 ≤ rate) = true := decide_eq_true (by omega)
  rw [State.port0Trained, on]
  exact slowLink_of_full full fast

theorem cacheMemUp_of {s : State} (up : s.cacheMemUp = true) (runs : s.running = true) : (s.cacheMemUp && s.running) = true := by simp [up, runs]

theorem execCxlCacheResponse_of {s : State} (up : s.hostUp = true) (runs : s.running = true) (a : Nat) (r : HostRead) :
    exec (.cxlCacheResponse a r) s = .next (s.hostData a (if s.cxl.dropsCacheMem then .cxlError else r)).settlePeers :=
  if_pos (by simp [up, runs])

/-- Settles O50, a port's row or a row of the attachment at a time. -/
theorem linkAndAttachmentRowsComplete : Obligations.LinkAndAttachmentRowsComplete := by
  refine ⟨⟨?reset, ?port1Flr, fun _ => rfl, ?trained⟩, ?answer, ?snoop, ?flush, ?decoder, ?request, ?birsp, ?integrity⟩
  case reset =>
    intro s up
    exact ⟨fun opened => (if_pos up).trans (congrArg _ (if_pos opened)), fun closed => (if_pos up).trans (congrArg _ (if_neg closed)), if_pos up⟩
  case port1Flr =>
    intro s bifurcated up
    exact if_pos (by rw [bifurcated, up]; rfl)
  case trained =>
    intro width rate cxl flit s trains full fast
    refine ⟨?_, fun bifurcated => ?_⟩
    · exact (if_pos trains).trans ((if_pos rfl).trans (congrArg _ (port0Trained_full full fast)))
    · exact (if_pos trains).trans ((if_neg one_ne_zero).trans ((if_pos bifurcated).trans (congrArg _ (slowLink_of_full full fast))))
  case answer =>
    intro a r s up runs
    rw [execCxlCacheResponse_of up runs]
    exact ⟨fun secure => by rw [secure]; rfl, fun insecure => by rw [insecure]; rfl⟩
  case snoop =>
    intro a k s up runs
    refine ⟨fun absent => ?_, fun d l line held free => ?_⟩
    · simp only [exec, execHostSnoop, cacheMemUp_of up runs, if_true, absent]
      rfl
    · simp only [exec, execHostSnoop, cacheMemUp_of up runs, if_true, line, held, free, lt_irrefl, if_false]
  case flush =>
    intro s up unflushed runs
    simp only [exec, execGpfPhase1, up, unflushed, runs, and_self, if_true]
  case decoder =>
    intro base size skip ways bi s up
    refine ⟨fun ok => ?_, fun bad => ?_⟩
    · simp only [exec, execHdmDecoderCommit, up, if_true, ok, Bool.not_true]
    · simp only [exec, execHdmDecoderCommit, up, if_true, bad, Bool.not_false, Bool.false_eq_true, if_false]
  case request =>
    intro hpa a w sh e s up window
    refine ⟨fun opened => ?_, fun closed => ?_⟩
    · simp only [exec, execCxlMemRequest, up, if_true, window, opened]
    · simp only [exec, execCxlMemRequest, up, if_true, window, closed, if_false]
      rfl
  case birsp =>
    intro a s up runs
    exact if_pos (cacheMemUp_of up runs)
  case integrity =>
    intro k s up secure
    exact if_pos ⟨up, secure⟩

/-! ## The nonce (R427) -/

theorem warmReset_nonce (s : State) (rtype : Nat) : (s.warmReset rtype).ident.nonce = none := rfl

theorem powerOff_nonce (s : State) (held : Bool) : (s.powerOff held).ident.nonce = none := rfl

theorem flr_nonce (s : State) (discard : Bool) : (s.flr discard).ident.nonce = none := by
  unfold State.flr
  split_ifs
  · exact congrArg Ident.nonce (State_tellInterrupted_keeps _).2.1
  · rfl

theorem changeOwner_nonce (s : State) (sub : Nat) (owner : Option Bytes) (cosign : Bool) : (s.changeOwner sub owner cosign).ident.nonce = s.ident.nonce :=
  (congrArg Ident.nonce (State_stage_keeps _ _ _).2.1).trans rfl

/-- An authorisation of the right length ends the nonce, accepted or not, where what is then done to a state keeps its nonce. -/
theorem authorised_nonce {s : State} {a : Bytes} {purpose : Nat} {ok : Bool} {f : State → State} (length : a.length = authBytes)
    (keeps : ∀ u, (f u).ident.nonce = u.ident.nonce) : (s.authorised a purpose ok f).ident.nonce = none := by
  unfold State.authorised
  rw [if_neg (not_not.2 length)]
  split_ifs
  · exact keeps _
  · rfl

/-- In a secured session of a device past its verdict a vendor-defined request is carried out. -/
theorem vendor_served {s : State} (served : s.life.dev = .opened ∨ s.life.dev = .corked) (session : 0 < s.ident.sessions) (f : State → State) :
    (Host.Outcome.next (s.vendor true f) : Host.Outcome State Fault Refusal) = .next (f s) := by
  rcases served with h | h <;> simp [State.vendor, State.vendorServed, h, session]

theorem doEvrClear_nonce {c : Cmd} {d : Bytes} (s : State) (read : c.data = .ok d) : (doEvrClear c s).ident.nonce = none := by
  simp only [doEvrClear, read]
  split_ifs <;> simp [State.spendNonce]

/-- Settles O59, an event at a time. -/
theorem nonceEndsByItsFourEvents : Obligations.NonceEndsByItsFourEvents := by
  refine ⟨?drawn, ?requests, ?clear, fun s => ⟨_, rfl, rfl⟩, ?flr, ?perst, ?watchdog, ?loss, ?rail⟩
  case drawn =>
    intro c s accepted written
    have gives : doEvrNonce c s = doneBuffer c s.drawNonce [] s.issueNonce := by simp only [doEvrNonce, written]
    refine ⟨_, next_runCmd accepted gives, ?_, by simp [State.drawNonce]⟩
    rw [(doneBuffer_keeps ..).2.1]
    rfl
  case requests =>
    intro s served session
    refine ⟨⟨_, vendor_served served session _, rfl⟩, fun key a length => ⟨_, vendor_served served session _, ?_⟩,
      fun a length => ⟨_, vendor_served served session _, ?_⟩, fun b a length => ⟨_, vendor_served served session _, ?_⟩⟩
    · exact authorised_nonce length fun u => changeOwner_nonce ..
    · exact authorised_nonce length fun u => changeOwner_nonce ..
    · refine authorised_nonce length fun u => ?_
      split_ifs
      · rfl
      · exact changeOwner_nonce ..
  case clear =>
    intro c d s accepted read
    exact ⟨_, next_runCmd accepted rfl, doEvrClear_nonce s read⟩
  case flr =>
    intro s up
    refine ⟨⟨_, if_pos up, flr_nonce s false⟩, _, if_pos up, ?_⟩
    exact (congrArg Ident.nonce (State_stage_keeps _ _ _).2.1).trans (flr_nonce s true)
  case perst =>
    intro s aux high on clocks rails
    exact ⟨_, perstNFall_resets aux high on clocks rails, warmReset_nonce _ _⟩
  case watchdog =>
    intro s tastes
    exact ⟨_, if_pos tastes, congrArg Ident.nonce (State_beginTasting_keeps _).2.1⟩
  case loss =>
    intro held s aux
    exact ⟨_, if_pos aux, powerOff_nonce s held⟩
  case rail =>
    intro rail s aux on clocks
    by_cases own : rail = 3
    · subst own
      exact ⟨_, by simp [exec, execRailResetLevel, aux], powerOff_nonce s false⟩
    · exact ⟨s.supplyReset rail, by simp [exec, execRailResetLevel, aux, own, on, clocks], rfl⟩

end Sys2Proof.Machine

/-! # The tiers of memory: a unit newly backed, a line read -/
namespace Sys2Proof.Machine

/-! ## Sparse stores -/

theorem mem_of_kget {α : Type} {m : KMap α} {k : Nat} {v : α} (held : kget m k = some v) : (k, v) ∈ m := by
  obtain ⟨front, back, was, -⟩ := kput_of_some v held
  rw [was]
  simp

theorem kget_map {α β : Type} (m : KMap α) (f : α → β) (k : Nat) : kget (m.map fun e => (e.1, f e.2)) k = (kget m k).map f := by
  induction m with
  | nil => rfl
  | cons e m ih =>
    simp only [List.map_cons, kget]
    split_ifs <;> simp [ih]

theorem mget_mclear {m : List Host.Cell} {a n b : Nat} (low : a ≤ b) (high : b < a + n) : mget (mclear m a n) b = 0 := by
  unfold mget
  cases held : kget (mclear m a n) b with
  | none => rfl
  | some v =>
    have kept := (List.mem_filter.1 (mem_of_kget held)).2
    simp only [decide_eq_true_eq] at kept
    omega

theorem mread_mclear {m : List Host.Cell} {a n : Nat} (k : Nat) {b : Nat} (low : a ≤ b) (high : b + k ≤ a + n) :
    mread (mclear m a n) b k = List.replicate k 0 := by
  induction k generalizing b with
  | zero => rfl
  | succ k ih => rw [mread, mget_mclear low (by omega), ih (by omega) (by omega), List.replicate_succ]

/-! ## A unit newly backed (R164, R170) -/

/-- A mended map line leaves everything but what is known of the map lines' codes. -/
theorem mendMap_only (m : Memory) (u : Nat) :
    m.mendMap u = { m with badA := (m.mendMap u).badA, badB := (m.mendMap u).badB, remapped := (m.mendMap u).remapped } := by
  simp only [Memory.mendMap]
  split_ifs <;> rfl

theorem mapBad_mendMap (m : Memory) (u : Nat) : (m.mendMap u).mapBad u = false := by
  simp only [Memory.mendMap]
  by_cases known : m.remapped.contains u = true
  · split_ifs with bad whole <;> simp_all [Memory.mapBad]
  · split_ifs with bad whole <;> simp_all [Memory.mapBad]

/-- A way once the lines of unit `u` are dropped. -/
def wayWithout (u : Nat) (w : Option RimLine) : Option RimLine :=
  match w with | some l => if l.line / 1024 = u then none else some l | none => none

theorem wayWithout_eq_some {u : Nat} {w : Option RimLine} {l : RimLine} (held : wayWithout u w = some l) : l.line / 1024 ≠ u := by
  cases w with
  | none => cases held
  | some k =>
    simp only [wayWithout] at held
    split_ifs at held with own
    cases held
    exact own

theorem rimAt_dropLines (m : Memory) (u a : Nat) : ((m.dropLines u).rimAt a).ways = (m.rimAt a).ways.map (wayWithout u) := by
  have held := kget_map m.rim (fun r => { r with ways := r.ways.map (wayWithout u) }) (rimKey a)
  have rim : (m.dropLines u).rimAt a = (kget (m.rim.map fun r => (r.1, { r.2 with ways := r.2.ways.map (wayWithout u) })) (rimKey a)).getD RimSet.empty := rfl
  rw [rim, held, Memory.rimAt]
  cases kget m.rim (rimKey a) with
  | none => rfl
  | some r => rfl

/-- No line of a unit whose lines were dropped is in the rim cache. -/
theorem rimLine_dropLines {m : Memory} {u a : Nat} (inside : a / 64 / 1024 = u) : (m.dropLines u).rimLine a = none := by
  have absent : ((m.dropLines u).rimAt a).find a = none := by
    refine List.find?_eq_none.2 fun w _ => ?_
    rw [rimAt_dropLines]
    split
    · next l held =>
      have way : wayWithout u ((m.rimAt a).ways.getD w none) = some l :=
        (List.getD_map _ none (wayWithout u)).symm.trans held
      have other := wayWithout_eq_some way
      simp only [beq_iff_eq]
      intro same
      exact other (same ▸ inside)
    · exact Bool.false_ne_true
  rw [Memory.rimLine, absent]

/-- The entry of a unit just backed. -/
theorem entry_back (m : Memory) (u tier f age : Nat) (nopromo : Bool) : (m.back u tier f age nopromo).entry u = some (newEntry tier f age nopromo) := by
  rw [Memory.back, mendMap_only]
  exact kget_kput ..

theorem entry_back_ne (m : Memory) {u v : Nat} (tier f age : Nat) (nopromo : Bool) (other : v ≠ u) : (m.back u tier f age nopromo).entry v = m.entry v := by
  have cleared : (m.clearFrame tier f).map = m.map := by
    unfold Memory.clearFrame
    split <;> rfl
  rw [Memory.back, mendMap_only]
  exact (kget_kput_ne _ _ _ _ other).trans (congrArg (kget · v) cleared)

theorem lineBad_clearFrame (m : Memory) (tier f : Nat) {l : Nat} (inside : l < 1024) : (m.clearFrame tier f).lineBad tier f l = false := by
  rcases tier with _ | _ | tier
  · simp [Memory.clearFrame, Memory.lineBad]; omega
  · simp [Memory.clearFrame, Memory.lineBad]; omega
  · rfl

theorem tierRead_clearFrame (m : Memory) {tier : Nat} (f : Nat) {l : Nat} (exists_ : tier < 3) (inside : l < 1024) :
    (m.clearFrame tier f).tierRead tier f (64 * l) 64 = List.replicate 64 0 := by
  have last : 64 * l + 64 ≤ unitBytes := by unfold unitBytes; omega
  interval_cases tier
  · exact mread_mclear 64 (by simp [Memory.place]) (by simp [Memory.place]; omega)
  · exact mread_mclear 64 (by simp [Memory.place]) (by simp [Memory.place]; omega)
  · have extents : (m.clearFrame 2 f).extents = m.extents := rfl
    exact mread_mclear 64 (by simp [Memory.place, extents]) (by simp [Memory.place, extents]; omega)

/-- A line of a unit just backed reads as zero, where the unit lies in no cellar cache. -/
theorem viewLine_back {m : Memory} {u tier f age l : Nat} {nopromo : Bool} (space : u < unitSpace) (real : tier < 3) (uncached : m.cacheOf u = none)
    (inside : l < 1024) : (m.back u tier f age nopromo).viewLine (65536 * u + 64 * l) = some (List.replicate 64 0) := by
  have unit : (65536 * u + 64 * l) / unitBytes = u := by simp only [unitBytes]; omega
  have offset : (65536 * u + 64 * l) % unitBytes / 64 = l := by simp only [unitBytes]; omega
  have below : ¬ deviceRegion ≤ 65536 * u + 64 * l := by simp only [deviceRegion, unitSpace] at *; omega
  have line : (m.back u tier f age nopromo).rimLine (65536 * u + 64 * l) = none := by
    have dropped := rimLine_dropLines (m := m.clearFrame tier f) (u := u) (a := 65536 * u + 64 * l) (by omega)
    rw [Memory.back, mendMap_only]
    exact dropped
  have uncached' : (m.back u tier f age nopromo).cacheOf u = none := by
    have caches : (m.clearFrame tier f).caches = m.caches := by
      unfold Memory.clearFrame
      split <;> rfl
    rw [Memory.back, mendMap_only, ← uncached]
    simp only [Memory.cacheOf, Memory.setEntry, Memory.dropLines, caches]
  have source : (m.back u tier f age nopromo).source (65536 * u + 64 * l) (newEntry tier f age nopromo) = (tier, f) := by
    have sector : (m.back u tier f age nopromo).sectorFrame u (lineLoc (65536 * u + 64 * l)) = none := by rw [Memory.sectorFrame, uncached']
    rw [Memory.source, unit, sector]
    split_ifs with cellar
    · exact congrArg (·, f) cellar.symm
    · rfl
  have good : (m.back u tier f age nopromo).lineBad tier f l = false := by
    rw [Memory.back, mendMap_only]
    exact lineBad_clearFrame m tier f inside
  have zero : (m.back u tier f age nopromo).tierRead tier f (64 * l) 64 = List.replicate 64 0 := by
    rw [Memory.back, mendMap_only]
    exact tierRead_clearFrame m f real inside
  have mapped : (m.back u tier f age nopromo).mapBad u = false := mapBad_mendMap _ u
  rw [Memory.viewLine, line]
  simp only [if_neg below, unit, entry_back, Memory.badBelow, Memory.lineBelow, source, offset, mapped, good, Bool.or_self, Bool.false_eq_true, if_false]
  rw [Nat.mul_comm l 64, zero]

theorem mapUnit_mem {s : State} {tier t : Nat} (nopromo : Bool) (u : Nat) (room : s.mem.tierWithRoom tier = some t) :
    ∃ near cellar, (s.mapUnit tier nopromo u).mem
      = { s.mem.back u t (s.freeFrame t) s.clk.age nopromo with demNear := near, demCellar := cellar } := by
  rw [State.mapUnit, room]
  exact ⟨_, _, rfl⟩

/-- Settles O13. -/
theorem newlyBackedUnitReadsAsZero : Obligations.NewlyBackedUnitReadsAsZero := by
  intro s tier t u space room uncached
  have real : t < 3 := by
    have := List.mem_of_find?_eq_some room
    simp only [List.mem_cons, List.not_mem_nil, or_false] at this
    omega
  obtain ⟨near, cellar, mem⟩ := mapUnit_mem false u room
  rw [mem]
  exact ⟨⟨s.freeFrame t, entry_back ..⟩, fun l inside => viewLine_back space real uncached inside, fun v other => entry_back_ne _ _ _ _ _ other⟩

end Sys2Proof.Machine

/-! # A near-tier read -/
namespace Sys2Proof.Machine

/-! ## The order of a line (R173, R304) -/

theorem refill_of_no_input {s : State} (none : s.mem.input = []) (line n : Nat) : s.refill line n = s := by
  cases n with
  | zero => rfl
  | succ n => simp [State.refill, none, firstOf]

/-- With nothing ordered and nothing at the rim's input a line does not go on. -/
theorem advance_of_idle {s : State} (order : s.mem.order = []) (input : s.mem.input = []) (line n : Nat) : s.advance line n = s := by
  cases n with
  | zero => rfl
  | succ n => simp [State.advance, refill_of_no_input input, order]

theorem proceed_of_idle {s : State} (order : s.mem.order = []) (input : s.mem.input = []) (line : Nat) : s.proceed line = s :=
  advance_of_idle order input line _

/-- The one access ordered, with nothing in progress on its line, is served. -/
theorem advance_of_one {s : State} {x : Access × Ecc} (order : s.mem.order = [x]) (input : s.mem.input = []) (free : s.mem.inProgress (x.1.addr / 64) = 0)
    (n : Nat) : s.advance (x.1.addr / 64) (n + 1)
      = (State.serve { s with mem := { s.mem with order := [] } } x.1 x.2 false).advance (x.1.addr / 64) n := by
  rw [State.advance, refill_of_no_input input]
  simp [free, order, onLine]

theorem issueAll_of_empty {s : State} {k : Nat} (empty : s.mem.queue k = []) (n : Nat) : s.issueAll k n = s := by
  cases n with
  | zero => rfl
  | succ n => simp [State.issueAll, empty]

/-! ## The controller (R305) -/

/-- A line below the device region that misses the rim cache, of a backed unit that is neither busy nor tracked nor homed on the host, waits for its
controller. -/
theorem serve_of_miss {s : State} {a : Access} {e : UnitEntry} (found : Ecc) (below : a.addr < deviceRegion) (entry : s.mem.entry (a.addr / unitBytes) = some e)
    (mapped : s.mem.mapBad (a.addr / unitBytes) = false) (calm : e.busy = false) (untracked : s.mem.tracked a.addr = false)
    (absent : (s.mem.rimAt a.addr).find a.addr = none) (device : e.tier ≠ 2) (part : a.kind.whole = false) : s.serve a found false = s.enqueue a found := by
  have home : s.mem.homeOf a.addr = some e := (if_neg below.not_ge).trans entry
  simp [State.serve, home, below.not_ge, mapped, calm, untracked, absent, device, part]

theorem enqueue_of_room {s : State} {a : Access} (found : Ecc) (room : s.mem.ctlRoom (s.mem.ctlKey a.addr) a.cls = true) :
    s.enqueue a found = { s with mem := { s.mem with ctl := kput s.mem.ctl (s.mem.ctlKey a.addr) (s.mem.queue (s.mem.ctlKey a.addr) ++ [(a, found)]) } } :=
  if_pos room

theorem ctlRoom_of_idle {m : Memory} (ctl : m.ctl = []) (decants : m.decants = []) (k cls : Nat) : m.ctlRoom k cls = true := by
  simp only [Memory.ctlRoom, Memory.ctlUsed, Memory.queue, Memory.decantWaits, ctl, decants]
  split_ifs <;> simp [kget]

/-! ## An access performed on its line -/

/-- What waits at the rim: the order of the lines, its input and the controllers' queues. -/
def Memory.waiting (m : Memory) := (m.order, m.input, m.ctl)

theorem modCache_waiting (m : Memory) (u : Nat) (f : CacheFrame → CacheFrame) : (m.modCache u f).waiting = m.waiting := by
  unfold Memory.modCache
  split <;> rfl

theorem tierWrite_waiting (m : Memory) (tier f off : Nat) (b : Bytes) : (m.tierWrite tier f off b).waiting = m.waiting := by
  unfold Memory.tierWrite
  split <;> rfl

theorem setLineBad_waiting (m : Memory) (tier f l : Nat) (bad : Bool) : (m.setLineBad tier f l bad).waiting = m.waiting := by
  rcases tier with _ | _ | tier <;> rfl

theorem storeBelow_waiting (m : Memory) (a : Nat) (e : UnitEntry) (b : Bytes) : (m.storeBelow a e b).waiting = m.waiting := by
  simp only [Memory.storeBelow]
  split_ifs <;> simp only [modCache_waiting, setLineBad_waiting, tierWrite_waiting]

theorem evict_waiting (m : Memory) (l : RimLine) : (m.evict l).1.waiting = m.waiting := by
  simp only [Memory.evict]
  split
  · split_ifs
    · exact storeBelow_waiting ..
    · exact storeBelow_waiting ..
    · rfl
    · rfl
  · rfl

theorem rimTouch_waiting (m : Memory) (a : Nat) : (m.rimTouch a).waiting = m.waiting := by
  unfold Memory.rimTouch
  split <;> rfl

theorem allocLine_waiting (m : Memory) (a : Nat) (l : RimLine) : (m.allocLine a l).1.waiting = m.waiting := by
  simp only [Memory.allocLine, rimTouch_waiting]
  split
  · split_ifs
    · rfl
    · exact evict_waiting ..
  · rfl

/-- The part of the state that an access's own work leaves but for its answer. -/
def State.beside (s : State) := (s.rimOut, s.mem.waiting)

theorem startDecant_beside (s : State) (u t : Nat) : (s.startDecant u t).beside = s.beside := by
  unfold State.startDecant
  split <;> rfl

theorem afterAccess_beside (s : State) (a : Access) : (s.afterAccess a).beside = s.beside := by
  unfold State.afterAccess State.touchUnit
  split_ifs
  · split
    · dsimp only
      split_ifs
      · exact startDecant_beside ..
      · exact startDecant_beside ..
      · rfl
      · rfl
    · rfl
  · rfl

section
variable {s : State} {a : Access} {t c en seq exit : Nat} (tile : a.req = .tile t c en seq exit) (read : a.kind = .read)
include tile read

/-- A tile's read is answered with one data flit by the attach link of the request (R78, R79). -/
theorem answer_of_tile (b : Bytes) : (s.answer a none b).beside
    = (s.rimOut ++ [(exitTile t exit, exitPort exit, mkFlit (exitTile t exit) t 0 a.cls c 2 (64 * c + en) seq true b)], s.mem.waiting) := by
  simp only [State.answer, tile, State.answerTile, read]
  rfl

/-- A tile's read of unit space, performed on its line. -/
theorem perform_of_tile (l : RimLine) (below : a.addr < deviceRegion) : (s.perform a l).beside
    = (s.rimOut ++ [(exitTile t exit, exitPort exit, mkFlit (exitTile t exit) t 0 a.cls c 2 (64 * c + en) seq true l.data)], s.mem.waiting) := by
  have shows : s.structLine a.addr = none := if_pos below
  have untracked (s : State) : s.trackFor a = s := by simp only [State.trackFor, tile]
  simp only [State.perform, shows, read, AccKind.writes, Bool.false_eq_true, if_false, untracked, afterAccess_beside]
  rw [answer_of_tile tile read]
  exact congrArg _ (allocLine_waiting ..)

end

/-- A near-tier line that its controller reads, its code good. -/
theorem serveMiss_of_near {s : State} {a : Access} {e : UnitEntry} (near : e.tier = 0) (good : s.mem.lineBad 0 e.frame (a.addr % unitBytes / 64) = false) :
    s.serveMiss a e .clean = s.perform a ⟨a.addr / 64, false, false, false, s.mem.tierRead 0 e.frame (a.addr % unitBytes / 64 * 64) 64⟩ := by
  have source : s.mem.source a.addr e = (0, e.frame) := by rw [Memory.source, if_neg (by omega), near]
  have uncached (p q : Nat) : s.mem.cacheRead p q a.addr e = s.mem := if_neg (by omega)
  simp only [State.serveMiss, source, State.verdict, State.noteEcc, good, Memory.lineBelow, Bool.false_eq_true, if_false, uncached]
  split <;> rfl

/-! ## The read as a whole -/

theorem lookUp_rimOut (s : State) (a : Nat) : (s.lookUp a .clean .clean).rimOut = s.rimOut := by
  simp only [State.lookUp, State.noteEcc]
  split_ifs <;> rfl

/-- A near-tier line is read by a controller whose key is below 16. -/
theorem readOut_of_near {s : State} {a : Access} {e : UnitEntry} (below : a.addr < deviceRegion) (entry : s.mem.entry (a.addr / unitBytes) = some e)
    (near : e.tier = 0) : s.readOut (a, .clean) = s.serveMiss a e .clean := by
  have home : s.mem.homeOf a.addr = some e := (if_neg below.not_ge).trans entry
  simp only [State.readOut, home, near, two_pos, if_true]

/-- A controller with one command, of which nothing is left on its line, issues it. -/
theorem issueOne_of_one {s : State} {k : Nat} {x : Access × Ecc} (one : s.mem.queue k = [x]) {t : State}
    (read : State.readOut { s with mem := { s.mem with ctl := kput s.mem.ctl k [] } } x = t) (order : t.mem.order = []) (input : t.mem.input = []) :
    s.issueOne k = t := by
  have first : firstOf [x] = some x := rfl
  simp only [State.issueOne, one, first, List.erase_cons_head, read, order, List.map_nil]
  exact proceed_of_idle order input _

/-- The state in which one access alone waits in its line's controller. -/
def State.queued (u : State) (a : Access) : State :=
  { u with mem := { u.mem with order := [], ctl := kput u.mem.ctl (u.mem.ctlKey a.addr) [(a, .clean)] } }

theorem queue_queued (u : State) (a : Access) : (u.queued a).mem.queue (u.mem.ctlKey a.addr) = [(a, .clean)] := by
  simp [State.queued, Memory.queue]

theorem commands_queued {u : State} (a : Access) (input : u.mem.input = []) (ctl : u.mem.ctl = []) : (u.queued a).mem.commands = 2 := by
  simp [State.queued, Memory.commands, Memory.backlog, input, ctl, kput]

section
variable {u : State} {a : Access} {e : UnitEntry} (below : a.addr < deviceRegion) (entry : u.mem.entry (a.addr / unitBytes) = some e) (near : e.tier = 0)
include below entry near

/-- The access ordered alone goes to its controller's queue. -/
theorem proceed_of_near {s : State} (ordered : s = { u with mem := { u.mem with order := [(a, .clean)] } }) (read : a.kind = .read)
    (mapped : u.mem.mapBad (a.addr / unitBytes) = false) (calm : e.busy = false) (untracked : u.mem.tracked a.addr = false)
    (absent : (u.mem.rimAt a.addr).find a.addr = none) (input : u.mem.input = []) (ctl : u.mem.ctl = []) (decants : u.mem.decants = [])
    (free : u.mem.inProgress (a.addr / 64) = 0) : s.proceed (a.addr / 64) = u.queued a := by
  subst ordered
  let v : State := { u with mem := { u.mem with order := [] } }
  have served : v.serve a .clean false = u.queued a := by
    rw [serve_of_miss (s := v) (e := e) .clean below entry mapped calm untracked absent (by omega) (by rw [read]; rfl), enqueue_of_room (s := v) _ (ctlRoom_of_idle ctl decants _ _)]
    have empty : v.mem.queue (v.mem.ctlKey a.addr) = [] := by simp [v, Memory.queue, ctl, kget]
    rw [empty]
    rfl
  let w : State := { u with mem := { u.mem with order := [(a, .clean)] } }
  have backlog : w.mem.backlog = 2 := by simp [w, Memory.backlog, input]
  rw [State.proceed, backlog, advance_of_one (s := w) (x := (a, .clean)) rfl input free, show State.serve { w with mem := { w.mem with order := [] } } a .clean false = _ from served]
  exact advance_of_idle (s := u.queued a) rfl input _ _

/-- The controller reads the line and the access is performed. -/
theorem issueAll_of_near {t c en seq exit : Nat} (tile : a.req = .tile t c en seq exit) (read : a.kind = .read)
    (good : u.mem.lineBad 0 e.frame (a.addr % unitBytes / 64) = false) (input : u.mem.input = []) :
    ((u.queued a).issueAll (u.mem.ctlKey a.addr) 2).rimOut = u.rimOut ++ [(exitTile t exit, exitPort exit,
      mkFlit (exitTile t exit) t 0 a.cls c 2 (64 * c + en) seq true (u.mem.tierRead 0 e.frame (a.addr % unitBytes / 64 * 64) 64))] := by
  let v : State := { u with mem := { u.mem with order := [], ctl := kput (u.queued a).mem.ctl (u.mem.ctlKey a.addr) [] } }
  have performed := perform_of_tile (s := v) tile read
    ⟨a.addr / 64, false, false, false, v.mem.tierRead 0 e.frame (a.addr % unitBytes / 64 * 64) 64⟩ below
  rw [← serveMiss_of_near (s := v) near good, ← readOut_of_near (s := v) below entry near] at performed
  obtain ⟨sent, waiting⟩ := Prod.mk.inj performed
  obtain ⟨order', rest⟩ := Prod.mk.inj waiting
  obtain ⟨input', ctl'⟩ := Prod.mk.inj rest
  have issued : (u.queued a).issueOne (u.mem.ctlKey a.addr) = v.readOut (a, .clean) :=
    issueOne_of_one (queue_queued u a) rfl order' (input'.trans input)
  have empty : (v.readOut (a, .clean)).mem.queue (u.mem.ctlKey a.addr) = [] := by rw [Memory.queue, ctl']; simp [v]
  rw [State.issueAll, if_neg (by simp [queue_queued]), issued, issueAll_of_empty empty, sent]
  rfl

end

/-- An access to a line with room in its order joins it, and what is ordered there is served. -/
theorem access_of_room {s u : State} {a : Access} (found : Ecc) (looked : u = s.lookUp a.addr .clean .clean) (room : u.mem.ordered (a.addr / 64) < 4) :
    s.access a found false = State.settleAt { u with mem := { u.mem with order := u.mem.order ++ [(a, found)] } } a.addr := by
  subst looked
  simp only [State.access, if_neg room.not_ge, Bool.false_eq_true, if_false]

/-- Settles O15: the access is ordered, misses the rim cache, is read by its controller, and its answer is the one flit sent. -/
theorem nearTierReadReturnsTheFramesBytes : Obligations.NearTierReadReturnsTheFramesBytes := by
  intro s u a e t c en seq exit looked tile read below entry near calm mapped untracked absent_line absent good order input ctl cacheWait biWait decants
  have free : u.mem.inProgress (a.addr / 64) = 0 := by simp [Memory.inProgress, Memory.decantWaits, cacheWait, biWait, decants, ctl]
  have room : u.mem.ordered (a.addr / 64) = 0 := by simp [Memory.ordered, free, order]
  have ordered : s.access a .clean false = ({ u with mem := { u.mem with order := [(a, .clean)] } } : State).settleAt a.addr := by
    rw [access_of_room .clean looked (room ▸ by decide), order]
    exact congrArg (fun o => State.settleAt { u with mem := { u.mem with order := o } } a.addr) (List.nil_append _)
  have rimOut : u.rimOut = s.rimOut := by rw [looked, lookUp_rimOut]
  rw [ordered, State.settleAt, proceed_of_near below entry near rfl read mapped calm untracked absent input ctl decants free, commands_queued a input ctl,
    ← rimOut]
  exact issueAll_of_near below entry near tile read good input

end Sys2Proof.Machine

/-! # The memory commands and the tiers' own work -/
namespace Sys2Proof.Machine

/-! ## Commands on units (R327) -/

section
variable {c : Cmd} {s : State}

theorem any_isNone_eq_false {us : List Nat} (backed : ∀ u ∈ us, (s.mem.entry u).isSome = true) : (us.any fun u => (s.mem.entry u).isNone) = false := by
  simpa [List.any_eq_false, Option.isSome_iff_ne_none] using backed

theorem any_isNone_eq_true {us : List Nat} (hole : ∃ u ∈ us, s.mem.entry u = none) : (us.any fun u => (s.mem.entry u).isNone) = true := by
  simpa [List.any_eq_true] using hole

/-- The check of MEM_UNMAP on each unit's references. -/
theorem any_pin_iff {us : List Nat} : (us.any fun u => match s.mem.entry u with | some e => e.pin | none => false) = true
    ↔ ∃ u ∈ us, ∃ e, s.mem.entry u = some e ∧ e.pin = true := by
  simp only [List.any_eq_true]
  refine exists_congr fun u => and_congr_right fun _ => ?_
  cases s.mem.entry u <;> simp

theorem doMemMap_of_room (free : ∀ u ∈ c.units, s.mem.entry u = none) (leaves : s.leavesWith c.units ≤ 6143)
    (room : c.units.length ≤ s.roomFrom (fld c.desc 28 0 2)) :
    doMemMap c s = done c [] (c.units.foldl (fun t u => t.mapUnit (fld c.desc 28 0 2) false u) s) := by
  have unmapped : (c.units.any fun u => (s.mem.entry u).isSome) = false := by simpa [List.any_eq_false] using free
  rw [doMemMap]
  simp only [unmapped, Bool.false_eq_true, if_false, leafMax, leaves.not_gt, room.not_gt]

theorem doMemUnmap_of_unpinned (free : ∀ u ∈ c.units, ∃ e, s.mem.entry u = some e ∧ e.pin = false) :
    doMemUnmap c s = done c [] (c.units.foldl State.unmapUnit s).settlePeers := by
  have backed : ∀ u ∈ c.units, (s.mem.entry u).isSome = true := fun u mem => by
    obtain ⟨e, entry, -⟩ := free u mem
    rw [entry, Option.isSome_some]
  have unpinned := (any_pin_iff (s := s) (us := c.units)).not.2 fun ⟨u, mem, e, entry, pin⟩ => by
    obtain ⟨e', entry', free'⟩ := free u mem
    rw [entry, Option.some_inj] at entry'
    rw [entry', free'] at pin
    exact Bool.false_ne_true pin
  simp only [doMemUnmap, any_isNone_eq_false backed, Bool.false_eq_true, if_false]
  exact if_neg unpinned

theorem doMemUnmap_of_pinned (backed : ∀ u ∈ c.units, (s.mem.entry u).isSome = true) (pinned : ∃ u ∈ c.units, ∃ e, s.mem.entry u = some e ∧ e.pin = true) :
    doMemUnmap c s = refuse c 0x0203 s := by
  simp only [doMemUnmap, any_isNone_eq_false backed, Bool.false_eq_true, if_false]
  exact if_pos (any_pin_iff.2 pinned)

theorem doMemPin_of_movable {t : State} (units : ∀ u ∈ c.units, ∃ e, s.mem.entry u = some e ∧ (e.dfail = true → e.tier = 0))
    (limit : (s.pinnedUnits ++ s.reservedPins ++ c.units).dedup.length ≤ 12582912) (moves : ∀ u ∈ c.units, s.cannotMove u = false)
    (near : (s.pinUnits c.units).allNear c.units = some t) : doMemPin c s = done c [] t.settlePeers := by
  have backed : ∀ u ∈ c.units, (s.mem.entry u).isSome = true := fun u mem => by
    obtain ⟨e, entry, -⟩ := units u mem
    rw [entry, Option.isSome_some]
  have good : (c.units.any fun u => match s.mem.entry u with | some e => e.dfail && e.tier != 0 | none => false) = false := by
    refine List.any_eq_false.2 fun u mem => ?_
    obtain ⟨e, entry, near⟩ := units u mem
    simpa [entry] using near
  have movable : c.units.find? s.cannotMove = none := List.find?_eq_none.2 fun u mem => by simp [moves u mem]
  refine (if_neg (ne_true_of_eq_false (any_isNone_eq_false backed))).trans ((if_neg (ne_true_of_eq_false good)).trans ((if_neg limit.not_gt).trans ?_))
  simp only [movable, near]

theorem doMemUnpin_of_backed (backed : ∀ u ∈ c.units, (s.mem.entry u).isSome = true) :
    doMemUnpin c s = done c [] (c.units.foldl State.refreshPin { s with mem := { s.mem with tmiPins := s.mem.tmiPins.filter fun u => !c.units.contains u } }) := by
  simp only [doMemUnpin, any_isNone_eq_false backed, Bool.false_eq_true, if_false]

/-! ## The host tier and DMA (R167, R327) -/

theorem doHostTierAdd_of_not_ok (bad : s.extentOk (fld c.desc 16 0 64) (fld c.desc 24 0 64) = false) : doHostTierAdd c s = refuse c 0x0205 s := by
  simp only [doHostTierAdd, bad, Bool.and_false, Bool.false_eq_true, if_false]
  rfl

/-- An extent that homes no unit and that no decant heads for goes at once. -/
theorem doHostTierRemove_of_empty {f n : Nat} (extent : extentAt s.mem.extents (fld c.desc 16 0 64) 0 = some (f, n)) (empty : s.unitsIn f n = [])
    (clear : ∀ d ∈ s.mem.decants, d.toTier = 2 → d.frame < f ∨ f + n ≤ d.frame) :
    doHostTierRemove c s = done c [] (State.marks { s with mem := s.mem.dropExtent (fld c.desc 16 0 64) f n }).settlePeers := by
  have none_heads : (s.mem.decants.filter fun d => d.toTier == 2 && decide (f ≤ d.frame ∧ d.frame < f + n)) = [] := by
    refine List.filter_eq_nil_iff.2 fun d mem => ?_
    have := clear d mem
    simp only [Bool.and_eq_true, beq_iff_eq, decide_eq_true_eq]
    omega
  simp only [doHostTierRemove, extent, empty, List.filter_nil, List.length_nil, Nat.not_lt_zero, List.any_nil, Bool.false_eq_true, if_false, List.foldl_nil,
    none_heads]

/-- Every unit that DMA_COPY names is one of the range's. -/
theorem dmaUnits_backed {dev n : Nat} (some_ : 0 < n) (backed : ∀ u, u * 65536 < dev + n → dev / 65536 ≤ u → (s.mem.entry u).isSome = true) :
    (((List.range ((dev % unitBytes + n + unitBytes - 1) / unitBytes)).map fun i => dev / unitBytes + i).any fun u => (s.mem.entry u).isNone) = false := by
  refine any_isNone_eq_false fun u mem => ?_
  simp only [unitBytes, List.mem_map, List.mem_range] at mem
  obtain ⟨i, low, rfl⟩ := mem
  exact backed _ (by omega) (by omega)

theorem doDmaCopy_of_backed (backed : ∀ u, u * 65536 < fld c.desc 24 0 48 + fld c.desc 32 0 31 → fld c.desc 24 0 48 / 65536 ≤ u → (s.mem.entry u).isSome = true) :
    doDmaCopy c s = if fld c.desc 36 0 1 = 0 then (dmaIn c (fld c.desc 24 0 48) (fld c.desc 32 0 31) s).settlePeers
      else (dmaOut c (fld c.desc 16 0 64) (fld c.desc 24 0 48) (fld c.desc 32 0 31) s).settlePeers :=
  if_neg fun ⟨some_, hole⟩ => by simp [dmaUnits_backed some_ backed] at hole

end

/-- Settles O12, a command at a time. -/
theorem unitAndHostTierCommandsComplete : Obligations.UnitAndHostTierCommandsComplete := by
  refine ⟨⟨?map, ?unmap, fun c s accepted written => next_runCmd accepted rfl, ?pin, fun c s accepted backed => next_runCmd accepted (doMemUnpin_of_backed backed)⟩,
    ?add, ?remove, fun c s accepted absent => next_runCmd accepted ?_, ?dmaIn, ?dmaOut⟩
  case map =>
    intro c s accepted
    exact ⟨fun free leaves room => next_runCmd accepted (doMemMap_of_room free leaves room),
      fun mapped => next_runCmd accepted (if_pos (List.any_eq_true.2 mapped))⟩
  case unmap =>
    intro c s accepted
    exact ⟨fun free => next_runCmd accepted (doMemUnmap_of_unpinned free), fun hole => next_runCmd accepted (if_pos (any_isNone_eq_true hole)),
      fun backed pinned => next_runCmd accepted (doMemUnmap_of_pinned backed pinned)⟩
  case pin =>
    intro c s t accepted units limit moves near
    exact next_runCmd accepted (doMemPin_of_movable units limit moves near)
  case add =>
    intro c s accepted
    exact ⟨fun ⟨cxl, ok⟩ => next_runCmd accepted (if_pos (by rw [cxl, ok]; rfl)), fun bad => next_runCmd accepted (doHostTierAdd_of_not_ok bad)⟩
  case remove =>
    intro c s f n accepted extent empty clear
    exact next_runCmd accepted (doHostTierRemove_of_empty extent empty clear)
  case dmaIn =>
    intro c s n d accepted length host data whole backed written
    subst length
    refine next_runCmd accepted ?_
    have taken : (d ++ List.replicate (fld c.desc 32 0 31) 0).take (fld c.desc 32 0 31) = d := by simp [← whole]
    rw [doDmaCopy_of_backed backed, if_pos host]
    simp only [dmaIn, data, taken, written, if_true]
  case dmaOut =>
    intro c s n b accepted length device wr backed read
    subst length
    refine next_runCmd accepted ?_
    rw [doDmaCopy_of_backed backed, if_neg (by omega)]
    simp only [dmaOut, read, wr]
  simp only [doHostTierRemove, absent]
  rfl

/-! ## The tiers' own rows (R176, R179, R181, R191) -/

theorem running_of {s : State} (opened : s.life.dev = .opened) (clocks : s.pwr.stopped = false) : s.running = true := by
  simp [State.running, opened, clocks]

theorem demotionSelect_of_victim {s : State} {die tier u : Nat} (runs : s.running = true) (demotes : s.demoting tier = true)
    (victim : s.marks.victim tier = some u) (takes : u % 4 = die ∧ s.mem.engineLoad u < 32 ∧ 0 < s.mem.freeFrames (tier + 1)) :
    exec (.demotionSelect die tier) s = .next ((s.marks.selected tier u).startDecant u (tier + 1)) := by
  simp only [exec, execDemotionSelect, runs, demotes, Bool.and_self, if_true, victim]
  exact if_pos takes

theorem decantComplete_of_clear {s : State} {u line : Nat} {found : Ecc} {d : Decant} (runs : s.running = true) (decant : s.decantOf u = some d)
    (clear : ∀ x ∈ s.mem.biWait, x.1 / 1024 = u → x.2.2.req ≠ Requester.decant) :
    exec (.decantComplete u line found) s = .next (s.endDecant d line found).settlePeers := by
  have none_waits : (s.mem.biWait.any fun x => x.1 / 1024 == u && x.2.2.req == Requester.decant) = false :=
    List.any_eq_false.2 fun x mem => by simpa using clear x mem
  simp only [exec, execDecantComplete, runs, none_waits, Bool.not_false, Bool.and_self, if_true, decant]

theorem mapSweep_of_old {s : State} {u : Nat} {e : UnitEntry} (runs : s.running = true) (entry : s.mem.entry u = some e)
    (old : 8388607 < (s.clk.age % 2 ^ 24 + 2 ^ 24 - e.touch) % 2 ^ 24) :
    exec (.mapSweep u) s = .next { s with mem := s.mem.setEntry u { e with touch := (s.clk.age + 2 ^ 24 - 8388607) % 2 ^ 24 } } := by
  simp only [exec, execMapSweep, entry]
  exact if_pos (by rw [runs, decide_eq_true old]; rfl)

/-- A line outside the device region whose code is good or corrected is only counted. -/
theorem scrubLine_of_good {s : State} {tier frame line : Nat} {found : Ecc} (unit_space : frame < nearFrames) (below : tier < 2)
    (code : found = .clean ∨ found = .corrected) (good : s.mem.lineBad tier frame line = false) :
    s.scrubLine tier frame line found = (if found = .corrected then s.countCorrected (16 * tier + line / 64) else s, false) := by
  have no_map : s.mem.mapLine tier frame line = none := if_neg fun h => by omega
  have place : frameLoc tier frame line = line / 64 := if_neg fun h => by omega
  rcases code with rfl | rfl
  · simp only [State.scrubLine, no_map, State.verdict, State.noteEcc, good]
    rfl
  · simp only [State.scrubLine, no_map, State.verdict, State.noteEcc, good, place, if_pos below, if_true]

theorem patrolScrub_of_good {s : State} {tier frame line : Nat} {found : Ecc} (runs : s.running = true) (unit_space : frame < nearFrames) (below : tier < 2)
    (calm : ∀ u e, s.mem.unitOf tier frame = some u → s.mem.entry u = some e → e.busy = false) (code : found = .clean ∨ found = .corrected)
    (good : s.mem.lineBad tier frame line = false) :
    exec (.patrolScrub tier frame line found) s = .next (
      let t := { s with mem := { s.mem with patrol := setAt s.mem.patrol tier (frame + 1) } }
      if found = .corrected then t.countCorrected (16 * tier + line / 64) else t) := by
  have scrubbed := scrubLine_of_good (s := { s with mem := { s.mem with patrol := setAt s.mem.patrol tier (frame + 1) } }) unit_space below code good
  have idle : (match s.mem.unitOf tier frame with
      | some u => (match s.mem.entry u with | some e => e.busy | none => false)
      | none => false) = false := by
    cases unit : s.mem.unitOf tier frame with
    | none => rfl
    | some u =>
      cases entry : s.mem.entry u with
      | none => simp [entry]
      | some e => simpa [entry] using calm u e unit entry
  refine (if_pos runs).trans ((if_neg (ne_true_of_eq_false idle)).trans ?_)
  simp only [scrubbed, Bool.false_eq_true, if_false]

/-- Settles O14, a row at a time. -/
theorem rimTierAndTimerRowsComplete : Obligations.RimTierAndTimerRowsComplete := by
  refine ⟨⟨?access, ?select, ?decant⟩, fun s aux => if_pos aux, ?sweep, ?full, ?scrub⟩
  case access =>
    intro a found mapA mapB held s opened clocks may
    exact if_pos (by rw [running_of opened clocks, may]; rfl)
  case select =>
    intro die tier u s opened clocks demotes victim die_u load room
    exact demotionSelect_of_victim (running_of opened clocks) demotes victim ⟨die_u, load, room⟩
  case decant =>
    intro u line found d s opened clocks decant clear
    exact decantComplete_of_clear (running_of opened clocks) decant clear
  case sweep =>
    intro u e s opened clocks entry old
    exact mapSweep_of_old (running_of opened clocks) entry old
  case full =>
    intro s opened clocks low host due
    have low : s.mem.freeFrames 1 < s.cfg.low 1 := low
    exact if_pos (by rw [running_of opened clocks, decide_eq_true low, host, due]; rfl)
  case scrub =>
    intro tier frame line found s opened clocks below unit_space calm code good
    exact patrolScrub_of_good (running_of opened clocks) unit_space below calm code good

end Sys2Proof.Machine

/-! # The direct registers -/
namespace Sys2Proof.Machine

/-! ## Sorting by a key -/

section
variable {α : Type} (f : α → Nat)

@[simp] theorem mem_insertBy {x y : α} {l : List α} : y ∈ insertBy f x l ↔ y = x ∨ y ∈ l := by
  induction l with
  | nil => simp [insertBy]
  | cons z l ih =>
    rw [insertBy]
    split_ifs
    · simp
    · simp only [List.mem_cons, ih]
      tauto

@[simp] theorem mem_sortBy {y : α} {l : List α} : y ∈ sortBy f l ↔ y ∈ l := by
  induction l with
  | nil => simp [sortBy]
  | cons x l ih => simpa [sortBy] using or_congr_right ih

theorem insertBy_sorted {x : α} {l : List α} (sorted : l.Pairwise fun a b => f a ≤ f b) : (insertBy f x l).Pairwise fun a b => f a ≤ f b := by
  induction l with
  | nil => simp [insertBy]
  | cons y l ih =>
    obtain ⟨first, rest⟩ := List.pairwise_cons.1 sorted
    rw [insertBy]
    split_ifs with below
    · refine List.pairwise_cons.2 ⟨fun z mem => ?_, sorted⟩
      rcases List.mem_cons.1 mem with rfl | mem
      · exact below.le
      · exact below.le.trans (first z mem)
    · refine List.pairwise_cons.2 ⟨fun z mem => ?_, ih rest⟩
      rcases (mem_insertBy f).1 mem with rfl | mem
      · exact not_lt.1 below
      · exact first z mem

theorem sortBy_sorted (l : List α) : (sortBy f l).Pairwise fun a b => f a ≤ f b := by
  induction l with
  | nil => exact List.Pairwise.nil
  | cons x l ih => exact insertBy_sorted f ih

/-- The head of a sorted list is one of its least. -/
theorem head?_sortBy {l : List α} {r : α} (head : (sortBy f l).head? = some r) : r ∈ l ∧ ∀ x ∈ l, f r ≤ f x := by
  cases eq : sortBy f l with
  | nil => simp [eq] at head
  | cons y rest =>
    rw [eq, List.head?_cons, Option.some_inj] at head
    subst head
    have sorted := sortBy_sorted f l
    rw [eq] at sorted
    have mem (x : α) : x ∈ l ↔ x = y ∨ x ∈ rest := by rw [← mem_sortBy f, eq, List.mem_cons]
    refine ⟨(mem y).2 (.inl rfl), fun x held => ?_⟩
    rcases (mem x).1 held with rfl | later
    · rfl
    · exact (List.pairwise_cons.1 sorted).1 x later

end

/-- What the recorder window finds at or after a number (R433). -/
theorem firstFrom_least {e : Recorder} {n : Nat} {r : Record} (first : e.firstFrom n = some r) :
    n ≤ r.seq ∧ (r ∈ e.ring ∨ r ∈ e.staging) ∧ ∀ x, x ∈ e.ring ∨ x ∈ e.staging → n ≤ x.seq → r.seq ≤ x.seq := by
  obtain ⟨mem, least⟩ := head?_sortBy Record.seq first
  simp only [List.mem_filter, Recorder.records, List.mem_append, decide_eq_true_eq] at mem least
  exact ⟨mem.2, mem.1, fun x held above => least x ⟨held, above⟩⟩

/-! ## The device interrupt (R439) -/

theorem msix_of_unmasked {s : State} {vec : Nat} (unmasked : s.regs.msixMasked.contains vec = false) :
    s.msix vec = { s with out := { s.out with msix := s.out.msix ++ [(0, vec)] } } := by
  rw [State.msix, unmasked]
  rfl

/-- Bits set by events. -/
theorem devInt_intStatus (s : State) (bits : BitVec 32) : (s.devInt bits).regs.intStatus = s.regs.intStatus ||| bits := by
  simp only [State.devInt, State.msix]
  split_ifs <;> rfl

/-- No enabled bit rises: no message. -/
theorem devInt_of_quiet {s : State} {bits : BitVec 32} (quiet : bits &&& ~~~ s.regs.intStatus &&& s.regs.intEnable = 0) :
    s.devInt bits = { s with regs := { s.regs with intStatus := s.regs.intStatus ||| bits } } := if_pos quiet

/-- An enabled bit rises: its message goes out where its vector is not masked. -/
theorem devInt_of_rise {s : State} {bits : BitVec 32} (rise : bits &&& ~~~ s.regs.intStatus &&& s.regs.intEnable ≠ 0)
    (unmasked : s.regs.msixMasked.contains (s.regs.intVec.toNat % 64) = false) :
    s.devInt bits = { s with regs := { s.regs with intStatus := s.regs.intStatus ||| bits }, out := { s.out with msix := s.out.msix ++ [(0, s.regs.intVec.toNat % 64)] } } :=
  (if_neg rise).trans (msix_of_unmasked unmasked)

/-- A set in the same cc wins over the clear. -/
theorem writeIntStatus_intStatus (s : State) (v hw : BitVec 32) :
    (s.writeIntStatus v hw).regs.intStatus = (s.regs.intStatus &&& ~~~ v) ||| (hw &&& 0xF) := by
  have set_wins (a b c : BitVec 32) : ((a ||| b) &&& c) ||| b = (a &&& c) ||| b := by
    ext i
    simp only [BitVec.getElem_or, BitVec.getElem_and]
    cases (b[i]) <;> simp
  rw [State.writeIntStatus]
  simp only [devInt_intStatus]
  exact set_wins ..

theorem writeIntEnable_of_clear {s : State} {v : BitVec 32} (clear : v &&& 0xF &&& s.regs.intStatus = 0) :
    s.writeIntEnable v = { s with regs := { s.regs with intEnable := v &&& 0xF } } := if_pos clear

theorem writeIntEnable_of_set {s : State} {v : BitVec 32} (set : v &&& 0xF &&& s.regs.intStatus ≠ 0)
    (unmasked : s.regs.msixMasked.contains (s.regs.intVec.toNat % 64) = false) :
    s.writeIntEnable v = { s with regs := { s.regs with intEnable := v &&& 0xF }, out := { s.out with msix := s.out.msix ++ [(0, s.regs.intVec.toNat % 64)] } } :=
  (if_neg set).trans (msix_of_unmasked unmasked)

/-! ## Pair 0 (R441) -/

section
variable {s : State} {v : BitVec 32}

theorem p0Arm_of_size (arms : v.getLsbD 0 = true) (idle : s.regs.arm = false) (low : 6 ≤ (s.regs.p0Write v).toNat / 2 % 16)
    (high : (s.regs.p0Write v).toNat / 2 % 16 ≤ 12) : ∃ t p, exec (.p0Arm v) s = .next t ∧ kget t.tmi.pairs 0 = some p
      ∧ p.log2n = (s.regs.p0Write v).toNat / 2 % 16 ∧ p.cbase = s.regs.p0c.toNat ∧ p.qbase = s.regs.p0q.toNat ∧ p.sbase = s.regs.p0s.toNat
      ∧ p.chead = 0 ∧ p.ctail = 0 ∧ p.tail = 0 ∧ p.qhead = 0 ∧ p.nlost = 0 ∧ p.stopped = false ∧ p.closing = false
      ∧ t = { s with
          regs := { s.regs with p0ctl := s.regs.p0Write v, armErr := false, armed := true }
          tmi := { s.tmi with pairs := kput s.tmi.pairs 0 p }
          out := { s.out with writes := s.out.writes ++ [(0, s.regs.p0s.toNat, p.status)] } } := by
  have armed : exec (.p0Arm v) s = .next (s.armPair0 v) := if_pos (by rw [arms, idle]; rfl)
  have size : ¬ ((s.regs.p0Write v).toNat / 2 % 16 < 6 ∨ 12 < (s.regs.p0Write v).toNat / 2 % 16) := by omega
  let p : Pair := { s.regs with p0ctl := s.regs.p0Write v, armErr := false }.pair0 (match kget s.tmi.pairs 0 with | some p => p.fetched | none => [])
  have captured : s.armPair0 v = { s with
      regs := { s.regs with p0ctl := s.regs.p0Write v, armErr := false, armed := true }
      tmi := { s.tmi with pairs := kput s.tmi.pairs 0 p }
      out := { s.out with writes := s.out.writes ++ [(0, s.regs.p0s.toNat, p.status)] } } := by
    refine (if_neg size).trans ?_
    simp only [State.writeStatus, kget_kput]
    rfl
  refine ⟨_, p, armed, ?_, rfl, rfl, rfl, rfl, rfl, rfl, rfl, rfl, rfl, rfl, rfl, captured⟩
  rw [captured]
  exact kget_kput ..

theorem p0Arm_of_wrong_size (arms : v.getLsbD 0 = true) (idle : s.regs.arm = false)
    (size : (s.regs.p0Write v).toNat / 2 % 16 < 6 ∨ 12 < (s.regs.p0Write v).toNat / 2 % 16) :
    exec (.p0Arm v) s = .next { s with regs := { s.regs with p0ctl := s.regs.p0Write v, armErr := true } } :=
  (if_pos (by rw [arms, idle]; rfl)).trans (congrArg _ (if_pos size))

theorem p0Disarm_of_armed {p : Pair} (disarms : v.getLsbD 0 = false) (armed : s.regs.arm = true) (pair : kget s.tmi.pairs 0 = some p) :
    exec (.p0Disarm v) s = .next (State.settlePairs { s with
      regs := { s.regs with p0ctl := s.regs.p0Write v }
      tmi := { s.tmi with pairs := kput s.tmi.pairs 0 { p with closing := true } } }) := by
  refine (if_pos (by rw [disarms, armed]; rfl)).trans ?_
  simp only [State.disarmPair0, kmod_of_some _ pair]

end

/-! ## Serving-ring doorbells (R445) -/

section
variable {s : State} {port1 : Bool} {ring : Nat} {v : BitVec 32}

/-- The doorbell's ring, input or output, where it is live. -/
theorem sringDb_of_ring {r : SRing} {output : Bool} (port : port1 = (s.ringPort ring == 1))
    (live : (if output then kget s.srv.outs ring else kget s.srv.subs ring) = some r) :
    exec (.sringDb port1 output ring v) s = .next (ringDoorbell output ring v r s) := by
  simp only [exec, execSringDb, State.sringDoorbell, if_pos port, live]

theorem sringDb_of_none {output : Bool} (port : port1 = (s.ringPort ring == 1))
    (absent : (if output then kget s.srv.outs ring else kget s.srv.subs ring) = none) :
    exec (.sringDb port1 output ring v) s = .next { s with regs := { s.regs with dbDrop := min (s.regs.dbDrop + 1) 0xFFFFFFFF } } := by
  simp only [exec, execSringDb, State.sringDoorbell, if_pos port, absent]
  rfl

theorem ringDoorbell_of_index {r : SRing} (output : Bool) (index : v.toNat % 65536 < 2 ^ r.log2n) :
    ringDoorbell output ring v r s = { s with srv := if output then { s.srv with outs := kput s.srv.outs ring { r with db := v.toNat % 65536 } }
      else { s.srv with subs := kput s.srv.subs ring { r with db := v.toNat % 65536 } } } := if_neg index.not_ge

theorem ringDoorbell_of_excess {r : SRing} (output : Bool) (excess : 2 ^ r.log2n ≤ v.toNat % 65536) :
    ringDoorbell output ring v r s = s.ringError (if output then 3 else 2) ring v.toNat := if_pos excess

end

/-! ## Writes by offset (R435) -/

/-- A write of a scratch word. -/
theorem writeReg_scratch (s : State) (v : BitVec 32) {i : Nat} (word : i < 4) :
    s.writeReg (0x310 + 4 * i) v = { s with regs := { s.regs with scratch := setAt s.regs.scratch i v } } := by
  have index : (0x310 + 4 * i - 0x310) / 4 = i := by omega
  rw [State.writeReg, if_neg (by omega), if_neg (by omega), if_neg (by omega), if_pos (by omega), index]

/-- The words below 0x108 are read-only. -/
theorem writeReg_of_readOnly (s : State) (v : BitVec 32) {off : Nat} (low : off < 0x108) : s.writeReg off v = s := by
  have msix : ¬ (msixBase ≤ off ∧ off < msixBase + 1024) := by simp only [msixBase]; omega
  rw [State.writeReg, if_neg (by omega), if_neg (by omega), if_neg (by omega), if_neg (by omega), if_neg (by omega), if_neg (by omega), if_neg (by omega),
    if_neg (by omega), if_neg (by omega), if_neg (by omega), if_neg (by omega), if_neg (by omega), if_neg msix]

section
variable {s : State} (on : s.life.dev ≠ .off) (v : BitVec 64)
include on

theorem registerWrite_word {off : Nat} (aligned : off % 4 = 0) : exec (.registerWrite off 4 v) s = .next (s.writeReg off (v.setWidth 32)) :=
  (if_neg on).trans (if_pos ⟨rfl, aligned⟩)

theorem registerWrite_pair0Base (idle : s.regs.armed = false) :
    exec (.registerWrite 0x1000 8 v) s = .next { s with regs := { s.regs with held := kdel s.regs.held 0x1000, p0c := v &&& 0xFFFFFFFFFFFFF000 } } := by
  refine (if_neg on).trans ((if_neg (by omega)).trans ((if_pos ⟨rfl, rfl⟩).trans ?_))
  simp [State.writeReg8, State.writeBase, idle]

theorem registerWrite_other_width {off w : Nat} (not4 : w ≠ 4) (not8 : w ≠ 8) : exec (.registerWrite off w v) s = .next s :=
  (if_neg on).trans ((if_neg fun h => not4 h.1).trans (if_neg fun h => not8 h.1))

end

/-! ## The recorder window (R446) -/

theorem evrWinFetchDone_of_busy {s : State} {n : Nat} (busy : s.regs.winBusy = some n) : ∃ t, exec .evrWinFetchDone s = .next t
    ∧ t.regs.winBusy = none ∧ t.regs.winRec = s.evr.firstFrom n ∧ t.regs.winNone = (s.evr.firstFrom n).isNone
    ∧ t.regs.intStatus = s.regs.intStatus ||| 8 ∧ t.evr = s.evr := by
  let u : State := { s with regs := { s.regs with winBusy := none, winRec := s.evr.firstFrom n, winNone := (s.evr.firstFrom n).isNone } }
  have ends : exec .evrWinFetchDone s = .next (u.devInt 8) := by simp only [exec, execEvrWinFetchDone, busy, u]
  have window : (u.devInt 8).regs.winBusy = none ∧ (u.devInt 8).regs.winRec = s.evr.firstFrom n ∧ (u.devInt 8).regs.winNone = (s.evr.firstFrom n).isNone
      ∧ (u.devInt 8).evr = s.evr := by
    simp only [State.devInt, State.msix]
    split_ifs <;> exact ⟨rfl, rfl, rfl, rfl⟩
  obtain ⟨idle, found, empty, evr⟩ := window
  exact ⟨_, ends, idle, found, empty, devInt_intStatus u 8, evr⟩

/-- Settles O34, a register at a time. -/
theorem registerRowsComplete : Obligations.RegisterRowsComplete := by
  refine ⟨⟨?arm, fun v p s disarms armed pair => p0Disarm_of_armed disarms armed pair, ?status, ?enable, ?doorbell⟩,
    fun _ _ => rfl, ?next, ?fetched, fun _ => rfl, fun _ on => if_neg on, fun _ opened clocks => if_pos ⟨opened, clocks⟩, ?write⟩
  case arm =>
    rintro v _ s arms idle rfl
    exact ⟨p0Arm_of_size arms idle, p0Arm_of_wrong_size arms idle⟩
  case status =>
    intro v hw s
    refine ⟨_, rfl, writeIntStatus_intStatus s v hw, fun quiet => ?_, fun rise unmasked => ?_⟩
    · simp only [State.writeIntStatus, intMask, devInt_of_quiet quiet]
    · simp only [State.writeIntStatus, intMask, devInt_of_rise rise unmasked]
  case enable =>
    intro v s
    exact ⟨fun clear => congrArg _ (writeIntEnable_of_clear clear), fun set unmasked => congrArg _ (writeIntEnable_of_set set unmasked)⟩
  case doorbell =>
    intro port1 ring v r s port
    refine ⟨fun live index => ?_, fun live index => ?_, fun live excess => ?_, fun live excess => ?_, fun absent => sringDb_of_none port absent,
      fun absent => sringDb_of_none port absent⟩
    · rw [sringDb_of_ring (output := false) port live, ringDoorbell_of_index false index]
      rfl
    · rw [sringDb_of_ring (output := true) port live, ringDoorbell_of_index true index]
      rfl
    · exact (sringDb_of_ring (output := false) port live).trans (congrArg _ (ringDoorbell_of_excess false excess))
    · exact (sringDb_of_ring (output := true) port live).trans (congrArg _ (ringDoorbell_of_excess true excess))
  case next =>
    intro v r s held next
    simp only [exec, execEvrWinNext, State.writeWinCtl, held, next, if_true]
    rfl
  case fetched =>
    intro n s busy
    obtain ⟨t, ends, idle, found, empty, status, evr⟩ := evrWinFetchDone_of_busy busy
    exact ⟨t, ends, idle, found, empty, status, evr, fun r first => firstFrom_least first⟩
  case write =>
    intro v s on
    refine ⟨fun i word => ?_, ?_, registerWrite_pair0Base on v, fun off low aligned => ?_, fun off w not4 not8 => registerWrite_other_width on v not4 not8⟩
    · rw [registerWrite_word on v (by omega), writeReg_scratch s _ word]
    · exact registerWrite_word on v rfl
    · rw [registerWrite_word on v aligned, writeReg_of_readOnly s _ low]

end Sys2Proof.Machine

/-! # Serving rings, descriptors and serving commands -/
namespace Sys2Proof.Machine

/-! ## Records (R197, R198) -/

theorem ringVector_writes_srv (s : State) (ring vec : Nat) : (s.ringVector ring vec).out.writes = s.out.writes ∧ (s.ringVector ring vec).srv = s.srv := by
  unfold State.ringVector State.msix
  split_ifs <;> exact ⟨rfl, rfl⟩

/-- A record on a live ring whose link is up: the two writes, and then the vector where enabled. -/
theorem writeRecord_of_live {s : State} {ring : Nat} {r : SRing} (rec : Bytes) (live : kget s.srv.outs ring = some r) (runs : r.stopped = false)
    (linked : s.ringLinked ring = true) : (s.writeRecord ring rec).out.writes
      = s.out.writes ++ [(s.ringPort ring, r.base + 16 * r.ptr, rec), (s.ringPort ring, r.sbase, le 8 ((r.ptr + 1) % 2 ^ r.log2n))]
    ∧ (s.writeRecord ring rec).srv = { s.srv with outs := kput s.srv.outs ring { r with ptr := (r.ptr + 1) % 2 ^ r.log2n } } := by
  simp only [State.writeRecord, live, runs, linked, Bool.not_true, Bool.false_eq_true, if_false]
  split_ifs
  · rw [(ringVector_writes_srv _ _ _).1, (ringVector_writes_srv _ _ _).2]
    exact ⟨by simp [State.hostWrite], rfl⟩
  · exact ⟨by simp [State.hostWrite], rfl⟩

/-- Settles O37. -/
theorem recordIsWrittenBeforeItsStatusWord : Obligations.RecordIsWrittenBeforeItsStatusWord := by
  refine ⟨fun s ring r rec live runs linked => writeRecord_of_live rec live runs linked, fun s ring r rec ring_ stopped => ?_⟩
  simp only [State.writeRecord, ring_, stopped, if_true]

/-! ## Descriptors (R198 to R203) -/

section
variable {s : State} {ring : Nat} {q : SRing}

/-- The ring that round-robin order serves gives its descriptor. -/
theorem submissionFetch_of_next {d : Bytes} (runs : s.running = true) (next : s.nextRing = some ring) (live : kget s.srv.subs ring = some q)
    (length : d.length = 64) : exec (.submissionFetch ring (.ok d)) s = .next (takeDescriptor ring q d s) := by
  have whole : (d ++ List.replicate 64 0).take 64 = d := by rw [← length, List.take_left]
  simp only [exec, execSubmissionFetch, runs, next, beq_self_eq_true, Bool.and_self, if_true, live, whole]

theorem submissionFetch_of_failed (runs : s.running = true) (next : s.nextRing = some ring) (live : kget s.srv.subs ring = some q) :
    exec (.submissionFetch ring .cxlError) s =
      .next (State.ringError { s with srv := { s.srv with subs := kput s.srv.subs ring { q with stopped := true }, rr := (ring + 1) % 16 } } 5 ring 0) := by
  simp only [exec, execSubmissionFetch, runs, next, beq_self_eq_true, Bool.and_self, if_true, live]

end

section
variable {s u : State} {ring : Nat} {d : Bytes}

theorem submit_of_op {prompt : HostRead} (can : s.canProcess ring d = true) (op : sdcOp d = 1) : exec (.submit ring d prompt) s
    = match submitCheck (s.popTaken ring d) d with
      | .error st => .next ((s.popTaken ring d).refused d 0 st)
      | .ok (pn, p) => .next (admitReq d prompt pn p (s.popTaken ring d)) :=
  if_pos (by rw [can, op]; rfl)

section
variable {r : Req} (can : s.canProcess ring d = true) (popped : u = s.popTaken ring d) (named : u.named d = some r) (clean : reservedZero d sdcFields = true)
include can popped named clean

theorem cancel_of_named (op : sdcOp d = 2) : exec (.cancel ring d) s
    = if r.st = .handoff then .next (u.refused d (sdcRidx d) svHandoffBusy) else .next (u.modReq (sdcRidx d) fun r => { r with canreq := true }) := by
  subst popped
  simp only [exec, execCancel, can, op, beq_self_eq_true, Bool.and_self, if_true, named, clean, Bool.true_eq_false, if_false]

theorem pause_of_named (op : sdcOp d = 3) (works : r.st = .prefill ∨ r.st = .decode) : exec (.pause ring d) s
    = .next (u.modReq (sdcRidx d) fun r => { r with paureq := true }) := by
  subst popped
  have here : r.st ≠ .handoff := by rcases works with h | h <;> simp [h]
  simp only [exec, execPause, can, op, beq_self_eq_true, Bool.and_self, if_true, named, clean, Bool.true_eq_false, if_false, if_neg here, if_pos works]

theorem resume_of_named (op : sdcOp d = 4) : exec (.resume ring d) s
    = if r.phost then .next (u.modReq (sdcRidx d) fun r => { r with resreq := true }) else .next (u.refused d (sdcRidx d) svDesc) := by
  subst popped
  simp only [exec, execResume, can, op, beq_self_eq_true, Bool.and_self, if_true, named, clean, Bool.true_and]

end

end

theorem named_of_tag {u : State} {d : Bytes} {r : Req} (entry : kget u.srv.reqs (sdcRidx d) = some r) (tag : r.tag = sdcTag d) : u.named d = some r := by
  simp [State.named, entry, tag]

theorem modReq_of_some {u : State} {i : Nat} {r : Req} (f : Req → Req) (entry : kget u.srv.reqs i = some r) :
    u.modReq i f = { u with srv := { u.srv with reqs := kput u.srv.reqs i (f r) } } := by
  rw [State.modReq, kmod_of_some f entry]

/-- Settles O35, a descriptor's row at a time. -/
theorem descriptorRowsComplete : Obligations.DescriptorRowsComplete := by
  refine ⟨?fetch, ?submit, ?others, ?prompt, ?output⟩
  case fetch =>
    intro ring d q s runs next live length
    rw [submissionFetch_of_next runs next live length]
    refine ⟨fun o out runs => ?_, fun none_ => ?_, submissionFetch_of_failed runs next live⟩
    · simp only [takeDescriptor, out, runs, Bool.false_eq_true, if_false]
      rfl
    · simp only [takeDescriptor, none_, if_true]
      rfl
  case submit =>
    intro ring d prompt s can op
    rw [submit_of_op can op]
    exact ⟨fun st fails => by rw [fails], fun pn p passes => by rw [passes]⟩
  case others =>
    intro ring d r s u can popped entry tag clean
    have named := named_of_tag entry tag
    refine ⟨fun op free => ?_, fun op works => ?_, fun op host => ?_, fun op busy => ?_, fun op awake => ?_⟩
    · rw [cancel_of_named can popped named clean op, if_neg free, modReq_of_some _ entry]
    · rw [pause_of_named can popped named clean op works, modReq_of_some _ entry]
    · rw [resume_of_named can popped named clean op, if_pos host, modReq_of_some _ entry]
    · rw [cancel_of_named can popped named clean op, if_pos busy]
    · rw [resume_of_named can popped named clean op, awake]
      rfl
  case prompt =>
    intro ridx r s runs entry
    exact (if_pos runs).trans (congrArg _ (modReq_of_some _ entry))
  case output =>
    intro ring r s runs live open_ idle
    refine (if_pos runs).trans ?_
    simp only [live, idle, Option.isSome_none, open_, Bool.false_eq_true, if_false]

/-! ## The serving commands (Table 11.9) -/

theorem doSringDestroy_output {c : Cmd} {s : State} {r : SRing} (out : fld c.desc 16 4 1 = 1) (live : kget s.srv.outs (fld c.desc 16 0 4) = some r)
    (unnamed : ∀ e ∈ s.srv.reqs, e.2.oring ≠ fld c.desc 16 0 4) :
    doSringDestroy c s = done c [] { s with srv := { s.srv with outs := kdel s.srv.outs (fld c.desc 16 0 4) } } := by
  have free : (s.srv.reqs.any fun e => e.2.oring == fld c.desc 16 0 4) = false := List.any_eq_false.2 fun e mem => by simpa using unnamed e mem
  simp only [doSringDestroy, out, if_true, live, Option.isNone_some, free, Bool.false_eq_true, if_false]

/-- Settles O39, a command at a time. -/
theorem servingCommandsComplete : Obligations.ServingCommandsComplete := by
  refine ⟨?create, ?destroy, ?query, ?key⟩
  case create =>
    intro c s accepted
    refine ⟨fun ok out => next_runCmd accepted ?_, fun ok sub => next_runCmd accepted ?_, fun bad => next_runCmd accepted ?_⟩
    · simp only [doSringCreate, ok, out, if_true]
    · simp only [doSringCreate, ok, sub, if_true, if_false]
    · exact if_neg (ne_true_of_eq_false bad)
  case destroy =>
    intro c r s accepted
    refine ⟨fun out live unnamed => next_runCmd accepted (doSringDestroy_output out live unnamed), fun sub live => next_runCmd accepted ?_⟩
    simp only [doSringDestroy, sub, if_false, live, Option.isNone_some, Bool.false_eq_true]
  case query =>
    intro c s accepted
    refine ⟨fun free => next_runCmd accepted ?_, fun r live => next_runCmd accepted ?_⟩
    · simp only [doReqQuery, free]
    · simp only [doReqQuery, live]
  case key =>
    rintro c s _ accepted rfl
    refine next_runCmd accepted ?_
    unfold doTenantKeySet State.setKey
    split_ifs <;> rfl

end Sys2Proof.Machine

/-! # Handoffs -/
namespace Sys2Proof.Machine

/-! ## At the receiver (R229, R230, R232) -/

section
variable {s u : State} {node ridx tag gen : Nat}

theorem hoOpen_of_here {m : HoOpen} (runs : s.running = true) (here : s.seHere 0x08 m.node m.tag = true) : exec (.hoOpen m) s
    = match openCheck (s.takeSe 0x08 m.node m.tag) m with
      | .error code => .next ((s.takeSe 0x08 m.node m.tag).seReply m.node m.tag m.gen m.cls (.refuse code))
      | .ok (pn, p) => .next (acceptOpen m pn p (s.takeSe 0x08 m.node m.tag)) :=
  if_pos (by rw [runs, here]; rfl)

theorem hoCommit_of_entry {budget : Nat} {r : Req} {p : Partition} (runs : s.running = true) (here : s.seHere 0x08 node tag = true)
    (taken : u = s.takeSe 0x08 node tag) (entry : kget u.srv.reqs ridx = some r) (hands : r.st = .handoff) (receives : r.hrecv = true)
    (source : r.pnode = node) (part : u.part r.part = some p) (fresh : u.staleRequest (seRequest u node tag gen r.cls) = false) :
    exec (.hoCommit node ridx tag gen budget) s = .next (takeCommit node ridx tag gen budget r p u) := by
  subst taken
  have named : (kget (s.takeSe 0x08 node tag).srv.reqs ridx).filter (fun r => r.st == .handoff && r.hrecv && r.pnode == node) = some r := by
    simp [entry, hands, receives, source]
  simp only [exec, execHoCommit, runs, here, Bool.and_self, if_true, named, part, fresh, Bool.false_eq_true, if_false]

theorem hoAbort_of_entry {i : Nat} {r : Req} (runs : s.running = true) (here : s.seHere 0x08 node tag = true) (taken : u = s.takeSe 0x08 node tag)
    (fresh : ∀ c, u.staleRequest (seRequest u node tag gen c) = false) (entry : u.recvOf node ridx = some (i, r)) :
    exec (.hoAbort node ridx tag gen) s = .next (((u.closeRecv i).freeReq i).seReply node tag gen r.cls .aborted).startHandoffs := by
  subst taken
  simp only [exec, execHoAbort, runs, here, Bool.and_self, if_true, fresh, Bool.false_eq_true, if_false, entry]

theorem hoReceiverSilence_of_entry {r : Req} (runs : s.running = true) (entry : kget s.srv.reqs ridx = some r) (hands : r.st = .handoff)
    (receives : r.hrecv = true) : exec (.hoReceiverSilence ridx) s = .next (State.startHandoffs (State.stage ((s.closeRecv ridx).endReq ridx svPeer) 0x000D
      (pack 32 [(0, 0, 8, 2), (1, 0, 16, ridx), (3, 0, 32, r.tag)]))) := by
  have named : (kget s.srv.reqs ridx).filter (fun r => r.st == .handoff && r.hrecv) = some r := by simp [entry, hands, receives]
  simp only [exec, execHoReceiverSilence, named, runs, if_true]

end

/-! ## At the source (R228, R229, R231) -/

section
variable {s : State} {ridx : Nat} {h : Handoff} (runs : s.running = true) (source : s.sourceOf ridx = some h)
include runs source

theorem hoAccept_of_open {peer : Nat} {pages : List Nat} (uncommitted : h.committed = false) (empty : h.peerPages = [])
    (here : s.answerHere ridx h.node = true) :
    exec (.hoAccept ridx peer pages) s = .next (((((s.answered ridx h.node).modReq ridx fun r => { r with pridx := peer }).modHandoff ridx
      fun h => { h with peerPages := pages, shipped := 0, unacked := [] }).orderShards ridx).shipMore ridx 17) := by
  simp only [exec, execHoAccept, source, runs, uncommitted, empty, here, Bool.not_false, List.isEmpty_nil, Bool.and_self, if_true]

theorem hoRefusal_of_open {busy : Bool} {st : Nat} (uncommitted : h.committed = false) (here : s.answerHere ridx h.node = true) :
    exec (.hoRefusal ridx st busy) s = if busy then .next ((s.answered ridx h.node).modHandoff ridx fun h => { h with busyWait := true })
      else .next ((s.answered ridx h.node).tryAlternate ridx st).startHandoffs := by
  simp only [exec, execHoRefusal, source, runs, uncommitted, here, Bool.not_false, Bool.and_self, if_true]

theorem hoBusyRetry_of_sent {r : Req} {m : Manifest} {t : State} (entry : kget s.srv.reqs ridx = some r) (man : s.manOf r = some m)
    (waits : h.busyWait = true) (sent : s.sendOpen ridx (m.anode != 0xFFFF && !h.alt) = (false, t)) : exec (.hoBusyRetryTimer ridx) s = .next t := by
  simp only [exec, execHoBusyRetryTimer, source, entry, Option.bind_some, man, runs, waits, Bool.and_self, if_true, sent, Bool.false_eq_true, if_false]

theorem hoCommitComplete_of_committed {ok : Bool} {r : Req} (entry : kget s.srv.reqs ridx = some r) (committed : h.committed = true) :
    exec (.hoCommitComplete ridx ok) s = if !ok then .next ((s.answered ridx h.node).endReq ridx svPeer).startHandoffs
      else if s.answerHere ridx h.node then .next (handOver ridx r h (s.answered ridx h.node)) else .next s := by
  simp only [exec, execHoCommitComplete, source, entry, runs, committed, Bool.and_self, if_true]

end

/-- An acknowledgement of the page that a transaction ships. -/
theorem kvack_of_ship {s u : State} {port ridx : Nat} {p : Packet} {x : FabTx} (here : s.inIngress p = true) (ptype : p.ptype = 0x14)
    (left : u = s.leaveIngress p) (tx : u.txOf p.tag = some x) (node : x.node = p.src) (ships : x.ptype = 0x07) (user : x.user = .serving ridx) :
    exec (.kvack port p) s = .next (((((u.endTx x fsOk []).afterTx).settleFrom u.fab.done.length).modHandoff ridx
      fun h => { h with unacked := h.unacked.erase x.addr }).shipMore ridx 17) := by
  subst left
  have answers : ((s.leaveIngress p).txOf p.tag).filter (fun t => t.node == p.src && t.ptype == 0x07) = some x := by simp [tx, node, ships]
  refine (if_neg (by simp [here, ptype])).trans ?_
  simp only [answers, user]

/-- Settles O38, a message at a time. -/
theorem handoffRowsComplete : Obligations.HandoffRowsComplete := by
  refine ⟨?opens, ?answers, ?retry, ?ship, fun port ridx p x s u here ptype left tx node ships user => kvack_of_ship here ptype left tx node ships user,
    fun node ridx tag gen budget r p s u runs here taken entry hands receives source part fresh =>
      hoCommit_of_entry runs here taken entry hands receives source part fresh, ?complete,
    fun node ridx tag gen i r s u runs here taken fresh entry => hoAbort_of_entry runs here taken fresh entry,
    fun ridx r s runs entry hands receives => hoReceiverSilence_of_entry runs entry hands receives⟩
  case opens =>
    intro m s runs here
    rw [hoOpen_of_here runs here]
    exact ⟨fun e fails => by rw [fails], fun pn p passes => by rw [passes]⟩
  case answers =>
    intro ridx peer pages h s runs source uncommitted here
    exact ⟨fun empty => hoAccept_of_open runs source uncommitted empty here, fun st => hoRefusal_of_open runs source uncommitted here,
      fun st => hoRefusal_of_open runs source uncommitted here⟩
  case retry =>
    intro ridx h r m s t runs source entry man waits sent
    exact hoBusyRetry_of_sent runs source entry man waits sent
  case ship =>
    intro p s runs ptype here
    exact if_pos (by rw [runs, ptype, here]; rfl)
  case complete =>
    intro ridx h r s runs source entry committed
    rw [hoCommitComplete_of_committed runs source entry committed, hoCommitComplete_of_committed runs source entry committed]
    exact ⟨fun here => if_pos here, rfl⟩

end Sys2Proof.Machine

/-! # Fabric requests and request packets (R244 to R274) -/
namespace Sys2Proof.Machine

/-! ## A request of this chip -/

section
variable {s : State} {r : FabReq} {h : Nat}

/-- A request with no earlier one of its requester at the rim is taken up at once. -/
theorem fabricRequest_of_asked (runs : s.running = true) (asked : s.fabricAsked r = true) (first : (s.takeFabric r).userWaits r.user = false) :
    exec (.fabricRequest r) s = .next (((s.takeFabric r).fabTakeUp r).settleFrom s.fab.done.length) := by
  simp only [exec, execFabricRequest, runs, asked, Bool.and_self, if_true, State.fabRequest, first, Bool.false_eq_true, if_false]

/-- A read of one line breaks no rule of R252 and carries no barrier round: it is routed as it stands. -/
theorem fabTakeUp_lineRead (u : State) (read : r.ptype = 0x01) (line : r.granules = 1) :
    u.fabTakeUp r = u.routeReq r (u.endLocal r) (u.issue r) := by
  simp only [State.fabTakeUp, State.withRound, read, line]
  rfl

/-- To a node of the block, over a hop with an open port, no change or hold and a tag, a request is issued. -/
theorem routeReq_of_open {u : State} (ended issue : Nat → State) (steady : u.fab.change = none) (other : r.node ≠ u.nodeId) (inside : u.inMyBlock r.node = true)
    (way : u.hopTo r.node = some h) (free : kget u.fab.holds h = none) (ports : u.openPorts h ≠ []) (tag : u.tagAvailable r.cls = true) :
    u.routeReq r ended issue = issue h := by
  have isOpen : (u.openPorts h).isEmpty = false := by simpa using ports
  simp only [State.routeReq, steady, Option.isSome_none, Bool.false_eq_true, if_false, inside, Bool.true_eq_false, other, way, free, isOpen, tag, if_true]

theorem routeReq_outside {u : State} (ended issue : Nat → State) (steady : u.fab.change = none) (outside : u.inMyBlock r.node = false) :
    u.routeReq r ended issue = ended fsNoRoute := by
  simp only [State.routeReq, steady, Option.isSome_none, Bool.false_eq_true, if_false, outside, if_true]

end

/-! ## Request packets at their destination -/

section
variable {p : Packet} {s : State}

/-- A request row takes its packet out of the ingress buffer and performs it. -/
theorem requestRow_of_waiting {t : Nat} (runs : s.running = true) (waits : s.inIngress p = true) (type : p.ptype = t) :
    requestRow t p s = (s.leaveIngress p).serveRequest p := by
  simp only [requestRow, runs, waits, type, beq_self_eq_true, Bool.and_self, if_true]

theorem spanBad_eq_false {addr bytes : Nat} (aligned : addr % 64 = 0) (inPage : addr % 4096 + bytes ≤ 4096) : spanBad addr bytes = false := by
  simp only [spanBad, aligned, bne_self_eq_false, Bool.false_or, decide_eq_false_iff_not]
  omega

theorem serveRd_of_fresh (fresh : s.staleRequest p = false) (aligned : p.addr % 64 = 0) (inPage : p.addr % 4096 + 64 * (p.len + 1) ≤ 4096) :
    s.serveRd p = s.startOp ⟨p, 0, [], true, 0, []⟩ (peerLines p p.addr (p.len + 1) false) := by
  simp only [State.serveRd, fresh, spanBad_eq_false aligned inPage, Bool.false_eq_true, if_false]

/-- A write's packet that is not the last waits for the rest. -/
theorem serveWr_of_more (more : p.last = false) : s.serveWr p = { s with fab := { s.fab with writes := s.fab.writes ++ [p] } } := by
  simp only [State.serveWr, more, Bool.false_eq_true, if_false]

/-- A write of one packet, fresh, in range and aligned, has nothing wrong with it. -/
theorem writeBad_single (fresh : s.staleRequest p = false) (last : p.last = true) (first : p.pidx = 0) (some : 1 ≤ p.len) (four : p.len ≤ 4)
    (aligned : p.addr % 64 = 0) (inPage : p.addr % 4096 + 64 * p.len ≤ 4096) : s.writeBad [p] = 0 := by
  have len : ¬ (p.len = 0 ∨ 4 < p.len) := by omega
  have span := spanBad_eq_false aligned inPage
  simp [State.writeBad, fresh, len, last, first, span]

/-- The only packet of a write is performed as it comes. -/
theorem serveWr_single (alone : ∀ q ∈ s.fab.writes, q.src ≠ p.src ∨ q.tag ≠ p.tag) (fresh : s.staleRequest p = false) (last : p.last = true) (first : p.pidx = 0)
    (some : 1 ≤ p.len) (four : p.len ≤ 4) (aligned : p.addr % 64 = 0) (inPage : p.addr % 4096 + 64 * p.len ≤ 4096) :
    s.serveWr p = s.startOp ⟨p, 0, [], true, 0, []⟩ (peerLines p p.addr p.len true) := by
  have others : ∀ q ∈ s.fab.writes, (q.src == p.src && q.tag == p.tag) = false := by simpa [imp_iff_not_or] using alone
  have none : (s.fab.writes.filter fun q => q.src == p.src && q.tag == p.tag) = [] :=
    List.filter_eq_nil_iff.mpr fun q member => ne_true_of_eq_false (others q member)
  have all : (s.fab.writes.filter fun q => !(q.src == p.src && q.tag == p.tag)) = s.fab.writes :=
    List.filter_eq_self.mpr fun q member => by rw [others q member]; rfl
  simp only [State.serveWr, last, if_true, none, all, List.nil_append, writeBad_single fresh last first some four aligned inPage, List.headD_cons,
    List.flatMap_cons, List.flatMap_nil, List.append_nil, first, Nat.mul_zero, Nat.add_zero]

theorem serveAtomic_of_fresh {w : Nat} {fetch : Bool} (fresh : s.staleRequest p = false) (len : p.len = 1) (aligned : p.addr % w = 0) :
    s.serveAtomic p w fetch = s.startOp ⟨p, 0, [], true, 0, []⟩
      [⟨.peer p.src p.tag, p.cls, p.addr / 64 * 64, .atomic (p.addr % 64) w (ofLe (slice p.payload 0 w)) fetch⟩] := by
  simp only [State.serveAtomic, fresh, len, aligned, Bool.false_eq_true, if_false, ne_eq, not_true]

/-- An arrival of the round awaited, from a node not listed, that does not complete the round is listed and acknowledged. -/
theorem serveArrive_of_new {b : Barrier} (fresh : s.staleRequest p = false) (len : p.len = 0) (barrier : kget s.fab.barriers (p.addr % 1024) = some b)
    (round : p.addr / 1024 % 65536 = b.round) (new : ∀ e ∈ b.list, e.1 ≠ p.src) (more : b.list.length + 1 < b.n) :
    s.serveArrive p = State.respond { s with fab := { s.fab with barriers := kput s.fab.barriers (p.addr % 1024) { b with
      list := b.list ++ [(p.src, p.tag)], oldest := if b.list.isEmpty then s.clk.tick else b.oldest } } } p 0x12 0 0 true [] := by
  have unlisted : (b.list.any fun e => e.1 == p.src) = false := by simpa using new
  simp only [State.serveArrive, fresh, len, barrier, round, unlisted, Bool.false_eq_true, if_false, ne_eq, not_true]
  exact if_neg (by simp only [List.length_append, List.length_singleton]; omega)

theorem serveRelease_of_pending {a : Arrival} (fresh : s.staleRequest p = false) (len : p.len = 0)
    (pending : (s.fab.arrivals.find? fun a => a.home == p.src && a.id == p.addr % 1024 && a.round == p.addr / 1024 % 65536) = some a) :
    s.serveRelease p = (s.endArrival a 0).respond p 0x12 0 0 true [] := by
  simp only [State.serveRelease, fresh, len, State.takeRelease, pending, Bool.false_eq_true, if_false, ne_eq, not_true, if_true]
  rfl

end

/-- Every request of the memory and barrier rows that is stale by R274 is answered ERR with STALE_GENERATION. -/
theorem serveRequest_of_stale {p : Packet} {s : State} (stale : s.staleRequest p = true) (type : p.ptype ∈ [1, 3, 4, 5, 6, 7, 9, 10]) :
    s.serveRequest p = s.respondErr p 4 := by
  have each : s.serveRd p = s.respondErr p 4 ∧ (∀ w f, s.serveAtomic p w f = s.respondErr p 4) ∧ s.serveShip p = s.respondErr p 4
      ∧ s.serveArrive p = s.respondErr p 4 ∧ s.serveRelease p = s.respondErr p 4 :=
    ⟨if_pos stale, fun _ _ => if_pos stale, if_pos stale, if_pos stale, if_pos stale⟩
  obtain ⟨rd, atomic, ship, arrive, release⟩ := each
  simp only [List.mem_cons, List.not_mem_nil, or_false] at type
  rcases type with type | type | type | type | type | type | type | type <;>
    simp only [State.serveRequest, type, rd, atomic, ship, arrive, release]

/-- Settles O40. -/
theorem fabricRequestRowsComplete : Obligations.FabricRequestRowsComplete := by
  refine ⟨?_, ?_, ?_⟩
  · intro r h s u runs asked taken first read line steady other
    subst taken
    rw [fabricRequest_of_asked runs asked first, fabTakeUp_lineRead _ read line]
    exact ⟨fun inside way free ports tag => by rw [routeReq_of_open _ _ steady other inside way free ports tag],
      fun outside => by rw [routeReq_outside _ _ steady outside]; rfl⟩
  · intro p s u runs waits left fresh
    subst left
    have row {t : Nat} (type : p.ptype = t) := requestRow_of_waiting runs waits type
    refine ⟨fun type aligned inPage => ?_, fun type more => ?_, fun type last first alone some four aligned inPage => ?_, fun e listed type len aligned => ?_,
      fun type len b barrier round new more => ?_, fun type len a pending => ?_⟩
    · exact congrArg Host.Outcome.next ((row type).trans (by rw [State.serveRequest, type]; exact serveRd_of_fresh fresh aligned inPage))
    · exact congrArg Host.Outcome.next ((row type).trans (by rw [State.serveRequest, type]; exact serveWr_of_more more))
    · exact congrArg Host.Outcome.next ((row type).trans (by
        rw [State.serveRequest, type]; exact serveWr_single alone fresh last first some four aligned inPage))
    · simp only [List.mem_cons, List.not_mem_nil, or_false] at listed
      rcases listed with rfl | rfl | rfl | rfl <;>
        exact congrArg Host.Outcome.next ((row type).trans (by rw [State.serveRequest, type]; exact serveAtomic_of_fresh fresh len aligned))
    · exact congrArg Host.Outcome.next ((row type).trans (by rw [State.serveRequest, type]; exact serveArrive_of_new fresh len barrier round new more))
    · exact congrArg (fun v : State => Host.Outcome.next v.arriveRetry) ((row type).trans (by
        rw [State.serveRequest, type]; exact serveRelease_of_pending fresh len pending))
  · intro p s u runs waits left stale
    subst left
    have row {t : Nat} (type : p.ptype = t) (known : t ∈ [1, 3, 4, 5, 6, 7, 9, 10]) : requestRow t p s = (s.leaveIngress p).respondErr p 4 :=
      (requestRow_of_waiting runs waits type).trans (serveRequest_of_stale stale (type ▸ known))
    refine ⟨fun type => ?_, fun type => ?_, fun type => ?_, fun type => ?_, fun type => ?_, fun type => ?_, fun type => ?_, fun type => ?_⟩
    · exact congrArg Host.Outcome.next (row type (by decide))
    · exact congrArg Host.Outcome.next (row type (by decide))
    · exact congrArg Host.Outcome.next (row type (by decide))
    · exact congrArg Host.Outcome.next (row type (by decide))
    · exact congrArg Host.Outcome.next (row type (by decide))
    · exact congrArg Host.Outcome.next (row type (by decide))
    · exact congrArg (fun v : State => Host.Outcome.next v.arriveRetry) (row type (by decide))
    · have served : (s.leaveIngress p).serveShip p = (s.leaveIngress p).respondErr p 4 := if_pos stale
      simp only [exec, execKvship, runs, type, waits, beq_self_eq_true, Bool.and_self, if_true, served]

end Sys2Proof.Machine

/-! # Fabric answers and time limits (R254, R260, R281 to R287) -/
namespace Sys2Proof.Machine

section
variable {s : State} {p : Packet} {port : Nat}

/-- A response that answers an outstanding transaction of its node completes or advances it. -/
theorem responseRow_of_answer {t : Nat} {x : FabTx} (type : p.ptype = t) (waits : s.inIngress p = true) (tx : (s.leaveIngress p).txOf p.tag = some x)
    (node : x.node = p.src) (answers : answersType x.ptype p.ptype = true) :
    responseRow t port p s = (((s.leaveIngress p).takeResponse x p).afterTx).settleFrom (s.leaveIngress p).fab.done.length := by
  subst type
  simp only [responseRow, waits, and_self, if_true, tx, Option.filter_some, node, beq_self_eq_true, Bool.true_and, answers]

/-- One that answers none is counted against its port. -/
theorem responseRow_of_none {t : Nat} (type : p.ptype = t) (waits : s.inIngress p = true) (tx : (s.leaveIngress p).txOf p.tag = none) :
    responseRow t port p s = (s.leaveIngress p).countDiscard port := by
  simp only [responseRow, type, waits, and_self, if_true, tx, Option.filter_none]

end

section
variable {s : State}

theorem fabricTimeout_of_tx {tag : Nat} {x : FabTx} (tx : s.txOf tag = some x) (port : x.at_.isSome) : exec (.fabricTimeout tag) s = .next (timeOut x s) := by
  simp only [exec, execFabricTimeout, tx, Option.filter_some, port, if_true]

theorem portHoldEnd_of_idle {hop : Nat} {l : List FabReq} (held : kget s.fab.holds hop = some l) (idle : ∀ x ∈ s.fab.txs, x.hop ≠ hop) :
    exec (.portHoldEnd hop) s =
      .next ((l.foldl State.fabTakeUp { s with fab := { s.fab with holds := kdel s.fab.holds hop } }).rimRetry.settleFrom s.fab.done.length) := by
  have none : (s.fab.txs.any fun t => t.hop == hop) = false := by simpa using idle
  simp only [exec, execPortHoldEnd, held, none, Bool.false_eq_true, if_false]

theorem generationHoldExpiry_of_one {hop t0 : Nat} {r : FabReq} (held : s.fab.genHeld = [(t0, r)]) (way : s.hopTo r.node = some hop) :
    exec (.generationHoldExpiry hop) s =
      .next ((State.endLocal { s with fab := { s.fab with genHeld := [] } } r 4).rimRetry.settleFrom s.fab.done.length) := by
  simp only [exec, execGenerationHoldExpiry, held, List.find?_cons, way, beq_self_eq_true, List.filter_cons, le_refl, decide_true, Bool.and_self, if_true,
    List.filter_nil, Bool.not_true, Bool.false_eq_true, if_false, List.foldl_cons, List.foldl_nil]
  rfl

/-- Without an answer the rim arrives again (R286). -/
theorem barrierKeepalive_of_none {home id : Nat} {a : Arrival}
    (pending : s.fab.arrivals.find? (fun a => a.home == home && a.id == id && a.acked) = some a) :
    exec (.barrierKeepalive home id none) s = .next (s.fabRequest ⟨.barrier id, 0x09, a.cls, a.home, barAddr id a.round, 0, []⟩) := by
  simp only [exec, execBarrierKeepalive, pending]

/-- An answer other than OK and TIMEOUT is applied to the arrival, and its transactions go (Table 9.6). -/
theorem barrierKeepalive_of_answer {home id st : Nat} {a : Arrival} (pending : s.fab.arrivals.find? (fun a => a.home == home && a.id == id && a.acked) = some a)
    (notOk : st ≠ 0) (inTime : st ≠ 5) :
    exec (.barrierKeepalive home id (some st)) s = .next ((State.arrivalAnswer { s with fab := { s.fab with
      txs := s.fab.txs.filter fun t => t.user != FabUser.barrier id || t.ptype != 0x09 || t.node != home } } a st).afterTx.settleFrom s.fab.done.length) := by
  have others : (fun t : FabTx => t.user != FabUser.barrier id || t.ptype != 0x09 || t.node != home)
      = fun t => !(t.user == FabUser.barrier id && t.ptype == 0x09 && t.node == home) := by
    funext t; simp only [bne, Bool.not_and]
  rw [others]
  simp only [exec, execBarrierKeepalive, pending, fsTimeout, inTime, fsOk, notOk, if_false, List.append_nil]

theorem barrierRoundLimit_of_listed {id : Nat} {b : Barrier} (barrier : kget s.fab.barriers id = some b) (listed : b.list ≠ []) :
    exec (.barrierRoundLimit id) s = .next ((s.unsetBarrier id).report 0x000A (packArgs 32 [(2, id), (2, b.round), (4, b.list.length)]) 0x000A []) := by
  have some : (!b.list.isEmpty) = true := by simpa using listed
  simp only [exec, execBarrierRoundLimit, barrier, Option.filter_some, some, if_true]

end

/-- Settles O41. -/
theorem fabricAnswerRowsComplete : Obligations.FabricAnswerRowsComplete := by
  refine ⟨fun e listed port p s u type waits left => ?_, fun tag x s => fabricTimeout_of_tx, fun tag s => rfl, fun hop l s => portHoldEnd_of_idle,
    fun hop t0 r s => generationHoldExpiry_of_one, fun home id a s pending => ⟨barrierKeepalive_of_none pending, fun st => barrierKeepalive_of_answer pending⟩,
    fun id b s => barrierRoundLimit_of_listed⟩
  subst left
  have row : exec (e.2 port p) s = .next (responseRow e.1 port p s) := by
    simp only [List.mem_cons, List.not_mem_nil, or_false] at listed
    rcases listed with rfl | rfl | rfl | rfl | rfl <;> rfl
  exact ⟨fun x tx node answers => row.trans (congrArg _ (responseRow_of_answer type waits tx node answers)),
    fun tx => row.trans (congrArg _ (responseRow_of_none type waits tx))⟩

end Sys2Proof.Machine

/-! # The ports of the fabric (R247, R261 to R264, R277 to R283) -/
namespace Sys2Proof.Machine

theorem kput_kput {α : Type} (m : KMap α) (k : Nat) (v w : α) : kput (kput m k v) k w = kput m k w := by
  induction m with
  | nil => simp [kput]
  | cons e m ih =>
    obtain ⟨j, x⟩ := e
    rcases Nat.lt_trichotomy k j with less | same | more
    · simp [kput, less]
    · subst same; simp [kput]
    · have less : ¬ k < j := by omega
      have other : k ≠ j := by omega
      simp only [kput, less, other, if_false, ih]

@[simp] theorem port_modPort_same (s : State) (k : Nat) (f : Port → Port) : (s.modPort k f).port k = f (s.port k) := by
  simp [State.port, State.modPort]

theorem port_modPort_other (s : State) {k j : Nat} (f : Port → Port) (other : j ≠ k) : (s.modPort k f).port j = s.port j := by
  simp only [State.port, State.modPort, kget_kput_ne _ _ _ _ other]

/-- Two changes of one port are one change. -/
theorem modPort_modPort (s : State) (k : Nat) (f g : Port → Port) : (s.modPort k f).modPort k g = s.modPort k fun q => g (f q) := by
  have now := port_modPort_same s k f
  unfold State.modPort at now ⊢
  simp only [now, kput_kput]

/-- A change of a port is what it does to the port as it stands. -/
theorem modPort_congr {s : State} {k : Nat} {f g : Port → Port} (same : f (s.port k) = g (s.port k)) : s.modPort k f = s.modPort k g := by
  simp only [State.modPort, same]

/-! ## Credits and trailers (R247, R261) -/

theorem modAt_forall {P : Nat → Prop} {f : Nat → Nat} (kept : ∀ n, P n → P (f n)) : ∀ (l : List Nat) (i : Nat), (∀ n ∈ l, P n) → ∀ n ∈ modAt l i f, P n
  | [], _, h => h
  | x :: l, 0, h => by
    intro n member
    rcases List.mem_cons.mp member with rfl | member
    · exact kept x (h x (List.mem_cons_self ..))
    · exact h n (List.mem_cons_of_mem _ member)
  | x :: l, i + 1, h => by
    intro n member
    rcases List.mem_cons.mp member with rfl | member
    · exact h _ (List.mem_cons_self ..)
    · exact modAt_forall kept l i (fun n m => h n (List.mem_cons_of_mem _ m)) n member

/-- A credit returned keeps the bounds of both kinds. -/
theorem credit_bounds (q : Port) (shared : ∀ n ∈ q.shared, n ≤ 96) (reserved : ∀ n ∈ q.reserved, n ≤ 8) (c : Nat × Bool) :
    (∀ n ∈ (q.credit c).shared, n ≤ 96) ∧ (∀ n ∈ (q.credit c).reserved, n ≤ 8) := by
  unfold Port.credit
  split_ifs
  · exact ⟨shared, modAt_forall (P := (· ≤ 8)) (fun _ _ => Nat.min_le_left ..) _ _ reserved⟩
  · exact ⟨modAt_forall (P := (· ≤ 96)) (fun _ _ => Nat.min_le_left ..) _ _ shared, reserved⟩

theorem credits_keep_order (l : List (Nat × Bool)) (q : Port) : (l.foldl Port.credit q).ahead = q.ahead ∧ (l.foldl Port.credit q).rxSeq = q.rxSeq := by
  induction l generalizing q with
  | nil => exact ⟨rfl, rfl⟩
  | cons c l ih =>
    have one : (q.credit c).ahead = q.ahead ∧ (q.credit c).rxSeq = q.rxSeq := by unfold Port.credit; split_ifs <;> exact ⟨rfl, rfl⟩
    exact ⟨(ih _).1.trans one.1, (ih _).2.trans one.2⟩

/-! ## Receiving (R264) -/

section
variable {k : Nat} {t : Trailer} {p : Packet} {s : State}

theorem dvqPacketReceive_of_wrongCrc (runs : (s.port k).st = .opened) (wrong : t.crc ≠ t.check (some p)) :
    exec (.dvqPacketReceive k t p) s = .next (s.modPort k fun q => q.discardFrom (vcOf p.ptype)) :=
  (if_neg (not_not_intro runs)).trans (if_pos wrong)

/-- The packet awaited, with nothing accepted ahead of it, is taken and the sequence moves on by one. -/
theorem dvqPacketReceive_in_sequence (runs : (s.port k).st = .opened) (right : t.crc = t.check (some p)) (quiet : t.replay = none)
    (awaited : t.seq = (s.port k).rxSeq) (none : (s.port k).ahead = []) :
    exec (.dvqPacketReceive k t p) s = .next ((s.modPort k fun q =>
      { ((t.credits.foldl Port.credit q).acked t.ack) with rxSeq := t.seq + 1, ahead := [], discarding := [] }).acceptPacket k t.reserved p) := by
  obtain ⟨ahead, rxSeq⟩ := credits_keep_order t.credits (s.port k)
  have new : ¬ (t.seq < (s.port k).rxSeq ∨ (s.port k).ahead.contains t.seq = true) := by simp [awaited, none]
  have next : (s.modPort k fun q => q.told t).modPort k (fun q => { q with
      rxSeq := passAhead q.ahead q.ahead.length (q.rxSeq + 1)
      ahead := q.ahead.filter fun n => decide (passAhead q.ahead q.ahead.length (q.rxSeq + 1) ≤ n)
      discarding := [] }) = s.modPort k fun q =>
      { ((t.credits.foldl Port.credit q).acked t.ack) with rxSeq := t.seq + 1, ahead := [], discarding := [] } := by
    rw [modPort_modPort]
    apply modPort_congr
    simp only [Port.told, Port.acked, ahead, rxSeq, none, List.length_nil, passAhead, List.filter_nil, awaited]
  refine (if_neg (not_not_intro runs)).trans ((if_neg (not_not_intro right)).trans ((if_neg new).trans ((if_pos awaited).trans ?_)))
  simp only [State.replayAsked, quiet, next]

/-- A packet accepted before is discarded; what its trailer tells is taken. -/
theorem dvqPacketReceive_of_old (runs : (s.port k).st = .opened) (right : t.crc = t.check (some p)) (quiet : t.replay = none)
    (old : t.seq < (s.port k).rxSeq) : exec (.dvqPacketReceive k t p) s = .next (s.modPort k fun q => q.told t) := by
  refine (if_neg (not_not_intro runs)).trans ((if_neg (not_not_intro right)).trans ((if_pos (.inl old)).trans ?_))
  simp only [State.replayAsked, quiet]

theorem idleWordReceive_of_open (runs : (s.port k).st = .opened) (quiet : t.replay = none) :
    exec (.idleWordReceive k t) s = .next (s.modPort k fun q => q.told t) := by
  simp only [exec, execIdleWordReceive, runs, if_true, State.replayAsked, quiet]

end

/-! ## Replay (R264, R283) -/

/-- Entries put in one after another, each with a value that its key alone decides. -/
theorem kget_foldl_kput {α : Type} (key : α → Nat) (val : Nat → Nat) (l : List α) (m : KMap Nat) (i : Nat) :
    kget (l.foldl (fun m e => kput m (key e) (val (key e))) m) i = if i ∈ l.map key then some (val i) else kget m i := by
  induction l generalizing m with
  | nil => simp
  | cons e l ih =>
    rw [List.foldl_cons, ih, List.map_cons]
    by_cases later : i ∈ l.map key
    · rw [if_pos later, if_pos (List.mem_cons_of_mem _ later)]
    · by_cases here : i = key e
      · subst here; simp
      · rw [if_neg later, if_neg (by simp only [List.mem_cons, here, later, or_self, not_false_eq_true]), kget_kput_ne _ _ _ _ here]

section
variable {k seq : Nat} {s : State}

/-- A packet of the replay buffer that has been sent again less than eight times: it and those after it are sent again. -/
theorem dvqReplayRequest_of_few (runs : (s.port k).st = .opened) (held : ∃ e ∈ (s.port k).replay, e.seq = seq)
    (few : ∀ e ∈ (s.port k).replay, seq ≤ e.seq → (kget (s.port k).replaying e.seq).getD 0 < 8) : ∃ m : KMap Nat, exec (.dvqReplayRequest k seq) s =
      .next (s.modPort k fun q => { q with resend := q.replay.filter fun e => decide (seq ≤ e.seq), replaying := m })
      ∧ ∀ e ∈ (s.port k).replay, seq ≤ e.seq → kget m e.seq = some ((kget (s.port k).replaying e.seq).getD 0 + 1) := by
  have known : ((s.port k).replay.all fun e => e.seq != seq) = false := by
    obtain ⟨e, member, same⟩ := held
    exact List.all_eq_false.mpr ⟨e, member, by simp [same]⟩
  have enough : (((s.port k).replay.filter fun e => decide (seq ≤ e.seq)).any fun e => decide (8 < (kget (s.port k).replaying e.seq).getD 0 + 1)) = false := by
    simp only [List.any_eq_false, List.mem_filter, decide_eq_true_eq, and_imp]
    intro e member later
    have := few e member later
    omega
  let l := (s.port k).replay.filter fun e => decide (seq ≤ e.seq)
  refine ⟨l.foldl (fun m e => kput m e.seq ((kget (s.port k).replaying e.seq).getD 0 + 1)) (s.port k).replaying, ?_, fun e member later => ?_⟩
  · refine (if_pos runs).trans (congrArg Host.Outcome.next ?_)
    exact (if_neg (ne_true_of_eq_false known)).trans ((if_neg (ne_true_of_eq_false enough)).trans (modPort_congr rfl))
  · rw [kget_foldl_kput OnLink.seq fun i => (kget (s.port k).replaying i).getD 0 + 1]
    exact if_pos (List.mem_map.mpr ⟨e, List.mem_filter.mpr ⟨member, decide_eq_true later⟩, rfl⟩)

/-- One that has been sent again eight times ends the link. -/
theorem dvqReplayRequest_of_exhausted (runs : (s.port k).st = .opened) (held : ∃ e ∈ (s.port k).replay, e.seq = seq) {e : OnLink}
    (member : e ∈ (s.port k).replay) (later : seq ≤ e.seq) (often : 8 ≤ (kget (s.port k).replaying e.seq).getD 0) :
    exec (.dvqReplayRequest k seq) s = .next (replayExhausted k s) := by
  have known : ((s.port k).replay.all fun e => e.seq != seq) = false := by
    obtain ⟨e, member, same⟩ := held
    exact List.all_eq_false.mpr ⟨e, member, by simp [same]⟩
  have spent : (((s.port k).replay.filter fun e => decide (seq ≤ e.seq)).any fun e => decide (8 < (kget (s.port k).replaying e.seq).getD 0 + 1)) = true :=
    List.any_eq_true.mpr ⟨e, List.mem_filter.mpr ⟨member, decide_eq_true later⟩, decide_eq_true (by omega)⟩
  exact (if_pos runs).trans (congrArg Host.Outcome.next ((if_neg (ne_true_of_eq_false known)).trans (if_pos spent)))

end

/-! ## Egress (R261, R262) -/

section
variable {k : Nat} {s : State}

theorem egressPacketSend_of_resend (runs : (s.port k).st = .opened) {w : OnLink} {rest : List OnLink} (again : (s.port k).resend = w :: rest) :
    exec (.egressPacketSend k) s =
      .next ((s.modPort k fun q => { q with resend := rest }).onWire k (some w.pkt) ((s.port k).trailer w.seq w.reserved (some w.pkt))) := by
  refine (if_neg (not_not_intro runs)).trans ?_
  simp only [again]

/-- The one packet at an egress that holds a credit is sent, and kept for replay while the buffer has room. -/
theorem egressPacketSend_of_one (runs : (s.port k).st = .opened) {e : Queued} (none : (s.port k).resend = []) (one : (s.port k).egress = [e])
    (credit : (s.port k).hasCredit e.pkt = true) (room : (s.port k).replay.length < 256) :
    exec (.egressPacketSend k) s = .next ((s.modPort k fun q => { (q.spend e.pkt) with
      egress := [], replay := q.replay ++ [⟨q.txSeq, e.pkt, q.takesReserved e.pkt⟩], txSeq := q.txSeq + 1 }).onWire k (some e.pkt)
        ((s.port k).trailer (s.port k).txSeq ((s.port k).takesReserved e.pkt) (some e.pkt))) := by
  have sorted : sortBy egressKey ([e].filter fun e => (s.port k).hasCredit e.pkt) = [e] := by simp [credit, sortBy, insertBy]
  have gone : ([e].filter fun x => x != e) = [] := by simp
  have kept : (s.port k).replay.length + 1 - 256 = 0 := by omega
  refine (if_neg (not_not_intro runs)).trans ?_
  simp only [none, one, sorted]
  refine congrArg (fun u : State => Host.Outcome.next (u.onWire k (some e.pkt) _)) (modPort_congr ?_)
  simp only [one, gone, kept, List.drop_zero]

theorem egressPacketSend_idle (runs : (s.port k).st = .opened) (noneAgain : (s.port k).resend = []) (empty : (s.port k).egress = []) (owes : (s.port k).owed ≠ []) :
    exec (.egressPacketSend k) s = .next (s.onWire k none ((s.port k).trailer (s.port k).txSeq false none)) := by
  have some : ¬ ((s.port k).owed.isEmpty = true ∧ (s.port k).askReplay = none) := fun h => owes (List.isEmpty_iff.mp h.1)
  refine (if_neg (not_not_intro runs)).trans ?_
  simp only [noneAgain, empty, List.filter_nil, sortBy, List.foldr_nil]
  exact if_neg some

end

/-! ## Training and charters (R277 to R280) -/

section
variable {k : Nat} {s : State}

theorem attemptFailed_eq (k : Nat) (s : State) : attemptFailed k s = s.modPort k fun p => { p with
    fails := p.fails + 1, failedTrainings := min (p.failedTrainings + 1) 0xFFFFFFFF, st := if p.fails < 15 then .down else .failed } := by
  apply modPort_congr
  by_cases more : (s.port k).fails < 15
  · simp [satAdd, more, show ¬ 16 ≤ (s.port k).fails + 1 by omega]
  · simp [satAdd, more, show 16 ≤ (s.port k).fails + 1 by omega]

theorem charterReceive_of_charter {c : Bytes} (state : (s.port k).st = .charter) :
    exec (.charterReceive k c) s = .next ((((s.modPort k fun p => { p with
      got := c, mine := some (s.charterCheck k c == 0), cause := s.charterCheck k c }).judge k).portMoved k).settleFrom s.fab.done.length) := by
  simp only [exec, execCharterReceive, state, reduceCtorEq, or_false, if_true, if_false]

theorem charterVerdict_of_charter (state : (s.port k).st = .charter) (a : Bool) :
    exec (.charterVerdict k a) s = .next (((s.modPort k fun p => { p with far := some a }).judge k).settleFrom s.fab.done.length) :=
  if_pos (.inl state)

end

/-- Settles O42. -/
theorem portRowsComplete : Obligations.PortRowsComplete := by
  refine ⟨fun k t p s runs => ⟨dvqPacketReceive_of_wrongCrc runs,
      fun right quiet awaited none => ⟨_, dvqPacketReceive_in_sequence runs right quiet awaited none, rfl⟩,
      dvqPacketReceive_of_old runs, idleWordReceive_of_open runs⟩,
    credit_bounds,
    fun k seq s runs held => ⟨dvqReplayRequest_of_few runs held, fun e => dvqReplayRequest_of_exhausted runs held⟩,
    ?_, fun k s state => ?_, fun k s state cool => if_pos ⟨state, cool⟩, fun k lanes eq s state => ⟨if_pos state, ?_, ?_, fun other => ?_⟩,
    fun k c s state => ⟨charterReceive_of_charter state, charterVerdict_of_charter state⟩⟩
  · rintro k q s rfl runs
    exact ⟨fun w rest => egressPacketSend_of_resend runs, fun e => egressPacketSend_of_one runs, egressPacketSend_idle runs, fun n r x => ⟨rfl, rfl, rfl⟩⟩
  · exact if_pos (by tauto)
  · exact (if_pos state).trans (congrArg _ (attemptFailed_eq k s))
  · exact (if_pos state).trans (if_pos ⟨rfl, rfl⟩)
  · exact (if_pos state).trans ((if_neg fun h => other h.1).trans (if_pos state).symm)

end Sys2Proof.Machine

/-! # Cables and the commands of the fabric (R243, R268, R275, R277, R289, R333, R334) -/
namespace Sys2Proof.Machine

/-! ## Cables -/

section
variable {k : Nat} {w a x : Int} {s : State}

/-- A poll of a module that answers: what it notices of a rise above the warning threshold, when it stays below the alarm. -/
theorem cableTemperaturePoll_below_alarm (managed : (s.port k).managed = true) (below : x ≤ a) :
    exec (.cableTemperaturePoll k w a x) s = .next (if w < x ∧ (s.port k).warm = false then
      (s.modPort k fun p => { p with warm := decide (w < x) }).notice 0x000C 0xFFFFFFFF [] else s.modPort k fun p => { p with warm := decide (w < x) }) :=
  (if_pos managed).trans (if_neg fun h => absurd h.1 (Int.not_lt.mpr below))

/-- Above the alarm threshold a running port goes down for its cable. -/
theorem cableTemperaturePoll_above_alarm (managed : (s.port k).managed = true) (alarm : a < x) (cool : (s.port k).hot = false) (runs : (s.port k).st = .opened) :
    exec (.cableTemperaturePoll k w a x) s = .next (cableDown k true (if w < x ∧ (s.port k).warm = false then
      (s.modPort k fun p => { p with warm := decide (w < x) }).notice 0x000C 0xFFFFFFFF [] else s.modPort k fun p => { p with warm := decide (w < x) })) :=
  (if_pos managed).trans (if_pos ⟨alarm, cool, by rw [runs]; decide, by rw [runs]; decide⟩)

theorem cableCooldownExpiry_of_down (hot : (s.port k).hot = true) (down : (s.port k).st = .down) :
    exec (.cableCooldownExpiry k) s = .next (s.modPort k fun p => { p with hot := false, st := .training }) := by
  refine (if_pos hot).trans (congrArg Host.Outcome.next (modPort_congr ?_))
  simp only [down, if_true]

end

/-- Ports changed one after another: each listed port reads as changed, the rest of the state stands. -/
theorem foldl_modPort_ports (f : Port → Port) (l : List Nat) (s : State) :
    l.foldl (fun s k => s.modPort k f) s = { s with fab := { s.fab with ports := (l.foldl (fun s k => s.modPort k f) s).fab.ports } } := by
  induction l generalizing s with
  | nil => rfl
  | cons k l ih => rw [List.foldl_cons, ih]; rfl

theorem port_foldl_modPort {f : Port → Port} {P : Port → Prop} (sets : ∀ q, P (f q)) (l : List Nat) (s : State) (k : Nat) (listed : k ∈ l ∨ P (s.port k)) :
    P ((l.foldl (fun s k => s.modPort k f) s).port k) := by
  induction l generalizing s with
  | nil => exact listed.resolve_left (List.not_mem_nil)
  | cons j l ih =>
    refine ih _ ?_
    by_cases here : k = j
    · subst here; exact .inr (by rw [port_modPort_same]; exact sets _)
    · rw [port_modPort_other _ _ here]
      exact listed.imp (fun member => (List.mem_cons.mp member).resolve_left here) id

/-! ## The node and its partition -/

/-- The ports that the plan uses: an idle one trains, any other stands. -/
def trainIdle (s : State) (k : Nat) : State := if (s.port k).st = .idle then s.modPort k fun p => { p with st := .training } else s

theorem trainIdle_ports (s : State) (k : Nat) : trainIdle s k = { s with fab := { s.fab with ports := (trainIdle s k).fab.ports } } := by
  unfold trainIdle; split_ifs <;> rfl

theorem foldl_trainIdle_ports (l : List Nat) (s : State) :
    l.foldl trainIdle s = { s with fab := { s.fab with ports := (l.foldl trainIdle s).fab.ports } } := by
  induction l generalizing s with
  | nil => rfl
  | cons k l ih => rw [List.foldl_cons, ih, trainIdle_ports s k]

theorem trainIdle_state (s : State) (j k : Nat) :
    ((trainIdle s j).port k).st = (s.port k).st ∨ ((s.port k).st = .idle ∧ ((trainIdle s j).port k).st = .training) := by
  unfold trainIdle
  split_ifs with idle
  · by_cases here : k = j
    · subst here; exact .inr ⟨idle, by rw [port_modPort_same]⟩
    · exact .inl (by rw [port_modPort_other _ _ here])
  · exact .inl rfl

theorem foldl_trainIdle_state (l : List Nat) (s : State) (k : Nat) :
    ((l.foldl trainIdle s).port k).st = (s.port k).st ∨ ((s.port k).st = .idle ∧ ((l.foldl trainIdle s).port k).st = .training) := by
  induction l generalizing s with
  | nil => exact .inl rfl
  | cons j l ih =>
    rw [List.foldl_cons]
    rcases ih (trainIdle s j) with rest | ⟨idle, trains⟩ <;> rcases trainIdle_state s j k with one | ⟨was, trained⟩
    · exact .inl (rest.trans one)
    · exact .inr ⟨was, rest.trans trained⟩
    · exact .inr ⟨one ▸ idle, trains⟩
    · rw [trained] at idle; cases idle

/-- Setting y and z changes them and the ports alone, and a port only from IDLE to TRAINING. -/
theorem startPorts_spec (s : State) (y z : Nat) : (s.startPorts y z).fab.yz = some (y, z)
    ∧ (∀ k, ((s.startPorts y z).port k).st = (s.port k).st ∨ ((s.port k).st = .idle ∧ ((s.startPorts y z).port k).st = .training))
    ∧ s.startPorts y z = { s with fab := { s.fab with yz := some (y, z), ports := (s.startPorts y z).fab.ports } } := by
  let v : State := { s with fab := { s.fab with yz := some (y, z) } }
  have shape : ∃ l : List Nat, s.startPorts y z = l.foldl trainIdle v := by
    show ∃ l, (match v.plan with
      | some r => (List.range (portHops r v.life.straps.slotId).length).foldl trainIdle v
      | none => v) = _
    cases v.plan with
    | some r => exact ⟨_, rfl⟩
    | none => exact ⟨[], rfl⟩
  obtain ⟨l, shape⟩ := shape
  have whole := foldl_trainIdle_ports l v
  rw [shape]
  exact ⟨by rw [whole], foldl_trainIdle_state l v, whole⟩

section
variable {c : Cmd} {s : State}

/-- A slot that the plan has passes FABRIC_SET's first two checks. -/
theorem doFabricSet_of_slot (on : s.fabricOff = false) (slot : s.life.straps.slotId < s.nslot) :
    doFabricSet c s = match s.fab.yz with
      | some o => if o = (fld c.desc 16 0 6, fld c.desc 17 0 6) then done c (le 2 s.nodeId) s else refuse c stNodeFixed s
      | none => done c (le 2 (s.startPorts (fld c.desc 16 0 6) (fld c.desc 17 0 6)).nodeId) (s.startPorts (fld c.desc 16 0 6) (fld c.desc 17 0 6)) :=
  (if_neg (ne_true_of_eq_false on)).trans (if_neg fun h => absurd slot (Nat.not_lt.mpr h.2))

theorem doFabricPartSet_of_ok (on : s.fabricOff = false) (steady : s.fab.change = none) (ok : s.partRecordOk (slice c.desc 16 16) = true) :
    doFabricPartSet c s = if fld (slice c.desc 16 16) 0 0 16 = s.fab.gen then done c [] s
      else { (s.keepRunning c) with fab := { s.fab with change := some (c.running s, slice c.desc 16 16) } } := by
  simp only [doFabricPartSet, on, steady, ok, Option.isSome_none, Bool.false_eq_true, Bool.true_eq_false, if_false]

/-- A command that goes on is listed among those in progress. -/
theorem keepRunning_lists (c : Cmd) (s : State) : ∃ r ∈ (s.keepRunning c).tmi.running, r.src = c.src ∧ r.cid = c.cid ∧ r.opcode = c.op := by
  unfold State.keepRunning
  split_ifs with listed
  · obtain ⟨r, member, is⟩ := List.any_eq_true.mp listed
    refine ⟨r, member, ?_⟩
    simpa [Running.isCmd, and_assoc] using is
  · exact ⟨c.running s, List.mem_append_right _ (List.mem_singleton_self _), rfl, rfl, rfl⟩

theorem fabricPartSwitch_of_quiet {cmd : Running} {r : Bytes} (change : s.fab.change = some (cmd, r)) (quiet : s.fab.txs = []) :
    exec .fabricPartSwitch s = .next (partSwitch cmd r s) := by
  simp only [exec, execFabricPartSwitch, change, quiet, List.isEmpty_nil, if_true]

theorem doBarrierSet_sets (on : s.fabricOff = false) (free : s.barrierBusy (fld c.desc 16 0 10) = false) (sets : fld c.desc 17 7 1 = 0) :
    doBarrierSet c s = done c [] { s with fab := { s.fab with
      barriers := kput s.fab.barriers (fld c.desc 16 0 10) ⟨fld c.desc 20 0 17, fld c.desc 24 0 2, fld c.desc 26 0 16, fld c.desc 28 0 32, 0, [], 0⟩ } } := by
  simp only [doBarrierSet, on, free, sets, Bool.false_eq_true, if_false, Nat.zero_ne_one]

theorem doBarrierSet_unsets {b : Barrier} (on : s.fabricOff = false) (free : s.barrierBusy (fld c.desc 16 0 10) = false) (unsets : fld c.desc 17 7 1 = 1)
    (barrier : kget s.fab.barriers (fld c.desc 16 0 10) = some b) : doBarrierSet c s = done c [] (s.unsetBarrier (fld c.desc 16 0 10)) := by
  simp only [doBarrierSet, on, free, unsets, barrier, Option.isSome_some, Bool.false_eq_true, if_false, if_true]

/-- DVQ_PORT_RESET of a FAILED port that is not too hot clears its run of failures and trains it. -/
theorem doDvqPortReset_of_failed (failed : (s.port (fld c.desc 16 0 5)).st = .failed) (cool : (s.port (fld c.desc 16 0 5)).hot = false) :
    doDvqPortReset c s = done c [] (s.modPort (fld c.desc 16 0 5) fun p => { p with fails := 0, st := .training }) := by
  refine congrArg (done c []) ((if_pos failed).trans (modPort_congr ?_))
  simp only [cool, Bool.false_eq_true, if_false]

end

/-- Settles O43. -/
theorem cableAndFabricCommandsComplete : Obligations.CableAndFabricCommandsComplete := by
  refine ⟨⟨?_, fun k s hot down => ⟨_, cableCooldownExpiry_of_down hot down, port_modPort_same .., rfl⟩, fun k s managed runs => if_pos ⟨rfl, managed, runs⟩,
    fun k b old s => ⟨rfl, fun module => ?_⟩, fun bus s loud => ?_⟩, fun c s accepted on slot => ⟨fun unset => ?_, fun same => ?_, fun o set other => ?_⟩,
    fun c s accepted on steady ok => ⟨fun other => ?_, fun same => ?_⟩, fun cmd r s => fabricPartSwitch_of_quiet,
    fun c s accepted on free => ⟨fun sets => ?_, fun unsets b barrier => ?_⟩, ?_, fun c s accepted => ⟨fun failed cool => ?_, fun runs => ?_⟩⟩
  · rintro k w a x s u managed rfl
    refine ⟨fun warm below cold => ?_, fun warm below was => ?_, fun warm alarm cool runs => ?_, fun cold below => ?_⟩
    · exact (cableTemperaturePoll_below_alarm managed below).trans (congrArg _ (if_pos ⟨warm, cold⟩))
    · exact (cableTemperaturePoll_below_alarm managed below).trans (congrArg _ (if_neg fun h => by simp [was] at h))
    · rw [cableTemperaturePoll_above_alarm managed alarm cool runs]
      cases was : (s.port k).warm <;> simp [warm]
    · exact (cableTemperaturePoll_below_alarm managed below).trans (congrArg _ (if_neg fun h => absurd h.1 (Int.not_lt.mpr cold)))
  · simp only [exec, execCableHotJoinOrLoss, module]
  · have some : ((busPorts bus).all fun k => (s.port k).silent) = false :=
      List.all_eq_false.mpr ⟨6 * bus, List.mem_map.mpr ⟨0, by simp, rfl⟩, by simp [loud]⟩
    refine ⟨_, if_neg (ne_true_of_eq_false some), fun i less => ?_, foldl_modPort_ports ..⟩
    exact port_foldl_modPort (P := fun q => q.silent = true) (fun _ => rfl) _ _ _ (.inl (List.mem_map.mpr ⟨i, List.mem_range.mpr less, rfl⟩))
  · obtain ⟨yz, ports, whole⟩ := startPorts_spec s (fld c.desc 16 0 6) (fld c.desc 17 0 6)
    refine ⟨_, next_runCmd accepted ((doFabricSet_of_slot on slot).trans (by rw [unset])), yz, ports, ?_⟩
    rw [yz]; exact whole
  · exact next_runCmd accepted ((doFabricSet_of_slot on slot).trans (by rw [same]; exact if_pos rfl))
  · exact next_runCmd accepted ((doFabricSet_of_slot on slot).trans (by rw [set]; exact if_neg other))
  · exact ⟨_, next_runCmd accepted ((doFabricPartSet_of_ok on steady ok).trans (if_neg other)), rfl, keepRunning_lists c s⟩
  · exact next_runCmd accepted ((doFabricPartSet_of_ok on steady ok).trans (if_pos same))
  · exact ⟨_, _, next_runCmd accepted (doBarrierSet_sets on free sets), kget_kput .., rfl, rfl, rfl, rfl, rfl, rfl, rfl⟩
  · exact ⟨_, next_runCmd accepted (doBarrierSet_unsets on free unsets barrier), rfl⟩
  · rintro c p s accepted rfl
    exact next_runCmd accepted rfl
  · exact ⟨_, next_runCmd accepted (doDvqPortReset_of_failed failed cool), port_modPort_same .., rfl⟩
  · exact next_runCmd accepted (congrArg (done c []) (if_neg runs))

end Sys2Proof.Machine

/-! # Firmware banks and the event recorder (R386 to R390, R427 to R434) -/
namespace Sys2Proof.Machine

/-! ## Firmware banks -/

section
variable {c : Cmd} {d : Bytes} {b : Nat} {s : State}

/-- With no write in progress and the whole image read, the other bank is programmed. -/
theorem doFwBankWrite_of_read (idle : s.life.writing = none) (read : c.data = .ok d) (length : d.length = fld c.desc 16 0 24) :
    doFwBankWrite c s = State.keepRunning { s with life := { s.life with
      sel := Selector.sealed { (s.life.sel.setOk (1 - s.life.bank) false) with sseq := (s.life.sel.sseq + 1) % 2 ^ 32 }
      selOld := s.life.sel
      banks := setAt s.life.banks (1 - s.life.bank) d, writing := some (c.running s, 1 - s.life.bank, d) } } c := by
  have whole : (d ++ List.replicate (fld c.desc 16 0 24) 0).take (fld c.desc 16 0 24) = d := by rw [← length, List.take_left]
  simp only [doFwBankWrite, idle, Option.isSome_none, Bool.false_eq_true, if_false, read, whole, State.otherBank, State.writeSel]

theorem bankWriteCompletion_of_writing {r : Running} (writing : s.life.writing = some (r, b, d)) :
    exec .bankWriteCompletion s = .next (s.bankWritten r b) := by
  simp only [exec, execBankWriteCompletion, writing]

/-- A bank that runs, or one marked valid while none is written, may be selected. -/
theorem doFwBankSelect_of_selectable (may : fld c.desc 16 0 1 = s.life.bank ∨ (s.life.writing = none ∧ s.life.sel.ok (fld c.desc 16 0 1) = true)) :
    doFwBankSelect c s = doneFrom c [] (s.selectBank (fld c.desc 16 0 1))
      ((s.selectBank (fld c.desc 16 0 1)).stage 0x0011 ((s.selectBank (fld c.desc 16 0 1)).firmwareBody 1 (fld c.desc 16 0 1))) := by
  refine (if_neg fun h => ?_).trans (if_neg fun h => ?_)
  · rcases may with running | ⟨idle, -⟩
    · exact h.1 running
    · simp [idle] at h
  · rcases may with running | ⟨-, marked⟩
    · exact h.1 running
    · simp [marked] at h

theorem doFwBankSelect_of_unmarked (other : fld c.desc 16 0 1 ≠ s.life.bank) (idle : s.life.writing = none) (unmarked : s.life.sel.ok (fld c.desc 16 0 1) = false) :
    doFwBankSelect c s = refuse c 0x0600 s :=
  (if_neg fun h => by simp [idle] at h).trans (if_pos ⟨other, unmarked⟩)

end

theorem length_le (n v : Nat) : (le n v).length = n := by
  induction n generalizing v with
  | zero => rfl
  | succ n ih => simp [le, ih]

/-- The CRC is no part of the bytes that it covers. -/
theorem body_with_crc (x : Selector) (n : Nat) : ({ x with crc := n } : Selector).body = x.body := rfl

theorem length_body (x : Selector) : x.body.length = 60 := length_le ..

/-- The CRC that a copy of the selector carries is that of the 60 bytes before it. -/
theorem sealed_crc (x : Selector) : x.sealed.crc = crc32 (x.sealed.bytes.take 60) := by
  have body : x.sealed.body = x.body := body_with_crc x _
  have first : x.sealed.bytes.take 60 = x.body := by rw [Selector.bytes, body, List.take_left' (length_body x)]
  rw [first, Selector.sealed]

/-- Settles O53. -/
theorem firmwareRowsComplete : Obligations.FirmwareRowsComplete := by
  refine ⟨?_, ?_, ?_, fun x s => sealed_crc _⟩
  · rintro c d b s accepted idle read length rfl
    exact next_runCmd accepted (doFwBankWrite_of_read idle read length)
  · rintro r b d s u writing rfl
    exact bankWriteCompletion_of_writing writing
  · rintro c b s accepted rfl
    exact ⟨fun may => next_runCmd accepted (doFwBankSelect_of_selectable may),
      fun other idle unmarked => next_runCmd accepted (doFwBankSelect_of_unmarked other idle unmarked)⟩

/-! ## The recorder -/

section
variable {c : Cmd} {s : State}

/-- An authorisation of its whole length is checked as it was read. -/
theorem doEvrClear_of_read {d : Bytes} (read : c.data = .ok d) (length : d.length = 3445) :
    doEvrClear c s = if s.ident.authorises d 1 = false then refuse c stAuth s.spendNonce
      else if s.evr.ring.any (fun r => decide (ofLe ((authArg d).take 4) < r.seq)) then refuse c 0x0004 s.spendNonce
      else doneFrom c [] s.spendNonce s.spendNonce.clearRing := by
  have whole : (d ++ List.replicate authBytes 0).take authBytes = d := by rw [authBytes, ← length, List.take_left]
  simp only [doEvrClear, read, whole, stBusy]

theorem recordCommit_of_thawed (aux : s.life.aux = true) (tmi : s.evr.frozenTmi = false) (side : s.evr.frozenSide = false) :
    exec .recordCommit s = .next s.commitRecords := by
  simp only [exec, execRecordCommit, aux, tmi, side, Bool.not_false, Bool.and_self, if_true]

end

/-- Settles O54. -/
theorem recorderRowsComplete : Obligations.RecorderRowsComplete := by
  refine ⟨?_, fun c n s accepted source => ?_, fun s => ⟨rfl, rfl⟩, fun c s accepted delivered => ?_, ?_, fun s => rfl, fun s => recordCommit_of_thawed,
    fun s aux => if_pos aux⟩
  · rintro c l s accepted rfl
    exact next_runCmd accepted rfl
  · exact next_runCmd accepted (by simp only [doEvrFreeze, State.setFreeze, source])
  · exact next_runCmd accepted (by simp only [doEvrNonce, delivered, State.issueNonce])
  · rintro c d s u accepted read length rfl
    exact next_runCmd accepted (doEvrClear_of_read read length)

end Sys2Proof.Machine

/-! # Ownership, SPDM and the sideband endpoint (R411, R413, R416, R424 to R426) -/
namespace Sys2Proof.Machine

/-! ## Staging changes the recorder alone -/

/-- Nothing but the recorder differs. -/
def RecorderOnly (s t : State) : Prop := t = { s with evr := t.evr }

theorem RecorderOnly.trans {s t u : State} (first : RecorderOnly s t) (second : RecorderOnly t u) : RecorderOnly s u := by
  unfold RecorderOnly at *
  rw [second, first]

theorem stageSkipped_recorderOnly (s : State) : RecorderOnly s s.stageSkipped := by
  unfold RecorderOnly State.stageSkipped
  split <;> rfl

theorem stageLost_recorderOnly (s : State) : RecorderOnly s s.stageLost := by
  unfold RecorderOnly State.stageLost
  split_ifs <;> rfl

theorem foldl_stageOne_recorderOnly (l : List RecSpec) (s : State) : RecorderOnly s (l.foldl State.stageOne s) := by
  induction l generalizing s with
  | nil => rfl
  | cons r l ih => exact (show RecorderOnly s (s.stageOne r) from rfl).trans (ih _)

theorem stageGroup_recorderOnly (s : State) (l : List RecSpec) : RecorderOnly s (s.stageGroup l) := by
  have owed := (stageSkipped_recorderOnly s).trans (stageLost_recorderOnly _)
  unfold State.stageGroup
  dsimp only
  split_ifs
  · exact owed.trans (foldl_stageOne_recorderOnly _ _)
  all_goals exact owed.trans rfl

/-- A change of ownership takes effect whole; beyond it only the recorder and the answers move. -/
theorem changeOwner_spec (s : State) (sub : Nat) (owner : Option Bytes) (cosign : Bool) :
    (s.changeOwner sub owner cosign).ident = { s.ident with
      owner := owner, cosign := cosign, epoch := (s.ident.epoch + 1) % 2 ^ 32, older := (s.ident.owner, s.ident.cosign, s.ident.epoch) }
    ∧ s.changeOwner sub owner cosign = { s with
        ident := (s.changeOwner sub owner cosign).ident, evr := (s.changeOwner sub owner cosign).evr, out := (s.changeOwner sub owner cosign).out } := by
  let t : State := { s with ident := { s.ident with
    owner := owner, cosign := cosign, epoch := (s.ident.epoch + 1) % 2 ^ 32, older := (s.ident.owner, s.ident.cosign, s.ident.epoch) } }
  have staged : RecorderOnly t (t.stage 0x0012 (le 1 sub ++ le 4 t.ident.epoch ++ t.ident.ownerTag)) := stageGroup_recorderOnly ..
  have whole : s.changeOwner sub owner cosign = State.reply { t with evr := (t.stage 0x0012 (le 1 sub ++ le 4 t.ident.epoch ++ t.ident.ownerTag)).evr } replyDone [] :=
    congrArg (State.reply · replyDone []) staged
  exact ⟨by rw [whole]; rfl, by rw [whole]; rfl⟩

/-! ## Requests under authorisation -/

section
variable {s : State}

/-- Past its verdict and in a secured session a device carries a vendor-defined request out. -/
theorem vendor_of_session (past : s.life.dev = .opened ∨ s.life.dev = .corked) (session : 0 < s.ident.sessions) (f : State → State) :
    s.vendor true f = f s := by
  have on : s.life.dev ≠ .off := by rcases past with dev | dev <;> rw [dev] <;> decide
  have served : s.vendorServed = true := by unfold State.vendorServed; rcases past with dev | dev <;> rw [dev] <;> decide
  simp only [State.vendor, on, served, session, Bool.true_eq_false, if_false, and_self, if_true]

theorem authorised_of_length {a : Bytes} (length : a.length = 3445) (purpose : Nat) (ok : Bool) (f : State → State) :
    s.authorised a purpose ok f = if s.ident.authorises a purpose && ok then f s.spendNonce else s.spendNonce.reply 1 (le 1 2) :=
  if_neg (not_not_intro length)

end

/-- Settles O55. -/
theorem ownershipRowsComplete : Obligations.OwnershipRowsComplete := by
  refine ⟨?_, changeOwner_spec⟩
  rintro s u past session rfl
  have run (f : State → State) : (Host.Outcome.next (s.vendor true f) : Host.Outcome State Fault Refusal) = .next (f s) :=
    congrArg _ (vendor_of_session past session f)
  refine ⟨run _, fun key free => (run _).trans (congrArg _ (if_pos (by simp [free]))), fun key a length => ?_, fun a length => ?_,
    fun cosign a length safe => ?_, fun key a other => (run _).trans (congrArg _ (if_pos other))⟩
  · exact (run _).trans (congrArg _ (authorised_of_length length ..))
  · refine (run _).trans (congrArg _ ((authorised_of_length length ..).trans ?_))
    rw [Bool.and_true]
    rfl
  · refine (run _).trans (congrArg _ ((authorised_of_length length ..).trans ?_))
    have kept : ¬ (cosign && !s.spendNonce.cosignSafe) = true := by
      cases cosign
      · exact Bool.false_ne_true
      · simpa [State.spendNonce] using safe rfl
    rw [if_neg kept]
    rfl

/-! ## SPDM (R424) and IDE_KM (R411) -/

section
variable {tr : Nat} {s : State}

theorem spdmRequest_of_served (up : s.transportUp tr = true) (served : s.vendorServed = true) (r : SpdmReq) :
    exec (.spdmRequest tr r) s = .next (s.spdm tr r) :=
  (if_pos up).trans (if_pos served)

/-- The exact algorithms make the transport ready for sessions; others do not. -/
theorem negotiate_contains (ok : Bool) : (s.negotiate tr ok).ident.negotiated.contains tr = ok := by
  cases ok <;> simp [State.negotiate]

theorem spdm_session (ready : s.ident.negotiated.contains tr = true) (few : s.ident.sessions < 4) :
    s.spdm tr .session = State.spdmReply { s with ident := { s.ident with sessions := s.ident.sessions + 1 } } .session [] :=
  if_pos ⟨ready, few⟩

/-- The switch to a key set that is there, inside a session over a port's mailbox. -/
theorem spdm_ideGo {e : IdeStream} {set : Nat} (port : tr < 2) (session : 0 < s.ident.sessions) (stream : s.cxl.ideStream tr e.kind = some e)
    (keyed : (kget e.keys set).isSome) :
    s.spdm tr (.ideKm true (.go e.kind set)) = State.spdmReply { s with cxl := s.cxl.ideGo tr e set } (.ideKm true (.go e.kind set)) [] := by
  simp only [State.spdm, State.ideKm, port, session, and_self, if_true, Cxl.ideKm, stream, keyed]

end

/-! ## DOE, PLDM and TMI commands over the sideband endpoint -/

section
variable {c : Cmd} {s : State}

/-- With no sideband command in progress a device that is on and past TASTING runs what the endpoint accepts as the command of its row. -/
theorem sidebandTmiCommand_of_accepted (on : s.life.dev ≠ .off) (idle : ∀ r ∈ s.tmi.running, r.src ≠ .sideband) (past : s.life.dev ≠ .tasting)
    (accepts : sidebandAccepts c.op = true) :
    exec (.sidebandTmiCommand c) s = .next (runCmd c.op { c with src := .sideband } (sidebandBody c.op) s) := by
  have free : ¬ (s.life.dev = .off ∨ (s.tmi.running.any fun r => r.src == CmdSrc.sideband) = true) := by simpa [on] using idle
  exact (if_neg free).trans ((if_neg past).trans (if_pos accepts))

theorem sidebandTmiCommand_in_tasting (idle : ∀ r ∈ s.tmi.running, r.src ≠ .sideband) (tasting : s.life.dev = .tasting) :
    exec (.sidebandTmiCommand c) s = .next (refuse { c with src := .sideband } 0x0004 s) := by
  have free : ¬ (s.life.dev = .off ∨ (s.tmi.running.any fun r => r.src == CmdSrc.sideband) = true) := by simpa [tasting] using idle
  exact (if_neg free).trans (if_pos tasting)

theorem sidebandTmiCommand_of_other (on : s.life.dev ≠ .off) (idle : ∀ r ∈ s.tmi.running, r.src ≠ .sideband) (past : s.life.dev ≠ .tasting)
    (refused : sidebandAccepts c.op = false) : exec (.sidebandTmiCommand c) s = .next (refuse { c with src := .sideband } 0x0001 s) := by
  have free : ¬ (s.life.dev = .off ∨ (s.tmi.running.any fun r => r.src == CmdSrc.sideband) = true) := by simpa [on] using idle
  exact (if_neg free).trans ((if_neg past).trans (if_neg (ne_true_of_eq_false refused)))

end

/-- Settles O56. -/
theorem sidebandRowsComplete : Obligations.SidebandRowsComplete := by
  refine ⟨fun tr s up served => ?_, fun tr r s up busy => (if_pos up).trans (if_neg (ne_true_of_eq_false busy)),
    fun port s up => ⟨if_pos up, ?_⟩, fun r s on => if_neg on, fun c s on idle => ⟨?_, ?_, ?_, ?_, ?_⟩⟩
  · have run := spdmRequest_of_served up served
    refine ⟨⟨_, run _, negotiate_contains true, rfl⟩, ⟨_, run _, negotiate_contains false⟩,
      fun ready few => ⟨_, (run _).trans (congrArg _ (spdm_session ready few)), rfl, rfl⟩,
      fun session => ⟨_, (run _).trans (congrArg _ (if_pos session)), rfl, rfl⟩,
      fun e set port session stream keyed => ⟨_, (run _).trans (congrArg _ (spdm_ideGo port session stream keyed)), ?_, rfl, rfl⟩⟩
    exact fun member => by simpa using List.of_mem_filter member
  · rintro i b rfl entry
    refine (if_pos up).trans ?_
    simp only [if_true, entry]
    rfl
  · exact sidebandTmiCommand_in_tasting idle
  · exact sidebandTmiCommand_of_other on idle
  · intro accepted past
    obtain ⟨op, -⟩ := id accepted
    replace op : c.op = 0x0601 := op
    rw [sidebandTmiCommand_of_accepted on idle past (by rw [op]; decide), op]
    exact next_runCmd accepted rfl
  · intro past op
    rw [sidebandTmiCommand_of_accepted on idle past (by rw [op]; decide), op]
    rfl
  · intro past op
    rw [sidebandTmiCommand_of_accepted on idle past (by rw [op]; decide), op]
    rfl

end Sys2Proof.Machine

/-! # The power controller and Metrizor (R347 to R373, R453) -/
namespace Sys2Proof.Machine

section
variable {s : State}

/-! ## Samples, changes of state and dips -/

theorem powerSample_of_rated {m : Sample} (active : s.pwrActive = true) (rated : m.rated = true) :
    exec (.powerSample m) s = .next (State.follow { s with pwr := (s.pwr.read m).settleCeiling m.power }) :=
  (if_pos rated).trans (if_pos active)

theorem stateChangeComplete_of_target {t : Nat} (active : s.pwrActive = true) (target : s.pwr.target = some t) :
    exec .stateChangeComplete s = .next (State.follow { s with pwr := { s.pwr with cur := t, target := none } }) := by
  simp only [exec, execStateChangeComplete, target, active, if_true]

/-- The first rail below its warning level begins an episode. -/
theorem supplyWarningCrossing_begins {rail mv : Nat} (aux : s.life.aux = true) (on : s.life.waiting = false) (below : mv < warningMv rail)
    (new : s.pwr.low.contains rail = false) (none : s.pwr.episode = none) : exec (.supplyWarningCrossing rail mv) s = .next { s with pwr := { s.pwr with
      dip := true, low := s.pwr.low ++ [rail], nDip := min (s.pwr.nDip + 1) 0xFFFFFFFF, dipAt := some s.clk.tick
      episode := some { rails := 2 ^ rail, lowMv := mv, lowRail := rail, durUs := 0, merged := 1 } } } := by
  simp only [exec, execSupplyWarningCrossing, aux, on, below, and_self, if_true, new, Bool.false_eq_true, if_false, none]
  rfl

/-- A rail more joins the episode. -/
theorem supplyWarningCrossing_joins {rail mv : Nat} {e : DipReport} (aux : s.life.aux = true) (on : s.life.waiting = false) (below : mv < warningMv rail)
    (new : s.pwr.low.contains rail = false) (episode : s.pwr.episode = some e) : exec (.supplyWarningCrossing rail mv) s = .next { s with pwr := { s.pwr with
      dip := true, low := s.pwr.low ++ [rail], episode := some (e.cross rail mv) } } := by
  simp only [exec, execSupplyWarningCrossing, aux, on, below, and_self, if_true, new, Bool.false_eq_true, if_false, episode]

theorem supplyReturnTimer_of_episode {e : DipReport} {t0 : Nat} (episode : s.pwr.episode = some e) (began : s.pwr.dipAt = some t0) :
    exec .supplyReturnTimer s = .next (State.endEpisode { s with pwr := { s.pwr with
      dip := false, low := [], episode := none, dipAt := none, calm := some 5 } } { e with durUs := (s.clk.tick - t0) / 100 } t0) := by
  simp only [exec, execSupplyReturnTimer, episode, began, ticksPerUs]

theorem supplyDipReportTimer_of_merged {e : DipReport} (merged : s.pwr.merged = some e) : exec .supplyDipReportTimer s = .next (s.sendDip e) := by
  simp only [exec, execSupplyDipReportTimer, merged]

/-! ## Pins (R453) -/

theorem pulseActs_of_long {ns : Nat} (long : 100 ≤ ns) : s.pulseActs ns = true :=
  (if_neg (by omega)).trans (if_neg (by omega))

theorem pulseActs_of_short {ns : Nat} (short : ns < 40) : s.pulseActs ns = false := if_pos short

/-! ## Metrizor -/

/-- A sample in OPEN that nothing disturbs is taken. -/
theorem metrizorSample_taken {drifts : List Int} (dev : s.life.dev = .opened) (runs : s.pwr.stopped = false) (inTime : s.mtz.late = false)
    (steady : s.pwr.dip = false) (cool : s.pwr.throttle = false) (still : s.pwr.target = none) :
    exec (.metrizorSample drifts) s = .next { s with mtz := s.mtz.take drifts } := by
  refine (if_pos ⟨.inl dev, runs⟩).trans ?_
  simp only [inTime, Bool.false_eq_true, if_false, steady, cool, still, Option.isSome_none, Bool.or_self]

/-- During a dip it is deferred. -/
theorem metrizorSample_deferred {drifts : List Int} (dev : s.life.dev = .opened) (runs : s.pwr.stopped = false) (inTime : s.mtz.late = false)
    (dip : s.pwr.dip = true) :
    exec (.metrizorSample drifts) s = .next { s with mtz := { s.mtz with deferred := some (s.mtz.deferred.getD s.mtz.openSec) } } := by
  refine (if_pos ⟨.inl dev, runs⟩).trans ?_
  simp only [inTime, Bool.false_eq_true, if_false, dip, Bool.true_or, if_true]

theorem vintageAutoCommit_of_planned (dev : s.life.dev = .opened) (runs : s.pwr.stopped = false) (planned : s.mtz.planned.isSome) (idle : s.cfg.txn = none)
    (quiet : s.cfg.commit = none) :
    exec .vintageAutoCommit s = .next (State.settleDevice { s with cfg := { s.cfg with autoVintage := true } } none) :=
  if_pos ⟨dev, runs, planned, by rw [idle]; rfl, by rw [quiet]; rfl⟩

theorem doMtzQuery_of_found {c : Cmd} {st : Nat} {v : Vintage} (found : s.mtz.find (fld c.desc 16 0 32) = some (st, v)) :
    doMtzQuery c s = doneReport c (v.report st) s := by
  simp only [doMtzQuery, found]

theorem doMtzQuery_of_unknown {c : Cmd} (unknown : s.mtz.find (fld c.desc 16 0 32) = none) : doMtzQuery c s = refuse c 0x0601 s := by
  simp only [doMtzQuery, unknown, stVintage]

end

/-- Settles O45. -/
theorem powerThermalAndAgeingRowsComplete : Obligations.PowerThermalAndAgeingRowsComplete := by
  refine ⟨⟨fun c s => ⟨fun accepted => next_runCmd accepted rfl, fun accepted => next_runCmd accepted rfl,
        fun accepted => ⟨fun st v found => next_runCmd accepted (doMtzQuery_of_found found), fun unknown => next_runCmd accepted (doMtzQuery_of_unknown unknown)⟩⟩,
      fun m s => powerSample_of_rated, fun t s => stateChangeComplete_of_target,
      fun rail mv s aux on below new => ⟨supplyWarningCrossing_begins aux on below new, fun e => supplyWarningCrossing_joins aux on below new⟩,
      fun e t0 s => supplyReturnTimer_of_episode, fun e s => supplyDipReportTimer_of_merged⟩,
    fun die t s active hot => if_pos ⟨active, hot⟩, fun s active hot => if_pos (by rw [active, hot]; rfl),
    fun s active cool raised => if_pos ⟨active, cool, raised⟩, fun t s aux once => if_pos ⟨aux, once⟩,
    fun ns s aux => ⟨fun long => (if_pos aux).trans (if_pos (pulseActs_of_long long)),
      fun short => (if_pos aux).trans (if_neg (ne_true_of_eq_false (pulseActs_of_short short)))⟩,
    fun s brake => if_pos brake,
    fun ns s aux runs => ⟨fun long => (if_pos ⟨aux, runs⟩).trans (if_pos (pulseActs_of_long long)),
      fun short => (if_pos ⟨aux, runs⟩).trans (if_neg (ne_true_of_eq_false (pulseActs_of_short short)))⟩,
    fun drifts s dev runs inTime => ⟨metrizorSample_taken dev runs inTime, metrizorSample_deferred dev runs inTime⟩,
    fun s dev runs => ⟨if_pos ⟨dev, runs⟩, vintageAutoCommit_of_planned dev runs⟩⟩

end Sys2Proof.Machine

/-! # Issue, tokens, streams and the tally port of a tile (R73, R86, R87, R91, R101, R102, R113, R116, R125 to R127, R137 to R151) -/
namespace Sys2Proof.Machine

/-! ## Reads of a tile's stores (R90, R91) -/

/-- Two stores of one tile are the later one. -/
theorem setTile_setTile (s : State) (t : Nat) (x y : Tile) : (s.setTile t x).setTile t y = s.setTile t y := by
  simp only [State.setTile, kput_kput]

/-- What the codes find changes the counts of corrected words and the words kept bad, and nothing else. -/
theorem noteErrs_only (x : Tile) (rs : List Range) (es : List WordErr) :
    x.noteErrs rs es = { x with corrected := (x.noteErrs rs es).corrected, bad := (x.noteErrs rs es).bad } := by
  have one (x : Tile) (e : WordErr) : x.noteErr e = { x with corrected := (x.noteErr e).corrected, bad := (x.noteErr e).bad } := by
    unfold Tile.noteErr Tile.keepBad
    split
    · rfl
    · split_ifs <;> rfl
  have all (l : List WordErr) (x : Tile) :
      l.foldl Tile.noteErr x = { x with corrected := (l.foldl Tile.noteErr x).corrected, bad := (l.foldl Tile.noteErr x).bad } := by
    induction l generalizing x with
    | nil => rfl
    | cons e l ih => rw [List.foldl_cons, ih, one x e]
  exact all _ x

theorem noteErrs_cask (x : Tile) (rs : List Range) (es : List WordErr) (c : Nat) : (x.noteErrs rs es).cask c = x.cask c := by
  rw [noteErrs_only]; rfl

/-- A read whose words are all good delivers, and leaves the tile as the codes found it. -/
theorem readStores_of_good {s : State} {t c : Nat} {scrub : Bool} {rs : List Range} {es : List WordErr} {x : Tile}
    (noted : (s.tile t).noteErrs rs es = x) (good : x.badIn rs = []) : s.readStores t c scrub rs es = (true, s.setTile t x) := by
  subst noted
  simp only [State.readStores, State.modTile, setTile_tile, good, List.isEmpty_nil, List.foldl_nil]

/-! ## Which micro-operation a cask has issued -/

section
variable {s : State} {t c u lo hi : Nat} {k : CaskCtx}

theorem classRuns_of_issued (may : s.canIssue t c = true) (resident : (s.tile t).cask c = some k) (issued : k.issued = some u)
    (above : lo ≤ imgOp k.image u) (below : imgOp k.image u ≤ hi) : s.classRuns t c lo hi = true := by
  simp only [State.classRuns, resident, Option.bind_some, issued, State.opRuns, may, beq_self_eq_true, above, below, and_self, decide_true, Bool.and_self]

theorem edgeCredits_of_edge {n : Nat} {e : Edge} (resident : (s.tile t).cask c = some k) (edge : kget k.edges n = some e) : s.edgeCredits t c n = e.credits := by
  simp only [State.edgeCredits, resident, edge]

end

/-! ## Issue -/

section
variable {s : State} {t : Nat} {ps es : List Nat} {errs : List WordErr} {k : CaskCtx} {x : Tile}

/-- A micro-operation of an assigned opcode issues: the pointer moves on. -/
theorem uopIssue_of_assigned (resident : (s.tile t).cask (s.tile t).running = some k) (may : s.canIssue t (s.tile t).running = true)
    (ready : k.inputsReady ps es = true) (noted : (s.tile t).noteErrs [uopRange k.image (s.tile t).running k.uptr] errs = x)
    (good : x.badIn [uopRange k.image (s.tile t).running k.uptr] = []) (assigned : opcodeOk (imgOp k.image k.uptr) = true) :
    exec (.uopIssue t ps es errs) s = .next (s.setTile t (x.setCask (s.tile t).running k.nextUop)) := by
  have same : ((s.setTile t x).tile t).cask (s.tile t).running = some k := by rw [setTile_tile, ← noted, noteErrs_cask, resident]
  simp only [exec, execUopIssue, resident, may, ready, and_self, if_true, readStores_of_good noted good, assigned]
  rw [modCask_of_some _ same, setTile_tile, setTile_setTile]

/-- A reserved opcode reached is the graph fault of cause 6. -/
theorem uopIssue_of_reserved (resident : (s.tile t).cask (s.tile t).running = some k) (may : s.canIssue t (s.tile t).running = true)
    (ready : k.inputsReady ps es = true) (noted : (s.tile t).noteErrs [uopRange k.image (s.tile t).running k.uptr] errs = x)
    (good : x.badIn [uopRange k.image (s.tile t).running k.uptr] = []) (reserved : opcodeOk (imgOp k.image k.uptr) = false) :
    exec (.uopIssue t ps es errs) s = .next ((s.setTile t x).sendReport t (.graph t (s.tile t).running 6 0xFF 0 0 0x7FF k.uptr)) := by
  simp only [exec, execUopIssue, resident, may, ready, and_self, if_true, readStores_of_good noted good, reserved, Bool.false_eq_true, if_false, State.uopFault]

end

/-- Settles O25. -/
theorem issueRowsComplete : Obligations.IssueRowsComplete := by
  refine ⟨fun t ps es errs k x s resident may ready noted good => ⟨uopIssue_of_assigned resident may ready noted good,
    uopIssue_of_reserved resident may ready noted good⟩, fun t c u k s may resident issued => ⟨fun op => ?_, fun op => ?_⟩⟩
  · have run := classRuns_of_issued (lo := 0xFF) (hi := 0xFF) may resident issued op.ge op.le
    exact (if_pos run).trans (by rw [modCask_of_some _ resident])
  · have run := classRuns_of_issued (lo := 0xF0) (hi := 0xF0) may resident issued op.ge op.le
    exact (if_pos run).trans (by rw [modCask_of_some _ resident])

/-! ## Tokens at the producer -/

section
variable {s : State} {t c : Nat}

theorem queuePop_of_good {q : Nat} {errs : List WordErr} {x : Queue} {e : Bytes} {y : Tile} (runs : s.anyRuns t c = true) (queue : s.queueAt t c q = some (x, e))
    (some : x.seqs ≠ []) (noted : (s.tile t).noteErrs [headRange e x] errs = y) (good : y.badIn [headRange e x] = []) :
    exec (.queuePop t c q errs) s = .next ((s.setTile t y).popQueue t c q) := by
  have full : x.seqs.isEmpty = false := by simpa using some
  simp only [exec, execQueuePop, runs, if_true, queue, full, Bool.false_eq_true, if_false, readStores_of_good noted good]

/-- A token spends a credit of its edge and takes the edge's next number. -/
theorem sendToken_of_edge {n : Nat} {d : Bytes} {k : CaskCtx} {ed : Edge} (resident : (s.tile t).cask c = some k) (edge : kget k.edges n = some ed) :
    s.sendToken t c n d = ((s.setTile t ((s.tile t).setCask c { k with edges := kput k.edges n ⟨ed.credits - 1, (ed.seq + 1) % 256⟩ })).moved t c).injectBy t
      (eeEng (imgEdge k.image n)) (tokenFlits t (eeTile (imgEdge k.image n)) (eeCls (imgEdge k.image n)) c (eeQid (imgEdge k.image n)) ed.seq d) := by
  simp only [State.sendToken, resident, edge, modCask_of_some _ resident]

theorem tokenSend_of_credit {n u : Nat} {d : Bytes} {k : CaskCtx} {ed : Edge} (may : s.canIssue t c = true) (resident : (s.tile t).cask c = some k)
    (issued : k.issued = some u) (above : 0x60 ≤ imgOp k.image u) (below : imgOp k.image u ≤ 0x6F) (edge : kget k.edges n = some ed) (credit : 0 < ed.credits) :
    exec (.tokenSend t c n d) s = .next (s.sendToken t c n d) :=
  if_pos ⟨classRuns_of_issued may resident issued above below, by rw [edgeCredits_of_edge resident edge]; exact credit⟩

theorem sendCredits_of_some {q : Nat} {x : Queue} {e : Bytes} (queue : s.queueAt t c q = some (x, e)) (counted : 0 < x.uncounted) :
    s.sendCredits t c q = (s.setQueue t c q { x with uncounted := x.uncounted - min x.uncounted 16 }).inject t
      [mkFlit t (qePtile e) 0 0 c 7 (64 * qePcask e + qePedge e) 0 true (le 1 (min x.uncounted 16))] := by
  have some : ¬ min x.uncounted 16 = 0 := by omega
  simp only [State.sendCredits, queue, some, if_false]

theorem sendCredits_of_none {q : Nat} {x : Queue} {e : Bytes} (queue : s.queueAt t c q = some (x, e)) (none : x.uncounted = 0) : s.sendCredits t c q = s := by
  simp only [State.sendCredits, queue, none, Nat.zero_min, if_true]

/-- A rotation plan whose HOLD is filled, with credits for the block and every word good, sends HOLD and waits for NEXT. -/
theorem rotate_of_held {plan q n m a : Nat} {errs : List WordErr} {p : Plan} {img e : Bytes} {x : Queue} {g : Ring} {y : Tile}
    (member : s.planAt t plan = some p) (image : s.image t c = some img) (queue : s.queueAt t c q = some (x, e)) (runs : s.classRuns t c 0x70 0x7F = true)
    (rotation : p.move = 1) (ring : (s.tile t).ring plan = g) (held : g.held = true) (free : g.waiting = none) (tokens : m = blockTokens p.buf e)
    (credits : m ≤ s.edgeCredits t c n) (hold : a = g.addr (s.planBase t plan img) p.buf false) (window : inWindow img a p.buf = true)
    (noted : (s.tile t).noteErrs [(0, a, p.buf)] errs = y) (good : y.badIn [(0, a, p.buf)] = []) :
    exec (.rotate t c plan q n errs) s = .next ((((s.setTile t y).sendBlock t c n (y.wsRead a p.buf) (slotBytes e) m).modTile t fun z =>
      z.setRing plan { g with waiting := some (c, q) }).swapRing t plan) := by
  subst ring tokens hold
  simp only [exec, execRotate, member, image, queue, runs, rotation, held, free, credits, and_self, if_true, window, readStores_of_good noted good, setTile_tile]

end

/-! ## Tokens at the consumer -/

section
variable {s : State} {t : Nat} {f : Flit}

theorem tokenArrival_of_token (there : (s.tile t).eject.contains f = true) (kind : f.kind = 6) (new : (s.tile t).refused.contains f.token = false) :
    exec (.tokenArrival t f) s = match s.tokenFault t f with
      | some k => .next (((s.takeEject t f).modTile t fun x => x.refuseToken f).sendReport t (.graph t (f.qid / 64 % 4) k f.qid 0 f.seq f.src 0xFFF))
      | none => .next ((s.takeEject t f).landToken t f) := by
  simp only [exec, execTokenArrival, there, kind, beq_self_eq_true, Bool.and_self, if_true, new, Bool.false_eq_true, if_false] <;> rfl

theorem tokenArrival_of_refused (there : (s.tile t).eject.contains f = true) (kind : f.kind = 6) (refused : (s.tile t).refused.contains f.token = true) :
    exec (.tokenArrival t f) s = .next ((s.takeEject t f).modTile t fun x => x.dropRefused f) := by
  simp only [exec, execTokenArrival, there, kind, beq_self_eq_true, Bool.and_self, if_true, refused]

theorem e2eCreditReturn_of_edge {k : CaskCtx} {ed : Edge} (there : (s.tile t).eject.contains f = true) (kind : f.kind = 7)
    (resident : (s.tile t).cask (f.qid / 64) = some k) (edge : kget k.edges (f.qid % 64) = some ed) :
    exec (.e2eCreditReturn t f) s = if ed.credits + fld f.payload 0 0 5 ≤ eeCredits (imgEdge k.image (f.qid % 64)) then
        .next ((s.takeEject t f).modCask t (f.qid / 64) fun k => { k with edges := kput k.edges (f.qid % 64) { ed with credits := ed.credits + fld f.payload 0 0 5 } })
      else .next ((s.takeEject t f).sendReport t (.graph t (f.qid / 64 % 4) 5 f.qid 0 0 f.src 0xFFF)) := by
  simp only [exec, execE2eCreditReturn, there, kind, beq_self_eq_true, Bool.and_self, if_true, resident, Option.bind_some, edge, Option.map_some, creditCount] <;> rfl

end

/-! ## Steering -/

section
variable {s : State} {t c n : Nat}

theorem steeringPairing_of_ready {errs : List WordErr} {pe : Bytes} {cx dx : Queue} {ce de : Bytes} {y : Tile} (may : s.canIssue t c = true)
    (ready : s.readyPair t c = some (n, pe, (cx, ce), (dx, de))) (noted : (s.tile t).noteErrs [headRange ce cx, headRange de dx] errs = y)
    (good : y.badIn [headRange ce cx, headRange de dx] = []) : exec (.steeringPairing t c errs) s = .next ((s.setTile t y).pairUp t c n pe cx ce dx de) := by
  simp only [exec, execSteeringPairing, may, if_true, ready, readStores_of_good noted good]

theorem steeredTokenSend_of_credit {e : Nat} {k : CaskCtx} {st : Steered} (resident : (s.tile t).cask c = some k) (waits : kget k.steered n = some st)
    (edge : (st.edges.find? fun e => decide (0 < s.edgeCredits t c e)) = some e) (runs : s.pwr.stopped = false) :
    exec (.steeredTokenSend t c n) s = .next ((s.sendToken t c e st.data).modCask t c fun k => { k with
      steered := if (st.edges.erase e).isEmpty then kdel k.steered n else kput k.steered n ⟨st.data, st.edges.erase e⟩ }) := by
  simp only [exec, execSteeredTokenSend, resident, Option.bind_some, waits, edge, runs, Bool.false_eq_true, if_false]

end

/-- Settles O26. -/
theorem tokenRowsComplete : Obligations.TokenRowsComplete := by
  refine ⟨⟨fun t c q errs x e y s => queuePop_of_good, fun t c n u d k ed s may resident issued above below edge credit => ?_,
      fun t c q x e s queue => ⟨fun counted => congrArg _ (sendCredits_of_some queue counted), fun none => congrArg _ (sendCredits_of_none queue none)⟩,
      fun t c plan q n m a errs p img e x g y s => rotate_of_held⟩,
    fun t f s there kind => ⟨fun new => ⟨fun ok => ?_, fun k fault => ?_⟩, tokenArrival_of_refused there kind⟩,
    fun t f k ed s there kind resident edge => ⟨fun fits => ?_, fun beyond => ?_⟩, fun t c n errs pe cx dx ce de y s => steeringPairing_of_ready,
    fun t c n e k st s => steeredTokenSend_of_credit⟩
  · rw [tokenSend_of_credit may resident issued above below edge credit, sendToken_of_edge resident edge]
  · rw [tokenArrival_of_token there kind new, ok]
  · rw [tokenArrival_of_token there kind new, fault]
  · exact (e2eCreditReturn_of_edge there kind resident edge).trans (if_pos fits)
  · exact (e2eCreditReturn_of_edge there kind resident edge).trans (if_neg (Nat.not_le.mpr beyond))

end Sys2Proof.Machine

/-! # The stream engines and the tally port (R74, R108, R137 to R142, R148 to R152) -/
namespace Sys2Proof.Machine

/-- The flit found is the one taken. -/
theorem eraseP_of_find? {α : Type} [BEq α] [LawfulBEq α] {k : α → Bool} {l : List α} {a : α} (found : l.find? k = some a) : l.eraseP k = l.erase a := by
  induction l with
  | nil => cases found
  | cons x l ih =>
    by_cases here : k x = true
    · rw [List.find?_cons_of_pos here] at found
      cases found
      rw [List.eraseP_cons_of_pos here, List.erase_cons_head]
    · rw [List.find?_cons_of_neg here] at found
      have other : x ≠ a := fun same => here (same ▸ List.find?_some found)
      rw [List.eraseP_cons_of_neg here, List.erase_cons_tail (by simpa using other), ih found]

/-- A delivered flit that is taken leaves the tile's delivered ones. -/
theorem takeKind_of_delivered {s : State} {t : Nat} {k : Flit → Bool} {f : Flit} (there : s.delivered t k = some f) : s.takeKind t k = s.takeEject t f := by
  simp only [State.takeKind, State.takeEject, State.modTile, eraseP_of_find? there]

/-! ## Streams -/

section
variable {s : State} {t c e : Nat} {g : Stream} {errs : List WordErr}

/-- A read ring that may read and whose engine holds fewer than 64 reads issues one. -/
theorem streamIssue_reads (stream : s.streamAt t c e = some g) (serves : s.engineServes t c = true) (read : sdDirn g.active = 0) (may : s.mayRead t c g = true)
    (few : (s.tile t).engineReads e < 64) : exec (.streamIssue t c e errs) s = .next (s.issueRead t c e g) := by
  simp only [exec, execStreamIssue, stream, serves, read, may, few, decide_true, Bool.and_self, if_true]

theorem streamIssue_prefetches (stream : s.streamAt t c e = some g) (serves : s.engineServes t c = true) (read : sdDirn g.active = 0)
    (may : s.mayRead t c g = false) (openSlot : s.closedSlot t c = false) : exec (.streamIssue t c e errs) s = .next (s.issueAhead t c e g) := by
  simp only [exec, execStreamIssue, stream, serves, read, may, Bool.false_and, Bool.false_eq_true, openSlot, if_true, if_false]

theorem streamIssue_writes (stream : s.streamAt t c e = some g) (serves : s.engineServes t c = true) (write : sdDirn g.active = 1) :
    exec (.streamIssue t c e errs) s = .next (s.issueWrite t c e g errs) := by
  simp only [exec, execStreamIssue, stream, serves, write, Nat.one_ne_zero, if_true, if_false]

theorem readDataArrival_of_delivered {sl l : Nat} {d : Bytes} {f : Flit} {r : RingSlot} (stream : s.streamAt t c e = some g) (slot : kget g.slots sl = some r)
    (there : s.delivered t (fun f => f.kind == 2 && f.qid == 64 * c + e && f.payload == payload64 d && g.awaits f.seq sl l) = some f) :
    exec (.readDataArrival t c e sl l d) s = .next (((s.takeEject t f).modTile t fun x =>
      x.wsWrite (ringAddr g.active sl + 64 * l) (payload64 d)).setStream t c e (Stream.answered { g with
        slots := kput g.slots sl { r with landed := r.landed ++ [l] }
        outstanding := g.outstanding - 1 } f.seq)) := by
  simp only [exec, execReadDataArrival, stream, there, slot, takeKind_of_delivered there]

theorem streamRingPop_of_landed {r : RingSlot} {x : Tile} (stream : s.streamAt t c e = some g) (slot : kget g.slots g.head = some r) (runs : s.anyRuns t c = true)
    (read : sdDirn g.active = 0) (landed : r.landed.length = sdLines g.active)
    (noted : (s.tile t).noteErrs [(0, ringAddr g.active g.head, 64 * sdLines g.active)] errs = x)
    (good : x.badIn [(0, ringAddr g.active g.head, 64 * sdLines g.active)] = []) :
    exec (.streamRingPop t c e errs) s = .next ((s.setTile t x).setStream t c e g.headNext) := by
  simp only [exec, execStreamRingPop, stream, slot, runs, read, landed, and_self, if_true, readStores_of_good noted good]

theorem streamRingPush_of_room {d : Bytes} (stream : s.streamAt t c e = some g) (runs : s.anyRuns t c = true) (write : sdDirn g.active = 1)
    (room : g.full = false) (remains : 0 < g.remain) (length : d.length = 64 * sdLines g.active) :
    exec (.streamRingPush t c e d) s = .next ((s.modTile t fun x => x.wsWrite (ringAddr g.active g.issue) d).setStream t c e
      (Stream.issueNext { g with slots := kput g.slots g.issue ⟨0, [], true, 0, slotAddrs g.active (sdTotal g.active - g.remain)⟩ })) := by
  have whole : (d ++ List.replicate (64 * sdLines g.active) 0).take (64 * sdLines g.active) = d := by rw [← length, List.take_left]
  simp only [exec, execStreamRingPush, stream, runs, write, room, remains, and_self, if_true, whole, RingSlot.fresh]

/-- An acknowledgement is counted; the last of the slot at HEAD frees it. -/
theorem writeAckArrival_of_delivered {sl : Nat} {f : Flit} {r : RingSlot} (stream : s.streamAt t c e = some g) (slot : kget g.slots sl = some r)
    (there : s.delivered t (fun f => f.kind == 3 && f.qid == 64 * c + e && g.waits.any fun w => w.1 == f.seq && w.2.1 == sl) = some f) :
    exec (.writeAckArrival t c e sl) s = if r.acks + 1 = sdLines g.active ∧ sl = g.head then
        .next ((s.takeEject t f).setStream t c e (g.answered f.seq).headNext)
      else .next ((s.takeEject t f).setStream t c e { g.answered f.seq with slots := kput g.slots sl { r with acks := r.acks + 1 } }) := by
  simp only [exec, execWriteAckArrival, stream, there, slot, takeKind_of_delivered there, Stream.answered]

theorem shadowWrite_of_invalid {d : Bytes} (stream : s.streamAt t c e = some g) (runs : s.classRuns t c 0x70 0x7F = true) (invalid : sdValid g.shadow = false) :
    exec (.shadowWrite t c e d false) s = .next (s.setStream t c e (Stream.rearm { g with shadow := sdSetValid (payload64 d) true })) := by
  simp only [exec, execShadowWrite, stream, Bool.false_eq_true, if_false, runs, invalid, and_self, if_true]

end

/-- Settles O28. -/
theorem streamRowsComplete : Obligations.StreamRowsComplete := by
  refine ⟨fun t c e errs g s stream serves => ⟨streamIssue_reads stream serves, streamIssue_prefetches stream serves, streamIssue_writes stream serves⟩,
    fun t c e sl l d f g r s => readDataArrival_of_delivered, fun t c e errs g r x s => streamRingPop_of_landed, fun t c e d g s => streamRingPush_of_room,
    fun t c e sl f g r s stream slot there => ⟨fun last head => ?_, fun more => ?_⟩, fun t c e d g s => shadowWrite_of_invalid⟩
  · exact (writeAckArrival_of_delivered stream slot there).trans (if_pos ⟨last, head⟩)
  · exact (writeAckArrival_of_delivered stream slot there).trans (if_neg fun h => more.ne h.1)

/-! ## The tally port and the tally unit -/

section
variable {s : State} {t : Nat}

theorem tallyRequestIssue_of_free {counter count : Nat} (runs : s.classRuns t (s.tile t).running 0x70 0x7F = true) (free : (s.tile t).tallyReq = none)
    (some : 1 ≤ count) (most : count ≤ 256) :
    exec (.tallyRequestIssue t counter count) s = .next ((s.setTile t { s.tile t with
      tallyReq := .some ⟨(s.tile t).running, (s.tile t).tallySeq.getD (counter / 1024 % 4) 0, counter, (kget (s.tile t).epochs counter).getD 0, count⟩
      tallySeq := modAt (s.tile t).tallySeq (counter / 1024 % 4) fun n => (n + 1) % 256 }).inject t
        [tallyFlit t ⟨(s.tile t).running, (s.tile t).tallySeq.getD (counter / 1024 % 4) 0, counter, (kget (s.tile t).epochs counter).getD 0, count⟩]) :=
  if_pos ⟨runs, free, some, most⟩

theorem tallyResendTimer_of_outstanding {r : TallyReq} (outstanding : (s.tile t).tallyReq = some r) :
    exec (.tallyResendTimer t) s = .next (s.inject t [tallyFlit t r]) := by
  simp only [exec, execTallyResendTimer, outstanding]

theorem tallyRequest_at_rim {seq k epoch count : Nat} {b : Buffered}
    (there : s.atRim t 1 (fun f => f.kind == 4 && f.seq == seq && f.payload == tallyPayload k epoch count) = some b) :
    exec (.tallyRequest t seq k epoch count) s = .next ((State.takeRim { s with tally := (s.tally.request t seq k epoch count).2 } t 1
      fun f => f.kind == 4 && f.seq == seq && f.payload == tallyPayload k epoch count).rimSend t 1
        (grantFlit t b.flit.cask seq (s.tally.request t seq k epoch count).1)) := by
  simp only [exec, execTallyRequest, there]

/-- A delivered grant is taken; the one with the number outstanding ends the request. -/
theorem tallyGrant_of_delivered {seq : Nat} {f : Flit} {g : Grant} {r : TallyReq} (outstanding : (s.tile t).tallyReq = some r)
    (there : s.delivered t (fun f => f.kind == 5 && f.seq == seq && f.payload == payload64 g.bytes) = some f) :
    exec (.tallyGrant t seq g) s = if r.seq = seq then
        .next ((s.takeEject t f).modTile t fun x => { x with tallyReq := none, work := if g.status ≤ 1 then some (g.first, g.got) else none })
      else .next (s.takeEject t f) := by
  have same : ((s.takeEject t f).tile t).tallyReq = some r := by simp only [State.takeEject, State.modTile, setTile_tile, outstanding]
  simp only [exec, execTallyGrant, there, Option.isSome_some, if_true, takeKind_of_delivered there, same, Grant.work]

end

/-- Settles O30. -/
theorem tallyRowsComplete : Obligations.TallyRowsComplete := by
  refine ⟨?_, fun t r s => tallyResendTimer_of_outstanding, fun t seq k epoch count b s => tallyRequest_at_rim,
    fun t seq f g r s outstanding there => ⟨fun same => ?_, fun other => ?_⟩⟩
  · rintro t counter count r s runs free some most rfl
    exact tallyRequestIssue_of_free runs free some most
  · exact (tallyGrant_of_delivered outstanding there).trans (if_pos same)
  · exact (tallyGrant_of_delivered outstanding there).trans (if_neg other)

end Sys2Proof.Machine

/-! # The mesh: forwarding, receiving, credits and replay (R83, R85, R93, R94) -/
namespace Sys2Proof.Machine

section
variable {s : State} {t p n : Nat}

/-! ## Forwarding -/

theorem flitForward_of_tile (runs : s.pwr.stopped = false) : exec (.flitForward t p false n) s = .next ((s.atFc n).sendFrom t p n) :=
  if_neg (ne_true_of_eq_false runs)

theorem flitForward_of_rim (runs : s.pwr.stopped = false) (rim : attaches t p = true) : exec (.flitForward t p true n) s = .next ((s.atFc n).rimForward t p n) :=
  (if_neg (ne_true_of_eq_false runs)).trans (if_pos rim)

/-- A link's output with a flit waiting for replay sends it before any other. -/
theorem sendFrom_of_resend {w : Sent} {rest : List Sent} (link : p < 4) (free : (s.link (linkKey t p)).blocked = false)
    (again : (s.link (linkKey t p)).resend = w :: rest) : s.sendFrom t p n = s.modLink (linkKey t p) fun l => l.sendReplay w rest := by
  have may : ¬ (p < 4 ∧ (s.link (linkKey t p)).blocked = true) := fun h => ne_true_of_eq_false free h.2
  refine (if_neg may).trans ?_
  simp only [link, if_true, again]

theorem sendFrom_of_winner {c : Contender} (link : p < 4) (free : (s.link (linkKey t p)).blocked = false) (none : (s.link (linkKey t p)).resend = [])
    (winner : s.winner t p n = some c) : s.sendFrom t p n = (s.leaveInput t n c).modLink (linkKey t p) fun l => l.send (c.2.hop n) := by
  have may : ¬ (p < 4 ∧ (s.link (linkKey t p)).blocked = true) := fun h => ne_true_of_eq_false free h.2
  have other : p ≠ 4 := link.ne
  refine (if_neg may).trans ?_
  simp only [link, if_true, none, winner, State.sendOn, other, if_false]

/-- The local port hands its winner to the tile. -/
theorem sendFrom_local {c : Contender} (winner : s.winner t 4 n = some c) :
    s.sendFrom t 4 n = (s.leaveInput t n c).modTile t fun x => { x with eject := x.eject ++ [c.2.hop n] } := by
  simp only [State.sendFrom, Nat.lt_irrefl, false_and, if_false, winner, State.sendOn, if_true]

theorem rimForward_of_winner {c : Contender} (free : (s.link (enterKey t p)).blocked = false) (none : (s.link (enterKey t p)).resend = [])
    (winner : winnerOf n (s.rimHeads t p) = some c) : s.rimForward t p n =
      State.modLink { s with rimOut := s.rimOut.erase (t, p, c.2.flit) } (enterKey t p) fun l => l.send { c.2.flit with age := 0, src := t } := by
  refine (if_neg (ne_true_of_eq_false free)).trans ?_
  simp only [none, winner]

/-! ## Receiving -/

section
variable {rim : Bool} {w : Sent} {rest : List Sent} {err : Option FlitErr}

theorem flitReceive_of_link (port : p < 4) (attached : rim = true → attaches t p = true) (whole : (s.link (arriveKey t p rim)).failed = false) :
    exec (.flitReceive t p rim n err) s = .next ((s.atFc n).receiveWire (arriveKey t p rim) t p rim err) := by
  have inside : ¬ 4 ≤ p := Nat.not_le.mpr port
  have there : (rim && !attaches t p) = false := by
    cases rim
    · rfl
    · rw [attached rfl]; rfl
  simp only [exec, execFlitReceive, there, inside, decide_false, whole, Bool.or_self, Bool.false_eq_true, if_false]

theorem receiveWire_of_wanted {k : Nat} (wire : (s.link k).wire = w :: rest)
    (wanted : ((s.modLink k fun l => { l with wire := rest }).link k).wants w = true) :
    s.receiveWire k t p rim none = ((s.modLink k fun l => { l with wire := rest }).modLink k fun l => l.accept w).enterBuffer k t p rim w
    ∧ ∀ x, s.receiveWire k t p rim (some ⟨x, true⟩) = ((s.modLink k fun l => { l with wire := rest }).modLink k fun l => l.refuse w).countLink t := by
  refine ⟨?_, fun x => ?_⟩ <;> simp only [State.receiveWire, wire, wanted, if_true]

end

/-! ## Credits and replay -/

theorem hopCreditReturn_of_back {vc : Nat} {rim res : Bool} (back : (vc, res) ∈ (s.link (sendKey t p rim)).back) : exec (.hopCreditReturn t p vc rim res) s =
    .next (s.modLink (sendKey t p rim) fun l => ({ l with back := l.back.erase (vc, res) } : Link).regain vc res) :=
  if_pos (List.contains_iff_mem.mpr back)

theorem meshReplayRequest_of_asked {vc i : Nat} {rim : Bool} (port : p < 4) (attached : rim = true → attaches t p = true)
    (whole : (s.link (sendKey t p rim)).failed = false) (asked : (s.link (sendKey t p rim)).asks vc = some i) :
    exec (.meshReplayRequest t p vc rim) s = if 9 ≤ (s.link (sendKey t p rim)).fails.getD vc 0 then .next (s.linkFails t p)
      else .next (s.modLink (sendKey t p rim) fun l => l.replayFrom vc i) := by
  have inside : ¬ 4 ≤ p := Nat.not_le.mpr port
  have there : (rim && !attaches t p) = false := by
    cases rim
    · rfl
    · rw [attached rfl]; rfl
  simp only [exec, execMeshReplayRequest, asked, whole, inside, decide_false, there, Bool.or_self, Bool.false_eq_true, if_false]

end

/-- Settles O32. -/
theorem meshRowsComplete : Obligations.MeshRowsComplete := by
  refine ⟨fun t p n s runs link free => ⟨fun w rest again => ?_, fun c none winner => ?_⟩, fun t n c s runs winner => ?_,
    fun t p n c s runs rim free none winner => ?_, ?_, fun t p vc rim res s => hopCreditReturn_of_back,
    fun t p vc n rim s port attached whole asked => ⟨fun few => ?_, fun many => ?_⟩⟩
  · exact (flitForward_of_tile runs).trans (congrArg _ (sendFrom_of_resend link free again))
  · exact (flitForward_of_tile runs).trans (congrArg _ (sendFrom_of_winner link free none winner))
  · exact (flitForward_of_tile runs).trans (congrArg _ (sendFrom_local winner))
  · exact (flitForward_of_rim runs rim).trans (congrArg _ (rimForward_of_winner free none winner))
  · rintro t p n rim w rest u s port attached whole wire rfl wanted
    obtain ⟨good, bad⟩ := receiveWire_of_wanted (s := s.atFc n) (t := t) (p := p) (rim := rim) wire wanted
    exact ⟨(flitReceive_of_link port attached whole).trans (congrArg _ good), fun x => (flitReceive_of_link port attached whole).trans (congrArg _ (bad x))⟩
  · exact (meshReplayRequest_of_asked port attached whole asked).trans (if_neg (Nat.not_le.mpr few))
  · exact (meshReplayRequest_of_asked port attached whole asked).trans (if_pos many)

end Sys2Proof.Machine

/-! # Configuration transactions (R338 to R343) -/
namespace Sys2Proof.Machine

section
variable {c : Cmd} {s : State}

/-- A target with no transaction, and no vintage under way where it is the device, gets one under a number that is not 0. -/
theorem doCfgBegin_of_none (none : s.txnOf c.target = none) (idle : c.target = 255 → s.cfg.autoVintage = false) :
    doCfgBegin c s = done c (le 2 (s.freshNat % 65535 + 1)) (s.used.setTxn c.target (some ⟨s.freshNat % 65535 + 1, [], 0⟩)) := by
  have free : ((s.txnOf c.target).isSome || (c.target == 255 && s.cfg.autoVintage)) = false := by
    rw [none, Option.isSome_none, Bool.false_or, Bool.and_eq_false_iff]
    by_cases device : c.target = 255
    · exact .inr (idle device)
    · exact .inl (by simpa using device)
  exact if_neg (ne_true_of_eq_false free)

theorem doCfgBegin_of_open (open_ : (s.txnOf c.target).isSome) : doCfgBegin c s = refuse c 0x0301 s :=
  if_pos (by rw [open_, Bool.true_or])

section
variable {t : Txn} (open_ : s.txnOf c.target = some t)
include open_

/-- The open transaction, when the command names it. -/
theorem named_txn (named : t.txid = fld c.desc 16 0 16) : (s.txnOf c.target).filter (fun t => t.txid == fld c.desc 16 0 16) = some t := by
  simp only [open_, Option.filter_some, named, beq_self_eq_true, if_true]

theorem named_txn_of_other (other : t.txid ≠ fld c.desc 16 0 16) : (s.txnOf c.target).filter (fun t => t.txid == fld c.desc 16 0 16) = none := by
  simp only [open_, Option.filter_some, beq_iff_eq, other, if_false]

theorem doCfgSet_of_named (named : t.txid = fld c.desc 16 0 16) (idle : s.commitOf c.target = none) (few : t.count < 256)
    (scope : keyScope (fld c.desc 18 0 16) = some (c.target == 255)) (value : valueOk (fld c.desc 18 0 16) (slice c.desc 24 (fld c.desc 20 0 8)) = true) :
    doCfgSet c s = done c [] (s.setTxn c.target (some (t.put (fld c.desc 18 0 16) (slice c.desc 24 (fld c.desc 20 0 8))))) := by
  have room : ¬ 256 ≤ t.count := Nat.not_le.mpr few
  simp only [doCfgSet, named_txn open_ named, idle, Option.isSome_none, Bool.false_eq_true, if_false, txnMax, room, scope, ne_eq, not_true, value, Bool.not_true]

theorem doCfgSet_of_other (other : t.txid ≠ fld c.desc 16 0 16) : doCfgSet c s = refuse c 0x0300 s := by
  simp only [doCfgSet, named_txn_of_other open_ other, stCfgNotOpen]

theorem doCfgAbort_of_named (named : t.txid = fld c.desc 16 0 16) (idle : s.commitOf c.target = none) : doCfgAbort c s = done c [] (s.setTxn c.target none) := by
  simp only [doCfgAbort, named_txn open_ named, Option.isSome_some, if_true, idle, Option.isNone_none]

theorem doCfgCommit_of_idle (named : t.txid = fld c.desc 16 0 16) (idle : s.commitOf c.target = none) :
    doCfgCommit c s = match s.commitCheck c.target t with
      | some st => refuse c st s
      | none => if t.needsNothing then done c (le 4 0) (s.applyNow c.target t) else beginCommit c t s := by
  have free : ¬ (s.commitOf c.target).isSome = true := by rw [idle]; exact Bool.false_ne_true
  unfold doCfgCommit
  rw [named_txn open_ named]
  exact if_neg free

theorem doCfgCommit_of_pending (named : t.txid = fld c.desc 16 0 16) (pending : (s.commitOf c.target).isSome) : doCfgCommit c s = refuse c 0x0004 s := by
  simp only [doCfgCommit, named_txn open_ named, pending, if_true, stBusy]

end

/-- On a partition a commit waits, pending, for its point. -/
theorem beginCommit_of_partition {t : Txn} (partition : c.target ≠ 255) : beginCommit c t s = (s.keepRunning c).modPart c.target fun p => { p with
    commit := some ⟨c.running s, t.txid, fld c.desc 18 0 1 == 1, s.clk.tick + 100 * fld c.desc 20 0 32, [], 0⟩ } :=
  if_neg partition

theorem doCfgRead_of_scope (scope : keyScope (fld c.desc 16 0 16) = some (c.target == 255)) (inline_ : fld c.desc 20 0 32 = 0) :
    doCfgRead c s = done c (s.setting c.target (fld c.desc 16 0 16)) s :=
  (if_neg (not_not_intro scope)).trans (if_pos inline_)

theorem doCfgRead_of_other_scope (other : keyScope (fld c.desc 16 0 16) ≠ some (c.target == 255)) : doCfgRead c s = refuse c 0x0303 s := if_pos other

theorem cfgAutoAbort_of_idle {target : Nat} {t : Txn} (open_ : s.txnOf target = some t) (idle : s.commitOf target = none) :
    exec (.cfgAutoAbort target) s = .next ((s.setTxn target none).report 0x000F (pack 32 [(0, 0, 8, 0), (1, 0, 8, target), (2, 0, 16, t.txid)]) 0x000F []) := by
  simp only [exec, execCfgAutoAbort, open_, idle]

/-- The deadline ends a pending commit as aborted; the transaction keeps its settings. -/
theorem cfgCommitDeadline_of_partition {pn : Nat} {p : Partition} {k : Commit} (partition : pn ≠ 255) (part : s.part pn = some p) (commit : p.commit = some k) :
    exec (.cfgCommitDeadline pn) s = .next ((s.modPart pn fun p => { p with commit := none }).finishRun k.cmd 0x0305 (le 4 k.flushed)) := by
  refine (if_neg partition).trans ?_
  simp only [State.endPartCommit, part, Option.bind_some, commit, if_true, stAborted]

theorem cfgCommitDeadline_of_device {k : Commit} (commit : s.cfg.commit = some k) :
    exec (.cfgCommitDeadline 255) s =
      .next ((State.finishRun { s with cfg := { s.cfg with commit := none } } k.cmd 0x0305 (le 4 k.flushed)).releaseHolds false) := by
  have waits : s.cfg.waits = true := by rw [Cfg.waits, commit]; rfl
  simp only [exec, execCfgCommitDeadline, waits, State.failDeviceCommit, State.endDeviceCommit, commit, if_true, stAborted, State.finishRun]

end

/-- Settles O18. -/
theorem configurationRowsComplete : Obligations.ConfigurationRowsComplete := by
  refine ⟨⟨fun c s accepted => ⟨fun none idle => ?_, fun open_ => next_runCmd accepted (doCfgBegin_of_open open_)⟩,
      fun c t s accepted open_ => ⟨fun named idle few scope value => next_runCmd accepted (doCfgSet_of_named open_ named idle few scope value),
        fun other => next_runCmd accepted (doCfgSet_of_other open_ other)⟩,
      fun c s accepted => ⟨fun scope inline_ => next_runCmd accepted (doCfgRead_of_scope scope inline_),
        fun other => next_runCmd accepted (doCfgRead_of_other_scope other)⟩,
      fun c t s accepted open_ named idle => next_runCmd accepted (doCfgAbort_of_named open_ named idle), fun target t s => cfgAutoAbort_of_idle⟩,
    fun c t s accepted open_ named => ⟨fun idle ok nothing => ?_, fun idle ok some partition => ?_, fun st idle fails => ?_,
      fun pending => next_runCmd accepted (doCfgCommit_of_pending open_ named pending)⟩,
    fun pn p k s => cfgCommitDeadline_of_partition, fun k s => cfgCommitDeadline_of_device⟩
  · exact ⟨s.freshNat % 65535 + 1, by omega, by omega, next_runCmd accepted (doCfgBegin_of_none none idle)⟩
  · exact next_runCmd accepted ((doCfgCommit_of_idle open_ named idle).trans (by rw [ok]; exact if_pos nothing))
  · refine next_runCmd accepted ((doCfgCommit_of_idle open_ named idle).trans ?_)
    rw [ok]
    exact (if_neg (ne_true_of_eq_false some)).trans (beginCommit_of_partition partition)
  · exact next_runCmd accepted ((doCfgCommit_of_idle open_ named idle).trans (by rw [fails]))

end Sys2Proof.Machine

/-! # The fold sequencer (R107 to R114, R149, R155, R322) -/
namespace Sys2Proof.Machine

section
variable {s : State} {pn : Nat} {p : Partition}

theorem foldStepTimer_of_paced (part : s.part pn = some p) (paced : s.paces p = true) :
    exec (.foldStepTimer pn) s = if p.step + 1 < p.sched.length then
        .next ((s.setPart pn { p with step := p.step + 1, lead := false }).paceStep pn false false)
      else .next (s.foldBoundary pn) := by
  simp only [exec, execFoldStepTimer, part, paced, if_true]

theorem foldLead_of_paced (part : s.part pn = some p) (paced : s.paces p = true) :
    exec (.foldLead pn) s = .next { s with parts := kput s.parts pn { p with lead := true } } := by
  simp only [exec, execFoldLead, part, paced, if_true, State.setPart]

/-- While the clock runs and is not held, one schedule flit goes to the head of every column. -/
theorem paceStep_of_running {k : FoldStep} {fold step : Bool} (part : s.part pn = some p) (current : p.sched[p.step]? = some k) (runs : p.clockRuns = true)
    (free : p.heldClock = false) : s.paceStep pn fold step = { s with
      rimOut := s.rimOut ++ (List.range p.cols).map fun i => (32 * (p.col0 + i), 0, scheduleFlit (32 * (p.col0 + i)) k.cask fold step) } := by
  simp only [State.paceStep, part, current, runs, free, Bool.not_false, Bool.and_self, if_true]

/-- What a schedule flit taken does to its tile: the switch it names is scheduled and the epochs advance. -/
theorem scheduleClock_of_taken {tile : Nat} {f : Flit} {x : Tile} (found : s.delivered tile isSchedule = some f)
    (taken : s.takeKind tile isSchedule = s.setTile tile x) (owner : s.partOf tile = some pn) (part : s.part pn = some p) (runs : p.clockRuns = true)
    (busy : x.idle = false) (live : s.running = true) :
    exec (.scheduleClock tile) s = .next (s.setTile tile { x.advanceEpochs p.counters (fld f.payload 1 0 1 == 1) (fld f.payload 1 1 1 == 1) with
      switchTo := some (fld f.payload 0 0 8) }) := by
  have here : ((s.setTile tile x).partOf tile).bind (s.setTile tile x).part = some p := by
    change (s.partOf tile).bind s.part = some p
    rw [owner, Option.bind_some, part]
  have live' : (s.setTile tile x).running = true := live
  simp only [exec, execScheduleClock, found, taken, here, runs, setTile_tile, busy, Bool.not_false, live', Bool.and_self, if_true, State.modTile,
    setTile_setTile]

/-- The flit at the head of the delivered ones is the one taken. -/
theorem scheduleClock_of_delivered {tile : Nat} {f : Flit} {rest : List Flit} (delivered : (s.tile tile).eject = f :: rest) (kind : f.kind = 8) (exit : f.exit = 0)
    (owner : s.partOf tile = some pn) (part : s.part pn = some p) (runs : p.clockRuns = true) (busy : (s.tile tile).idle = false) (live : s.running = true) :
    exec (.scheduleClock tile) s = .next (s.setTile tile { ({ s.tile tile with eject := rest }).advanceEpochs p.counters
      (fld f.payload 1 0 1 == 1) (fld f.payload 1 1 1 == 1) with switchTo := some (fld f.payload 0 0 8) }) := by
  have schedule : isSchedule f = true := by simp only [isSchedule, kind, exit, beq_self_eq_true, Bool.and_self]
  have found : s.delivered tile isSchedule = some f := by rw [State.delivered, delivered, List.find?_cons_of_pos schedule]
  have taken : s.takeKind tile isSchedule = s.setTile tile { s.tile tile with eject := rest } := by
    rw [State.takeKind, State.modTile, delivered, List.eraseP_cons_of_pos schedule]
  exact scheduleClock_of_taken found taken owner part runs busy live

theorem caskSwitch_of_scheduled {tile c : Nat} (scheduled : (s.tile tile).switchTo = some c) (busy : (s.tile tile).idle = false) (live : s.running = true) :
    exec (.caskSwitch tile) s = .next (s.setTile tile { s.tile tile with running := c, switchTo := none }) := by
  simp only [exec, execCaskSwitch, scheduled, live, busy, Bool.not_false, Bool.and_self, if_true, State.modTile]

/-- The tiler's choice for the step formed is written into the banks and recorded. -/
theorem tilerDone_of_choice {st : Machine.Step} {h : Shape} {c : Nat × Candidate} (part : s.part pn = some p) (formed : p.formed = some st)
    (shape : p.shape st.stepk = some h) (first : p.tilerDone = false)
    (choice : chooseCandidate st.b st.s p.man.heads ((p.cands.zipIdx.map fun e => (e.2, e.1)).filter fun e => e.2.stepk == st.stepk) = some c) :
    exec (.tilerDone pn) s = .next ((s.modActive p fun k => k.writeBank
      (tilingEntry c.2 (ceilDiv (shapeM h st.b st.s) (max 1 h.splitM)) (ceilDiv (shapeN h p.man.heads) (max 1 h.splitN)))).setPart pn
      { p with
        tilerDone := true
        formed := some { st with choice := some (c.1, ceilDiv (shapeM h st.b st.s) (max 1 h.splitM), ceilDiv (shapeN h p.man.heads) (max 1 h.splitN)) } }) := by
  simp only [exec, execTilerDone, part, formed, Option.bind_some, shape, first, Bool.false_eq_true, if_false, choice]

theorem partitionRestart_of_stopped (part : s.part pn = some p) (done : p.stopDone = true) (good : p.faulted = false) (free : p.trapHold = false)
    (linked : s.linkFailed = false) (live : s.running = true) : exec (.partitionRestart pn) s = .next (s.restartPart pn) := by
  simp only [exec, execPartitionRestart, part, done, good, free, linked, live, Bool.not_false, Bool.true_or, Bool.and_self, if_true]

end

/-- Settles O19. -/
theorem foldSequencerRowsComplete : Obligations.FoldSequencerRowsComplete := by
  refine ⟨fun pn p s part paced => ⟨fun more => ?_, fun last => ?_, foldLead_of_paced part paced⟩, fun pn fold step p k s => paceStep_of_running, ?_,
    fun tile c s scheduled busy dev clocks => caskSwitch_of_scheduled scheduled busy (running_of dev clocks),
    fun pn p st h c s part formed shape first choice => ⟨_, _, rfl, rfl, tilerDone_of_choice part formed shape first choice⟩,
    fun pn p s part done good free linked dev clocks => partitionRestart_of_stopped part done good free linked (running_of dev clocks)⟩
  · exact (foldStepTimer_of_paced part paced).trans (if_pos more)
  · exact (foldStepTimer_of_paced part paced).trans (if_neg (Nat.not_lt.mpr last))
  · intro tile pn f rest p s delivered kind exit owner part runs busy dev clocks
    refine ⟨_, scheduleClock_of_delivered delivered kind exit owner part runs busy (running_of dev clocks), ?_, ?_, ?_, rfl,
      fun u other => setTile_tile_ne _ _ _ _ other⟩ <;> rw [setTile_tile]
    rfl

/-! # Reports and stops (R54 to R60, R91, R92, R113, R128, R129) -/

/-- A flit taken at the rim changes links alone. -/
theorem takeRim_links (s : State) (t exit : Nat) (k : Flit → Bool) : s.takeRim t exit k = { s with links := (s.takeRim t exit k).links } := by
  unfold State.takeRim
  split <;> rfl

/-- A partition that exists, changed. -/
theorem part_modPart {s : State} {pn : Nat} {p : Partition} (f : Partition → Partition) (part : s.part pn = some p) :
    (s.modPart pn f).part pn = some (f p) := by
  rw [State.part, State.modPart]
  exact (congrArg (kget · pn) (kmod_of_some f part)).trans (kget_kput ..)

/-- A record and its notice touch no partition. -/
theorem report_parts (s : State) (rtype : Nat) (body : Bytes) (code : Nat) (result : Bytes) : (s.report rtype body code result).parts = s.parts := by
  have staged : RecorderOnly s (s.stage rtype body) := stageGroup_recorderOnly ..
  have noticed := notice_mailboxOnly (s.stage rtype body) code (evseqOf s (s.stage rtype body)) result
  unfold State.report
  dsimp only
  rw [show ((s.stage rtype body).notice code (evseqOf s (s.stage rtype body)) result).parts = (s.stage rtype body).parts by rw [noticed]]
  rw [staged]

section
variable {s : State} {pn : Nat} {p : Partition}

theorem arrive_of_reported {l : List Report} (reported : ∀ r ∈ l, s.reported r = true) :
    s.arrive pn l = (l.filter Report.isMemory).foldl State.memoryError ((l.foldl State.takeReport s).takeReports pn l) := by
  simp only [State.arrive, List.filter_eq_self.mpr reported]

/-- The report of a tile outside every partition stops no clock. -/
theorem memoryError_of_no_part {tile cask store addr syn : Nat} {scrub : Bool} (none_ : s.partOf tile = none) :
    s.memoryError (.memory tile cask store addr syn scrub) = s.report 0x0004 (memoryRecord tile cask store addr syn scrub none s.clk.tick) 0x0003
      ((memoryRecord tile cask store addr syn scrub none s.clk.tick).take 16) := by
  simp only [State.memoryError, none_]

theorem memoryError_of_part {tile cask store addr syn : Nat} {scrub : Bool} (owner : s.partOf tile = some pn) :
    s.memoryError (.memory tile cask store addr syn scrub) =
      (((s.modPart pn fun p => { p with lastMem := some (memoryRecord tile cask store addr syn scrub (some pn) s.clk.tick) }).report 0x0004
        (memoryRecord tile cask store addr syn scrub (some pn) s.clk.tick) 0x0003
        ((memoryRecord tile cask store addr syn scrub (some pn) s.clk.tick).take 16)).stopClock pn).abortStep pn := by
  simp only [State.memoryError, owner]

/-- The report of one tile more joins those of the stopping partition. -/
theorem tileIdleReport_of_new {tile : Nat} {l : List Nat} (part : s.part pn = some p) (stopping : p.idled = some l) (owns : p.owns tile = true)
    (new : tile ∉ l) (there : (s.atRim tile 1 (isReport8 1)).isSome = true) :
    exec (.tileIdleReport pn tile) s = .next (if 32 * p.cols ≤ l.length + 1 then
        (State.finishStop { s.takeRim tile 1 (isReport8 1) with parts := kput s.parts pn { p with idled := some (l ++ [tile]) } } pn).settleDevice none
      else { s.takeRim tile 1 (isReport8 1) with parts := kput s.parts pn { p with idled := some (l ++ [tile]) } }) := by
  have parts : (s.takeRim tile 1 (isReport8 1)).parts = s.parts := by rw [takeRim_links]
  have same : (s.takeRim tile 1 (isReport8 1)).part pn = some p := by rw [State.part, parts]; exact part
  have unlisted : l.contains tile = false := by simpa using new
  simp only [exec, execTileIdleReport, there, if_true, same, stopping, owns, unlisted, and_self, State.setPart, parts, Partition.stopDone, List.length_append,
    List.length_singleton, decide_eq_true_eq]

theorem stepEndReport_of_new {tile : Nat} (part : s.part pn = some p) (owns : p.owns tile = true) (step : p.cur.isSome) (new : tile ∉ p.stepEnds)
    (there : (s.atRim tile 1 (isReport8 0)).isSome = true) :
    exec (.stepEndReport pn tile) s =
      .next { s.takeRim tile 1 (isReport8 0) with parts := kput s.parts pn { p with stepEnds := p.stepEnds ++ [tile] } } := by
  have parts : (s.takeRim tile 1 (isReport8 0)).parts = s.parts := by rw [takeRim_links]
  have same : (s.takeRim tile 1 (isReport8 0)).part pn = some p := by rw [State.part, parts]; exact part
  have unlisted : p.stepEnds.contains tile = false := by simpa using new
  simp only [exec, execStepEndReport, there, if_true, same, owns, step, unlisted, and_self, State.setPart, parts]

theorem tileScrub_of_running {tile : Nat} {errs : List WordErr} (aux : s.life.aux = true) (on : s.life.waiting = false) (clocks : s.pwr.stopped = false) :
    exec (.tileScrub tile errs) s =
      .next ((s.setTile tile (s.tile tile).scrubNext).readStores tile (s.tile tile).running true [(s.tile tile).scrubRange] errs).2 := by
  simp only [exec, execTileScrub, aux, on, clocks, Bool.not_false, Bool.and_self, if_true]

/-- A complete stop of a trap writes the trap record as the partition's last and clears the capture. -/
theorem finishStop_of_trap {tile cask src uop unit orow ocol work further round : Nat} (part : s.part pn = some p)
    (capture : p.capture = some ⟨.trap tile cask src uop unit orow ocol work, further, round⟩) :
    (s.finishStop pn).part pn = some { p with
      capture := none, lastTrap := some (trapRecord tile cask src uop unit orow ocol work round pn further s.clk.tick) } := by
  have cleared : (s.modPart pn fun p => { p with capture := none }).part pn = some { p with capture := none } :=
    part_modPart _ part
  unfold State.finishStop
  simp only [part, capture]
  rw [State.part, report_parts]
  exact part_modPart _ cleared

end

/-- Settles O20. -/
theorem stopAndReportRowsComplete : Obligations.StopAndReportRowsComplete := by
  refine ⟨⟨fun pn l s reported => ⟨congrArg _ (arrive_of_reported reported), congrArg _ (arrive_of_reported reported)⟩, ?_, ?_, ?_,
    fun pn tile s none_ => if_neg (by simp [none_]), fun pn tile s none_ => if_neg (by simp [none_]), ?_,
    fun tile cask scrub rs errs x s => readStores_of_good⟩, ?_⟩
  · rintro tile cask store addr syn scrub s u reported rfl
    have only : s.takeReport (.memory tile cask store addr syn scrub) = { s with links := (s.takeReport (.memory tile cask store addr syn scrub)).links } :=
      takeRim_links ..
    have owner : (s.takeReport (.memory tile cask store addr syn scrub)).partOf tile = s.partOf tile := by rw [only]; rfl
    have tick : (s.takeReport (.memory tile cask store addr syn scrub)).clk = s.clk := by rw [only]
    have run : exec (.memoryErrorReport tile cask store addr syn scrub) s =
        .next ((s.takeReport (.memory tile cask store addr syn scrub)).memoryError (.memory tile cask store addr syn scrub)) := if_pos reported
    rw [run]
    exact ⟨fun none_ => by rw [memoryError_of_no_part (owner.trans none_), tick],
      fun n part => ⟨_, rfl, by rw [memoryError_of_part (owner.trans part), tick]⟩⟩
  · rintro pn tile p l s u part stopping owns new there rfl
    rw [tileIdleReport_of_new part stopping owns new there]
    exact ⟨fun more => by rw [if_neg (Nat.not_le.mpr more)], fun last => by rw [if_pos last]⟩
  · rintro pn tile p s u part owns step new there rfl
    exact stepEndReport_of_new part owns step new there
  · rintro tile errs x s aux on clocks rfl
    exact tileScrub_of_running aux on clocks
  · intro s pn tile cask src uop unit orow ocol work further round p part capture
    exact ⟨_, finishStop_of_trap part capture, rfl, rfl, rfl⟩

end Sys2Proof.Machine

/-! # The press, the vat and the shaper (R39 to R52, R63 to R68) -/
namespace Sys2Proof.Machine

/-- Without a disturbance no check fails. -/
@[simp] theorem caught_none (st : Stage) (i w : Nat) (v : Int) : caught none st i w v = false := rfl

section
variable {s : State} {t c u r o ac : Nat} {errs : List WordErr}

/-! ## The press -/

theorem pressOperation_of_inside {m k0 n : Nat} {a b : OpRef} {ups : Option Upset} {img : Bytes} {x : Tile} (runs : s.opRuns t c u 0x00 0x1F = true)
    (image : s.image t c = some img) (vat : inVat img m = true) (windows : rangesInside img (pressRanges a b k0 n) = true)
    (noted : (s.tile t).noteErrs (pressRanges a b k0 n) errs = x) (good : x.badIn (pressRanges a b k0 n) = []) :
    exec (.pressOperation t c u m r o ac a b k0 n ups errs) s =
      .next (s.setTile t { x with pipe := x.pipe ++ [pressOp (x.accX m) c u m r o ac (x.lanes a b k0 n) ups] }) := by
  simp only [exec, execPressOperation, runs, image, vat, windows, Bool.and_self, if_true, State.pressRead, readStores_of_good noted good, State.modTile,
    setTile_tile, setTile_setTile]

/-- Outside the windows the operation is the graph fault of cause 7. -/
theorem pressOperation_of_outside {m k0 n : Nat} {a b : OpRef} {ups : Option Upset} {img : Bytes} (runs : s.opRuns t c u 0x00 0x1F = true)
    (image : s.image t c = some img) (outside : inVat img m = false ∨ rangesInside img (pressRanges a b k0 n) = false) :
    exec (.pressOperation t c u m r o ac a b k0 n ups errs) s = .next (s.uopFault t c 7 u) := by
  have refused : (inVat img m && rangesInside img (pressRanges a b k0 n)) = false := Bool.and_eq_false_iff.mpr outside
  simp only [exec, execPressOperation, runs, image, refused, if_true, Bool.false_eq_true, if_false]

/-- The oldest operation of the pipeline, its checks passed and its vat words good, writes the vat. -/
theorem pressVatWrite_of_good {op : PressOp} {rest : List PressOp} {x : Tile} (pipe : (s.tile t).pipe = op :: rest) (sound : op.bad = false)
    (adder : op.adderBad (s.tile t) = false) (noted : ({ s.tile t with pipe := rest }).noteErrs (vatRanges [op.mt]) errs = x)
    (good : x.badIn (vatRanges [op.mt]) = []) : exec (.pressVatWrite t ac errs) s =
      .next ((State.becameNar (s.setTile t (op.write x)) t op.cask op.uop op.orow op.ocol ac (op.nars x)).idleReport t) := by
  have left : ((s.setTile t { s.tile t with pipe := rest }).tile t).noteErrs (vatRanges [op.mt]) errs = x := by rw [setTile_tile, noted]
  simp only [exec, execPressVatWrite, State.pressWrite, pipe, sound, adder, Bool.false_eq_true, if_false, State.modTile, readStores_of_good left good, if_true,
    setTile_tile, setTile_setTile]

theorem vatClear_of_ready {ms : List Nat} {x : Int} {img : Bytes} {k : CaskCtx} (runs : s.classRuns t c 0x20 0x2F = true) (image : s.image t c = some img)
    (resident : (s.tile t).cask c = some k) (ready : ∀ m ∈ ms, (s.tile t).pressPending m = false ∧ inVat img m = true) :
    exec (.vatClear t c ms x) s = .next (s.setTile t ((s.tile t).vatClear ms (k.clearX (k.issued.getD 0) x))) := by
  have written : (ms.all fun m => !(s.tile t).pressPending m) = true := List.all_eq_true.mpr fun m member => by rw [(ready m member).1]; rfl
  have inside : ms.all (inVat img) = true := List.all_eq_true.mpr fun m member => (ready m member).2
  simp only [exec, execVatClear, runs, written, and_self, if_true, image, resident, inside, State.modTile]

/-! ## Conversion, shaper and scale finder -/

theorem conversionDrain_of_inside {f : Nat} {src : DrainSrc} {ups : Option Upset} {x : Tile} (runs : s.opRuns t c u 0x30 0x3F = true)
    (ready : s.vatReady t src.accs = true) (inside : s.drainInside t c src = true) (noted : (s.tile t).noteErrs src.ranges errs = x)
    (good : x.badIn src.ranges = []) :
    exec (.conversionDrain t c u r o src f ac ups errs) s = .next ((s.setTile t x).convert t c u r o ac f src ups) := by
  simp only [exec, execConversionDrain, runs, ready, and_self, if_true, inside, readStores_of_good noted good]

theorem conversionDrain_of_outside {f : Nat} {src : DrainSrc} {ups : Option Upset} (runs : s.opRuns t c u 0x30 0x3F = true)
    (ready : s.vatReady t src.accs = true) (outside : s.drainInside t c src = false) :
    exec (.conversionDrain t c u r o src f ac ups errs) s = .next (s.uopFault t c 7 u) := by
  simp only [exec, execConversionDrain, runs, ready, and_self, if_true, outside, Bool.false_eq_true, if_false]

theorem shaperFunction_of_inside {f g : Nat} {fn : ShaperFn} {dst : ShaperDst} {ups : Option Upset} (runs : s.opRuns t c u 0x40 0x5F = true)
    (ready : s.vatReady t dst.accs = true) (inside : s.vatInside t c dst.accs = true) :
    exec (.shaperFunction t c u r o fn f g dst ac ups) s = .next (s.shape t c u r o ac g dst ups (((s.tile t).inputsOf c).map (shapeOne fn f g))
      ((s.tile t).shaperIn.filter fun v => v.1 != c)) := by
  simp only [exec, execShaperFunction, runs, ready, and_self, if_true, inside]

/-- SMX takes a row of the inputs that wait. -/
theorem smx_of_inside {n f g : Nat} {dst : ShaperDst} {ups : Option Upset} (runs : s.opRuns t c u 0x40 0x5F = true) (ready : s.vatReady t dst.accs = true)
    (inside : s.vatInside t c dst.accs = true) (some : 1 ≤ n) (most : n ≤ 65536) (wait : n ≤ ((s.tile t).inputsOf c).length) :
    exec (.smx t c u r o n f g dst ac ups) s = .next (State.shape { s with free := s.free + n } t c u r o ac g dst ups
      (s.smxRow (((s.tile t).inputsOf c).take n) f g ups) (dropOf c n (s.tile t).shaperIn)) :=
  (if_pos ⟨runs, ready, some, most, wait⟩).trans (if_pos inside)

/-- A scale-finder drain inside the windows, undisturbed and with every word good, stores its requantised block. -/
theorem scaleFinderDrain_of_inside {fmt ca sa : Nat} {src : DrainSrc} {stoch : Bool} {img : Bytes} {x : Tile} (runs : s.opRuns t c u 0x30 0x3F = true)
    (ready : s.vatReady t src.accs = true) (image : s.image t c = some img) (inside : s.drainInside t c src = true)
    (codes : inWindow img ca (blockBytes fmt ((s.tile t).sfInputs c src).1.length) = true) (scale : inWindow img sa 2 = true)
    (noted : (s.tile t).noteErrs src.ranges errs = x) (good : x.badIn src.ranges = []) :
    exec (.scaleFinderDrain t c u r o src fmt stoch ca sa ac none errs) s = .next ((s.setTile t x).sfStore t c u r o ac fmt src ca sa (x.sfInputs c src).1
      (requantise fmt (x.sfInputs c src).2 ((x.sfInputs c src).1.map Prod.snd) stoch none x.gen)) := by
  have checked : ((x.sfInputs c src).1.zipIdx.any fun v => caught none .sfQuotient v.2 64 (v.1.2.getD 0)) = false := by simp
  simp only [exec, execScaleFinderDrain, runs, ready, and_self, if_true, image, inside, codes, scale, Bool.and_self, readStores_of_good noted good, State.sfDrain,
    setTile_tile, checked, Bool.false_eq_true, if_false]

end

/-- Settles O21. -/
theorem pressAndShaperRowsComplete : Obligations.PressAndShaperRowsComplete := by
  refine ⟨⟨fun t c u m r o ac k0 n a b ups errs img x s runs image => ⟨pressOperation_of_inside runs image, pressOperation_of_outside runs image⟩,
      fun t ac errs op rest x s => pressVatWrite_of_good, fun t c ms x img k s => vatClear_of_ready⟩,
    fun t c u r o f ac src ups errs x s runs ready => ⟨conversionDrain_of_inside runs ready, conversionDrain_of_outside runs ready⟩,
    fun t c u r o f g ac fn dst ups s => shaperFunction_of_inside, fun t c u r o n f g ac dst ups s => smx_of_inside,
    fun t c u r o fmt ca sa ac src stoch errs img x s => scaleFinderDrain_of_inside⟩

end Sys2Proof.Machine

/-! # Cask slots and the commands of a partition (Table 4.10, R98, R121, R321, R322, R328 to R330) -/
namespace Sys2Proof.Machine

/-! ## Bytes of a number -/

theorem le_take (k n v : Nat) (fits : k ≤ n) : (le n v).take k = le k v := by
  induction k generalizing n v with
  | zero => rfl
  | succ k ih =>
    cases n with
    | zero => omega
    | succ n => simp only [le, List.take_succ_cons, ih n (v / 256) (by omega)]

theorem ofLe_le (n v : Nat) : ofLe (le n v) = v % 256 ^ n := by
  induction n generalizing v with
  | zero => simp [le, ofLe, Nat.mod_one]
  | succ n ih =>
    rw [le, ofLe, ih, Nat.pow_succ', Nat.mod_mul]
    rfl

/-- The low 32 bits of a number of bytes, as its first field. -/
theorem fld_le_low32 (n v : Nat) (fits : 4 ≤ n) : fld (le n v) 0 0 32 = v % 2 ^ 32 := by
  have first : slice (le n v) 0 4 = le 4 v := by rw [slice, List.drop_zero, le_take 4 n v fits]
  have low : fld (le n v) 0 0 32 = ofLe (slice (le n v) 0 4) / 2 ^ 0 % 2 ^ 32 := rfl
  rw [low, first, ofLe_le]
  omega

/-- A first field of 32 bits reads back, whatever one field above it holds. -/
theorem fld_pack_low32 (n a o l w v : Nat) (fits : 4 ≤ n) (above : 32 ≤ 8 * o + l) : fld (pack n [(0, 0, 32, a), (o, l, w, v)]) 0 0 32 = a % 2 ^ 32 := by
  have number : pack n [(0, 0, 32, a), (o, l, w, v)] = le n (0 + a % 2 ^ 32 * 2 ^ (8 * 0 + 0) + v % 2 ^ w * 2 ^ (8 * o + l)) := rfl
  have high : v % 2 ^ w * 2 ^ (8 * o + l) = v % 2 ^ w * 2 ^ (8 * o + l - 32) * 2 ^ 32 := by
    rw [Nat.mul_assoc, ← Nat.pow_add, Nat.sub_add_cancel above]
  rw [number, fld_le_low32 n _ fits, high, Nat.add_mul_mod_self_right, Nat.zero_add, Nat.mul_zero, Nat.add_zero, Nat.pow_zero, Nat.mul_one, Nat.mod_mod]

/-! ## Cask slots -/

section
variable {c : Cmd} {s : State} {p : Partition}

theorem doCaskLoad_of_free {b : Bytes} {l : List Img} {t : State} (part : s.part c.target = some p) (free : slotBusy (p.slotAt (fld c.desc 28 0 2)) = none)
    (read : s.readBytes .firmware (fld c.desc 16 0 48) (fld c.desc 24 0 32) = (some b, t))
    (section_ : t.sectionImages p (fld c.desc 28 0 2) (fld c.desc 24 0 32) b = .inr l) : doCaskLoad c s = beginCaskLoad c p (fld c.desc 28 0 2) l t := by
  simp only [doCaskLoad, part, free, read, section_]

theorem doCaskEvict_of_free (part : s.part c.target = some p) (free : slotBusy (p.slotAt (fld c.desc 28 0 2)) = none) :
    doCaskEvict c s = done c [] (if (p.slotAt (fld c.desc 28 0 2)).st = .empty then s else s.emptySlot c.target (fld c.desc 28 0 2)) := by
  simp only [doCaskEvict, part, free]

/-- A slot in use, or one not drained, refuses both. -/
theorem caskCommands_of_busy {st : Nat} (part : s.part c.target = some p) (busy : slotBusy (p.slotAt (fld c.desc 28 0 2)) = some st) :
    doCaskLoad c s = refuse c st s ∧ doCaskEvict c s = refuse c st s := by
  constructor
  · simp only [doCaskLoad, part, busy]
  · simp only [doCaskEvict, part, busy]

end

section
variable {pn slot tidx line n nx : Nat} {d : Bytes} {p : Partition} {j : CaskJob} {s : State}
variable (part : s.part pn = some p) (job : p.caskJob = some j) (here : j.slot = slot) (lines : kget j.lines tidx = some (nx, n))
include part job here lines

theorem caskImageLineWrite_clean : exec (.caskImageLineWrite pn slot tidx line d .clean) s = .next (s.writeLine pn p j tidx line d) := by
  simp only [exec, execCaskImageLineWrite, part, job, here, lines, Option.isSome_some, and_self, if_true, Bool.false_eq_true, if_false]

theorem caskImageLineWrite_uncorrectable (syn : Nat) : exec (.caskImageLineWrite pn slot tidx line d (.uncorrectable syn)) s = .next (s.caskFailed pn j) := by
  simp only [exec, execCaskImageLineWrite, part, job, here, lines, Option.isSome_some, and_self, if_true]

end

/-! ## The other commands of a partition -/

section
variable {c : Cmd} {s : State} {p : Partition} (part : s.part c.target = some p)
include part

theorem doPartResume_of_stopped (good : p.faulted = false) (stopped : p.st = .stopped) (complete : p.stopDone = true) (linked : s.linkFailed = false) :
    doPartResume c s = done c [] (s.restartPart c.target) := by
  simp only [doPartResume, part, good, stopped, complete, linked, Bool.false_eq_true, if_false, ne_eq, not_true, Bool.true_eq_false, or_self]

theorem doPartResume_of_faulted (faulted : p.faulted = true) : doPartResume c s = refuse c 0x0009 s := by
  simp only [doPartResume, part, faulted, if_true, stPartFaulted]

theorem doPartResume_of_running (good : p.faulted = false) (runs : p.st ≠ .stopped) : doPartResume c s = refuse c 0x0008 s := by
  simp only [doPartResume, part, good, Bool.false_eq_true, if_false, ne_eq, runs, not_false_eq_true, true_or, if_true, stNotStopped]

theorem doPartQuery_of_part : doPartQuery c s = done c (partReport p) s := by
  simp only [doPartQuery, part]

/-- An inspection of a stopped partition writes the bytes asked for; RESULT begins with their count. -/
theorem doPartInspect_of_stopped (stopped : p.st = .stopped) : ∃ r, doPartInspect c s = doneBuffer c
      (inspectBytes (s.tile (fld c.desc 18 0 11)) p (fld c.desc 16 0 3) (fld c.desc 17 0 2) (fld c.desc 20 0 20) (fld c.desc 24 0 32)) r s
    ∧ fld r 0 0 32 = (inspectBytes (s.tile (fld c.desc 18 0 11)) p (fld c.desc 16 0 3) (fld c.desc 17 0 2) (fld c.desc 20 0 20) (fld c.desc 24 0 32)).length % 2 ^ 32 := by
  simp only [doPartInspect, part, stopped, ne_eq, not_true, if_false]
  exact ⟨_, rfl, fld_pack_low32 _ _ _ _ _ _ (by omega) (by omega)⟩

theorem doPartInspect_of_running (runs : p.st ≠ .stopped) : doPartInspect c s = refuse c 0x0008 s := by
  simp only [doPartInspect, part, ne_eq, runs, not_false_eq_true, if_true, stNotStopped]

end

/-- Settles O17. -/
theorem caskAndPartitionCommandsComplete : Obligations.CaskAndPartitionCommandsComplete := by
  refine ⟨⟨fun c p b l s t accepted part free read section_ => next_runCmd accepted (doCaskLoad_of_free part free read section_),
      fun c p s accepted part free => next_runCmd accepted (doCaskEvict_of_free part free), fun c p s st part busy => ?_,
      fun pn slot tidx line n nx d p j s part job here lines => ⟨fun _ _ => caskImageLineWrite_clean part job here lines,
        caskImageLineWrite_uncorrectable part job here lines⟩, fun x => rfl⟩,
    fun c s accepted => next_runCmd accepted rfl,
    fun c p s accepted part => ⟨fun good stopped complete linked => next_runCmd accepted (doPartResume_of_stopped part good stopped complete linked),
      fun faulted => next_runCmd accepted (doPartResume_of_faulted part faulted), fun good runs => next_runCmd accepted (doPartResume_of_running part good runs)⟩,
    fun c p s accepted part => next_runCmd accepted (doPartQuery_of_part part),
    fun c p s accepted part => ⟨fun stopped _ => ?_, fun runs => next_runCmd accepted (doPartInspect_of_running part runs)⟩⟩
  · obtain ⟨load, evict⟩ := caskCommands_of_busy part busy
    exact ⟨fun accepted => next_runCmd accepted load, fun accepted => next_runCmd accepted evict⟩
  · obtain ⟨r, inspects, counted⟩ := doPartInspect_of_stopped part stopped
    exact ⟨_, r, next_runCmd accepted inspects, rfl, counted⟩

end Sys2Proof.Machine

/-! # Loading, swapping and unloading a cuvée (R158, R159, R234, R329, R393) -/
namespace Sys2Proof.Machine

/-! ## What leaves the partitions as they are -/

theorem allotCounters_parts (s : State) (used : List Nat) (ds : List (At CtrDecl)) (i : Nat) : (s.allotCounters used ds i).2.parts = s.parts := by
  induction ds generalizing s used i with
  | nil => rfl
  | cons d ds ih => exact ih s.used _ _

theorem chooseList_parts (s : State) (bound : Nat) (used : List Nat) (n : Nat) : (s.chooseList bound used n).2.parts = s.parts := by
  induction n generalizing s used with
  | zero => rfl
  | succ n ih => exact ih s.used _

theorem mapUnit_parts (s : State) (tier : Nat) (noPromo : Bool) (u : Nat) : (s.mapUnit tier noPromo u).parts = s.parts := by
  unfold State.mapUnit
  split <;> rfl

theorem backAll_parts {s t : State} {cellar l : List Nat} (backed : s.backAll cellar l = some t) : t.parts = s.parts := by
  induction l generalizing s with
  | nil => cases backed; rfl
  | cons u l ih =>
    unfold State.backAll at backed
    dsimp only at backed
    split_ifs at backed
    · exact ih backed
    all_goals exact (ih backed).trans (mapUnit_parts ..)

theorem reserveUnits_parts (s : State) (v : Cuvee) (left : List Nat) : (s.reserveUnits v left).2.parts = s.parts := by
  unfold State.reserveUnits
  split
  case h_1 t backed => exact backAll_parts backed
  case h_2 => rfl

theorem keepRunning_parts_life (s : State) (c : Cmd) : (s.keepRunning c).parts = s.parts ∧ (s.keepRunning c).life = s.life := by
  unfold State.keepRunning
  split_ifs <;> exact ⟨rfl, rfl⟩

theorem modCask_parts (s : State) (t c : Nat) (f : CaskCtx → CaskCtx) : (s.modCask t c f).parts = s.parts := by
  unfold State.modCask
  split <;> rfl

theorem modTiles_parts (s : State) (ts : List Nat) (f : Nat → Tile → Tile) : (s.modTiles ts f).parts = s.parts :=
  foldl_keeps State.parts (fun s t => s.modTile t (f t)) (fun _ _ => rfl) ts s

theorem placePreload_parts (s : State) (col0 : Nat) (x : Preload) : (s.placePreload col0 x).parts = s.parts := by
  unfold State.placePreload
  dsimp only
  split
  · rw [modCask_parts]
    refine (foldl_keeps State.parts _ ?_ _ _).trans (modCask_parts ..)
    exact fun _ _ => rfl
  · rfl

theorem armCounter_parts (s : State) (p : Partition) (c : CounterUse) : (s.armCounter p c).parts = s.parts := modTiles_parts ..

theorem finishRun_parts (s : State) (r : Running) (st : Nat) (result : Bytes) : (s.finishRun r st result).parts = s.parts := by
  have only := finish_mailboxOnly s r.src r.cid r.opcode r.cls st 0xFFFFFFFF result
  rw [State.finishRun, State.finishRec, only]

/-! ## The load and its commands -/

/-- A load begun: the partition just created, its journal entry and its command in progress. -/
theorem beginLoad_spec (c : Cmd) (v : Cuvee) (image slot col0 : Nat) (s : State) : ∃ (ctrs : List CounterUse) (share pins : List Nat) (j : LoadJob),
    (beginLoad c v image slot col0 s).part c.target = some (newPartition v slot col0 ctrs share pins j)
    ∧ j.image = image ∧ j.swap = false ∧ j.unload = false ∧ j.emptied = true
    ∧ (∃ e ∈ (beginLoad c v image slot col0 s).life.journal, e.part = c.target ∧ e.image = image ∧ e.opcode = 0x0201)
    ∧ (∃ r ∈ (beginLoad c v image slot col0 s).tmi.running, r.src = c.src ∧ r.cid = c.cid ∧ r.opcode = c.op) := by
  have shape : ∃ (t : State) (ctrs : List CounterUse) (share pins : List Nat) (j : LoadJob), beginLoad c v image slot col0 s
      = ((t.setPart c.target (newPartition v slot col0 ctrs share pins j)).addJournal ⟨c.target, slot, 0x0201, image⟩).keepRunning c
      ∧ j.image = image ∧ j.swap = false ∧ j.unload = false ∧ j.emptied = true := ⟨_, _, _, _, _, rfl, rfl, rfl, rfl, rfl⟩
  obtain ⟨t, ctrs, share, pins, j, shape, image_, swap, unload, emptied⟩ := shape
  have kept := keepRunning_parts_life ((t.setPart c.target (newPartition v slot col0 ctrs share pins j)).addJournal ⟨c.target, slot, 0x0201, image⟩) c
  rw [shape]
  refine ⟨ctrs, share, pins, j, ?_, image_, swap, unload, emptied, ?_, keepRunning_lists ..⟩
  · rw [State.part, kept.1]
    exact kget_kput ..
  · rw [kept.2]
    exact ⟨_, List.mem_append_right _ (List.mem_singleton_self _), rfl, rfl, rfl⟩

/-- A drain begun: the partition is SWAPPING under its job, the command is in progress. -/
theorem beginDrain_spec {s : State} {c : Cmd} {p : Partition} (job : LoadJob) (part : s.part c.target = some p) :
    (s.beginDrain c job).part c.target = some { p with st := .swapping, job := some job }
    ∧ ∃ r ∈ (s.beginDrain c job).tmi.running, r.src = c.src ∧ r.cid = c.cid ∧ r.opcode = c.op := by
  refine ⟨?_, keepRunning_lists ..⟩
  rw [State.beginDrain, State.part, (keepRunning_parts_life _ c).1]
  exact part_modPart _ part

/-- A swap accepted begins the drain of the partition under a job that names its image. -/
theorem beginSwap_spec {s : State} {c : Cmd} {p : Partition} (v : Cuvee) (part : s.part c.target = some p) : ∃ j : LoadJob,
    (beginSwap c v p s).part c.target = some { p with st := .swapping, job := some j }
    ∧ j.image = fld c.desc 16 0 48 ∧ j.swap = true ∧ j.drainLeft = fld c.desc 24 0 16 ∧ j.kvkeep = (fld c.desc 26 0 1 == 1) ∧ j.writing = false ∧ j.emptied = false
    ∧ (∃ r ∈ (beginSwap c v p s).tmi.running, r.src = c.src ∧ r.cid = c.cid ∧ r.opcode = c.op) := by
  have shape : ∃ (t : State) (j : LoadJob), beginSwap c v p s = t.beginDrain c j ∧ t.parts = s.parts
      ∧ j.image = fld c.desc 16 0 48 ∧ j.swap = true ∧ j.drainLeft = fld c.desc 24 0 16 ∧ j.kvkeep = (fld c.desc 26 0 1 == 1) ∧ j.writing = false ∧ j.emptied = false :=
    ⟨_, _, rfl, (reserveUnits_parts ..).trans ((chooseList_parts ..).trans (allotCounters_parts ..)), rfl, rfl, rfl, rfl, rfl, rfl⟩
  obtain ⟨t, j, shape, parts, fields⟩ := shape
  have there : t.part c.target = some p := by rw [State.part, parts]; exact part
  obtain ⟨drains, lists⟩ := beginDrain_spec j there
  rw [shape]
  obtain ⟨image, swap, left, keep, writing, emptied⟩ := fields
  exact ⟨j, drains, image, swap, left, keep, writing, emptied, lists⟩

section
variable {c : Cmd} {v : Cuvee} {s t : State}

theorem doCuveeLoad_of_read (read : s.readCuvee (fld c.desc 16 0 48) = (.ok v, t)) :
    (v.checks t none (fld c.desc 25 0 6) (fld c.desc 24 0 6) = none → doCuveeLoad c s = beginLoad c v (fld c.desc 16 0 48) (fld c.desc 24 0 6) (fld c.desc 25 0 6) t)
    ∧ ∀ f, v.checks t none (fld c.desc 25 0 6) (fld c.desc 24 0 6) = some f → doCuveeLoad c s = refuseLoad c f t := by
  refine ⟨fun passes => ?_, fun f fails => ?_⟩
  · simp only [doCuveeLoad, read, passes]
  · simp only [doCuveeLoad, read, fails]

theorem doCuveeSwap_of_read {p : Partition} (part : s.part c.target = some p) (good : p.faulted = false)
    (read : s.readCuvee (fld c.desc 16 0 48) = (.ok v, t)) (passes : v.checks t (some c.target) p.col0 p.slot = none) :
    doCuveeSwap c s = if fld c.desc 26 0 1 = 1 ∧ geometryDiffers v p = true then refuse c 0x0117 t else beginSwap c v p t := by
  simp only [doCuveeSwap, part, good, Bool.false_eq_true, if_false, read, passes, stGeometry]

theorem doCuveeUnload_of_part {p : Partition} (part : s.part c.target = some p) (good : p.faulted = false) :
    doCuveeUnload c s = State.keepRunning { s with parts := kput s.parts c.target { p with
      st := .swapping
      job := some ⟨c.running s, 0, fld c.desc 24 0 16, false, true, false, false, false, none, [], [], 0⟩ } } c := by
  simp only [doCuveeUnload, part, good, Bool.false_eq_true, if_false, State.beginDrain, State.modPart, kmod_of_some _ part]

end

/-! ## The completion of a load -/

section
variable {pn : Nat} {p q : Partition} {j : LoadJob} {v : Cuvee} {s t a b d w u z : State}

theorem loadCompletion_of_failed (live : s.running = true) (part : s.part pn = some p) (job : p.job = some j) (emptied : j.emptied = true)
    (load : j.unload = false) : exec (.loadCompletion pn false) s = .next (s.loadFailed pn j) := by
  simp only [exec, execLoadCompletion, part, job, live, emptied, load, Bool.not_false, Bool.and_self, if_true, Bool.false_eq_true, if_false]

theorem loadCompletion_of_read (live : s.running = true) (part : s.part pn = some p) (job : p.job = some j) (emptied : j.emptied = true)
    (load : j.unload = false) (read : s.readCuvee j.image = (.ok v, t)) :
    exec (.loadCompletion pn true) s = .next (t.writeLoad pn v j).settlePeers := by
  simp only [exec, execLoadCompletion, part, job, live, emptied, load, Bool.not_false, Bool.and_self, if_true, read]

/-- With every line, frame and ring had, the load is written and the partition made to run. -/
theorem writeLoad_of_had (part : t.part pn = some p) (adopted : t.adopt pn p v j = a) (next : a.part pn = some q)
    (placed : (v.imgs.map At.val).foldl (fun s x => s.placeImage q.col0 q.counters x) a = b) (backed : b.backAll (v.cellarUnits j.layers) v.needs = some d)
    (copied : ((v.cellarUnits j.layers).foldl State.toCellar
      (d.modPart pn fun p => { p with job := some { j with backed := (j.backed ++ b.unbacked v.needs).dedup } })).copyTensors j.image (v.tensors.map At.val) = (true, w))
    (near : (q.pins.foldl State.refreshPin w).allNear q.pins = some u) (rings : u.fillRings pn false = (true, z)) :
    t.writeLoad pn v j = z.finishLoad pn q v j := by
  simp only [State.writeLoad, part, adopted, next, placed, backed, copied, if_true, near, rings]

/-- A load that is no swap ends with the partition running from its slots as loaded. -/
theorem finishLoad_part (part : s.part pn = some q) (load : j.swap = false) : (s.finishLoad pn p v j).part pn
    = some { q with st := .running, job := none, idled := none, slots := loadedSlots v q.sched } := by
  simp only [State.finishLoad, load, Bool.false_eq_true, if_false]
  rw [State.part, finishRun_parts]
  refine part_modPart _ ?_
  rw [State.part, foldl_keeps State.parts _ fun s c => armCounter_parts s p c, foldl_keeps State.parts _ fun s x => placePreload_parts s p.col0 x, modTiles_parts]
  exact part

end

/-- Settles O16. -/
theorem cuveeRowsComplete : Obligations.CuveeRowsComplete := by
  refine ⟨⟨fun c v s t accepted read => ⟨fun passes => ?_, fun f fails => next_runCmd accepted ((doCuveeLoad_of_read read).2 f fails)⟩,
      fun c v p s t accepted part good read passes there => ⟨fun may => ?_, fun keep differs => ?_⟩,
      fun c p s accepted part good => next_runCmd accepted (doCuveeUnload_of_part part good), ?_,
      fun pn p q v j s part load => ⟨_, finishLoad_part part load, rfl⟩,
      fun pn p j s dev clocks part job emptied load => loadCompletion_of_failed (running_of dev clocks) part job emptied load⟩,
    fun c v image slot col0 s => ?_⟩
  · obtain ⟨ctrs, share, pins, j, part, image, swap, unload, emptied, journal, lists⟩ :=
      beginLoad_spec c v (fld c.desc 16 0 48) (fld c.desc 24 0 6) (fld c.desc 25 0 6) t
    exact ⟨_, _, j, next_runCmd accepted ((doCuveeLoad_of_read read).1 passes), part, rfl, rfl, rfl, rfl, rfl, rfl, rfl, rfl, rfl, image, swap, unload, emptied,
      journal, lists⟩
  · obtain ⟨j, part', image, swap, left, keep, writing, emptied, lists⟩ := beginSwap_spec v there
    have alike : ¬ (fld c.desc 26 0 1 = 1 ∧ geometryDiffers v p = true) := fun h => by
      rcases may with no | no
      · omega
      · exact ne_true_of_eq_false no h.2
    exact ⟨_, _, j, next_runCmd accepted ((doCuveeSwap_of_read part good read passes).trans (if_neg alike)), part', rfl, rfl, rfl, rfl, rfl, rfl, image, swap, left,
      keep, writing, emptied, lists⟩
  · exact next_runCmd accepted ((doCuveeSwap_of_read part good read passes).trans (if_pos ⟨keep, differs⟩))
  · intro pn p q j v s t a b d w u z dev clocks part job emptied load read there adopted next placed backed copied near rings
    rw [loadCompletion_of_read (running_of dev clocks) part job emptied load read, writeLoad_of_had there adopted next placed backed copied near rings]
  · obtain ⟨ctrs, share, pins, j, part, image_, swap, -, -, journal, -⟩ := beginLoad_spec c v image slot col0 s
    exact ⟨_, j, part, rfl, rfl, rfl, rfl, rfl, rfl, rfl, rfl, image_, swap, journal⟩

end Sys2Proof.Machine
